-- ==== Sys2Proof/Word.lean ====
section
/-!
DEFINITION. The word types of the part: a byte of a link frame, the 32-bit values the part stores
and does not interpret, and the indices of its fixed tables (spec/00_scope.md, R189).
-/

namespace Sys2Proof

/-- One byte of a link frame. -/
abbrev Byte := BitVec 8

/-- A 32-bit value: a tag, a tag base, a receipt reference, the pulse total (R189). -/
abbrev Word32 := BitVec 32

/-- A 16-bit set of numbered members: features, causes or notice kinds (R189). -/
abbrev Set16 := BitVec 16

/-- A pay lane, 0 to 2. -/
abbrev Lane := Fin 3

/-- A catalogue row, 0 to 31 (R1). -/
abbrev Row := Fin 32

/-- A wash station, 0 to 23 (R113). -/
abbrev StationIx := Fin 24

/-- An arm channel, 0 to 7. -/
abbrev Channel := Fin 8

/-- A station output line, 0 to 39. -/
abbrev Line := Fin 40

/-- A checkpoint eye, 0 to 3. -/
abbrev Checkpoint := Fin 4

/-- A member entry's index, 0 to 47 (R26). -/
abbrev EntryIx := Fin 48

end Sys2Proof
end

