-- ==== Sys2Proof/Syntax.lean ====
section
/-!
DEFINITION. The commands of the part: one constructor of Instr for each row of
spec/opcode_table.json. A request row is a complete frame of that kind at a port (R175, R188): it
carries the party's tag and the body bytes. A GATE DECIDE row carries the body bytes after its
decision code (R189). An event row carries what the event names: a port, a lane, a station.
-/

namespace Sys2Proof

/-- The five link ports (spec/00_scope.md "Ports and parties"). -/
inductive Port where
  | lane (i : Lane)
  | console
  | site
deriving DecidableEq, Repr

/-- The request kinds of the directory (R192). -/
inductive RequestKind where
  | readStatus | takeNotice | setMask | readTicket
  | quote | pay | cancel | tag | redeem | laneStatus
  | halt | resume | confirmRoster | removeCar | gateDecide | place | jog | jogStop
  | readRoster | readHaltHistory | readStation | readConveyor
  | setRow | setMenu | setPeriod | setClock | setTiming | setSpeedSteps | setStation | setGeometry
  | loadMember | dropMember | noMember | setWired | readMembers | readCredits | dropCredit
  | readTotals | clearTotals | openTunnel | close | save
deriving DecidableEq, Repr

/-- The commands: spec/opcode_table.json, row by row. -/
inductive Instr where
  /-- READ_STATUS (R173). -/
  | readStatus (p : Port) (tag : Byte) (body : List Byte)
  /-- TAKE_NOTICE (R186). -/
  | takeNotice (p : Port) (tag : Byte) (body : List Byte)
  /-- SET_MASK (R187). -/
  | setMask (p : Port) (tag : Byte) (body : List Byte)
  /-- READ_TICKET (R25). -/
  | readTicket (p : Port) (tag : Byte) (body : List Byte)
  /-- QUOTE (R14). -/
  | quote (p : Port) (tag : Byte) (body : List Byte)
  /-- PAY (R17). -/
  | pay (p : Port) (tag : Byte) (body : List Byte)
  /-- CANCEL (R18). -/
  | cancel (p : Port) (tag : Byte) (body : List Byte)
  /-- TAG (R32). -/
  | tag (p : Port) (tag : Byte) (body : List Byte)
  /-- REDEEM (R41). -/
  | redeem (p : Port) (tag : Byte) (body : List Byte)
  /-- LANE_STATUS (R25). -/
  | laneStatus (p : Port) (tag : Byte) (body : List Byte)
  /-- HALT (R149). -/
  | halt (p : Port) (tag : Byte) (body : List Byte)
  /-- RESUME (R150). -/
  | resume (p : Port) (tag : Byte) (body : List Byte)
  /-- CONFIRM_ROSTER (R111). -/
  | confirmRoster (p : Port) (tag : Byte) (body : List Byte)
  /-- REMOVE_CAR (R108). -/
  | removeCar (p : Port) (tag : Byte) (body : List Byte)
  /-- RETRY: GATE DECIDE with decision 0 (R64); rest is the body after the decision. -/
  | retry (p : Port) (tag : Byte) (rest : List Byte)
  /-- WAVE: GATE DECIDE with decision 1 (R65). -/
  | wave (p : Port) (tag : Byte) (rest : List Byte)
  /-- SELL: GATE DECIDE with decision 2 (R66). -/
  | sell (p : Port) (tag : Byte) (rest : List Byte)
  /-- REMOVE: GATE DECIDE with decision 3 (R67). -/
  | remove (p : Port) (tag : Byte) (rest : List Byte)
  /-- PLACE (R48). -/
  | place (p : Port) (tag : Byte) (body : List Byte)
  /-- JOG (R135). -/
  | jog (p : Port) (tag : Byte) (body : List Byte)
  /-- JOG_STOP (R136). -/
  | jogStop (p : Port) (tag : Byte) (body : List Byte)
  /-- READ_ROSTER (R112). -/
  | readRoster (p : Port) (tag : Byte) (body : List Byte)
  /-- READ_HALT_HISTORY (R148). -/
  | readHaltHistory (p : Port) (tag : Byte) (body : List Byte)
  /-- READ_STATION (R137). -/
  | readStation (p : Port) (tag : Byte) (body : List Byte)
  /-- READ_CONVEYOR (R82). -/
  | readConveyor (p : Port) (tag : Byte) (body : List Byte)
  /-- SET_ROW (R2). -/
  | setRow (p : Port) (tag : Byte) (body : List Byte)
  /-- SET_MENU (R4). -/
  | setMenu (p : Port) (tag : Byte) (body : List Byte)
  /-- SET_PERIOD (R6). -/
  | setPeriod (p : Port) (tag : Byte) (body : List Byte)
  /-- SET_CLOCK (R5). -/
  | setClock (p : Port) (tag : Byte) (body : List Byte)
  /-- SET_TIMING (R68). -/
  | setTiming (p : Port) (tag : Byte) (body : List Byte)
  /-- SET_SPEED_STEPS (R86). -/
  | setSpeedSteps (p : Port) (tag : Byte) (body : List Byte)
  /-- SET_STATION (R114). -/
  | setStation (p : Port) (tag : Byte) (body : List Byte)
  /-- SET_GEOMETRY (R96). -/
  | setGeometry (p : Port) (tag : Byte) (body : List Byte)
  /-- LOAD_MEMBER (R28). -/
  | loadMember (p : Port) (tag : Byte) (body : List Byte)
  /-- DROP_MEMBER (R30). -/
  | dropMember (p : Port) (tag : Byte) (body : List Byte)
  /-- NO_MEMBER (R37). -/
  | noMember (p : Port) (tag : Byte) (body : List Byte)
  /-- SET_WIRED (R27). -/
  | setWired (p : Port) (tag : Byte) (body : List Byte)
  /-- READ_MEMBERS (R31). -/
  | readMembers (p : Port) (tag : Byte) (body : List Byte)
  /-- READ_CREDITS (R42). -/
  | readCredits (p : Port) (tag : Byte) (body : List Byte)
  /-- DROP_CREDIT (R42). -/
  | dropCredit (p : Port) (tag : Byte) (body : List Byte)
  /-- READ_TOTALS (R24). -/
  | readTotals (p : Port) (tag : Byte) (body : List Byte)
  /-- CLEAR_TOTALS (R24). -/
  | clearTotals (p : Port) (tag : Byte) (body : List Byte)
  /-- OPEN (R160). -/
  | openTunnel (p : Port) (tag : Byte) (body : List Byte)
  /-- CLOSE (R161). -/
  | close (p : Port) (tag : Byte) (body : List Byte)
  /-- SAVE (R169). -/
  | save (p : Port) (tag : Byte) (body : List Byte)
  /-- UNKNOWN_REQUEST_KIND (R180): a complete frame whose kind is not in the directory. -/
  | unknownRequestKind (p : Port) (kind tag : Byte) (body : List Byte)
  /-- FRAME_HELD (R178): a complete frame of any kind, arriving while the port is REPLYING. -/
  | frameHeld (p : Port) (kind tag : Byte) (body : List Byte)
  /-- FRAME_DISCARDED (R175): the frame being received has a bad LENGTH or a bad check. -/
  | frameDiscarded (p : Port)
  /-- FRAMING_ERROR (R174). -/
  | framingError (p : Port)
  /-- GAP_TIMER_EXPIRY (R177). -/
  | gapTimerExpiry (p : Port)
  /-- REPLY_SENT (R178). -/
  | replySent (p : Port)
  /-- PORT_RESET (R183). -/
  | portReset (p : Port)
  /-- DEVICE_RESET (R167). -/
  | deviceReset
  /-- MINUTE_TIMER_EXPIRY (R5). -/
  | minuteTimerExpiry
  /-- PENDING_TIMER_EXPIRY (R16). -/
  | pendingTimerExpiry (i : Lane)
  /-- LOOKUP_TIMER_EXPIRY (R37). -/
  | lookupTimerExpiry (i : Lane)
  /-- LANE_EXIT_EYE_BREAK (R45). -/
  | laneExitEyeBreak (i : Lane)
  /-- OFFER (R52). -/
  | offer
  /-- OFFER_TIMER_EXPIRY (R53). -/
  | offerTimerExpiry
  /-- TIRE_SWITCH_CLOSES (R54). -/
  | tireSwitchCloses
  /-- ROLLER_UP_TIMER_EXPIRY (R54). -/
  | rollerUpTimerExpiry
  /-- LOAD_DISTANCE_PASSED (R55). -/
  | loadDistancePassed
  /-- ENTRY_EYE_BREAK (R56). -/
  | entryEyeBreak
  /-- ENTRY_EYE_RESTORE (R57). -/
  | entryEyeRestore
  /-- SETTLE_REACHED (R58). -/
  | settleReached
  /-- MAXLEN_REACHED (R59). -/
  | maxLenReached
  /-- HEIGHT_EYE_BREAK (R60). -/
  | heightEyeBreak
  /-- WIDTH_EYE_BREAK (R60). -/
  | widthEyeBreak
  /-- ENCODER_PULSE (R94): elapsed is the time, in units of 10 µs, since the command before it. -/
  | encoderPulse (elapsed : Nat)
  /-- CHECKPOINT_EYE_BREAK (R99). -/
  | checkpointEyeBreak (k : Checkpoint)
  /-- CHECKPOINT_EYE_RESTORE (R110). -/
  | checkpointEyeRestore (k : Checkpoint)
  /-- EXIT_EYE_BREAK (R102). -/
  | exitEyeBreak
  /-- EXIT_EYE_RESTORE (R104). -/
  | exitEyeRestore
  /-- WARN_TIMER_EXPIRY (R73). -/
  | warnTimerExpiry
  /-- AT_REST_TIMER_EXPIRY (R75). -/
  | atRestTimerExpiry
  /-- STALL_TIMER_EXPIRY (R76). -/
  | stallTimerExpiry
  /-- PARK_TIMER_EXPIRY (R78). -/
  | parkTimerExpiry
  /-- SAFETY_CHAIN_OPENS (R153). -/
  | safetyChainOpens
  /-- SAFETY_CHAIN_CLOSES (R155). -/
  | safetyChainCloses
  /-- DRIVE_FAULT_ACTIVE (R154). -/
  | driveFaultActive
  /-- RELAY_READBACK_CHANGE (R156): energised is what the readback now shows. -/
  | relayReadbackChange (energised : Bool)
  /-- MISMATCH_TIMER_EXPIRY (R156). -/
  | mismatchTimerExpiry
  /-- DRAIN_END (R162). -/
  | drainEnd
  /-- STOWED_SWITCH_OPENS (R122). -/
  | stowedSwitchOpens (c : Channel)
  /-- STOWED_SWITCH_CLOSES (R126). -/
  | stowedSwitchCloses (c : Channel)
  /-- ADVANCE_TIMER_EXPIRY (R123). -/
  | advanceTimerExpiry (j : StationIx)
  /-- WITHDRAW_TIMER_EXPIRY (R126). -/
  | withdrawTimerExpiry (j : StationIx)
  /-- MOTOR_CURRENT_SAMPLE (R125). -/
  | motorCurrentSample (c : Channel) (counts : Fin 1024)
  /-- TRIP_COUNT_REACHED (R125). -/
  | tripCountReached (j : StationIx)
  /-- JOG_TIMER_EXPIRY (R136). -/
  | jogTimerExpiry
  /-- ROW_WRITE_COMPLETE (R170): agrees says whether the read-back agrees with what was written. -/
  | rowWriteComplete (agrees : Bool)
  /-- BYTE_RECEIVED (R174). -/
  | byteReceived (p : Port) (b : Byte)
  /-- RECEIVE_LINE_HIGH (R183). -/
  | receiveLineHigh (p : Port)
  /-- DRIVE_FAULT_INACTIVE (R154). -/
  | driveFaultInactive
  /-- TIRE_SWITCH_OPENS (R54). -/
  | tireSwitchOpens
  /-- HEIGHT_EYE_RESTORE (R60). -/
  | heightEyeRestore
  /-- WIDTH_EYE_RESTORE (R60). -/
  | widthEyeRestore
deriving DecidableEq, Repr

end Sys2Proof
end

