-- ==== Sys2Proof/Decode.lean ====
section
/-!
DEFINITION. The commands a numbered word spells: no row of spec/opcode_table.json gives bits
(98_reader.md counts 0 rows with fixed bits), so no word spells a command.
-/

namespace Sys2Proof

/-- The command that a word of nbits bits spells by the table's bits: the table gives none. -/
def decodeTableWord (_nbits _w : Nat) : Option Instr := none

end Sys2Proof
end

