-- ==== Sys2Proof/Config.lean ====
section
/-!
DEFINITION. What is fixed for every BKC-2216: the durations that no setting changes, the limits of
the tables, and the free values, which the manual leaves open. Times are held in units of 10 µs,
the finest unit the manual uses (spec/00_scope.md "Periods"; log entry 2).
-/

namespace Sys2Proof.Config

/-- Units of 10 µs in one millisecond (R115: "One millisecond is 100 units of 10 µs"). -/
def unitsPerMs : Nat := 100

/-- Units of 10 µs in one second. -/
def unitsPerSecond : Nat := 100000

/-- R5: the minute timer expires once per minute. -/
def minuteUnits : Nat := 60 * unitsPerSecond

/-- R54: the roller-up output is on for 500 ms. -/
def rollerUnits : Nat := 500 * unitsPerMs

/-- R74: the at-rest timer starts from 1 s. -/
def restUnits : Nat := unitsPerSecond

/-- R156: the mismatch timer runs for 200 ms. -/
def mismatchUnits : Nat := 200 * unitsPerMs

/-- R177: a pause of 20 ms inside a frame abandons it. -/
def gapUnits : Nat := 20 * unitsPerMs

/-- R8: the greatest price charged. -/
def maxPrice : Nat := 50000

/-- R12: a lane sale that needs a new slot asks for at least this many free slots. -/
def saleReserve : Nat := 5

/-- R43: the most tickets a lane queue holds. -/
def laneQueueMax : Nat := 4

/-- R47: the tickets at which the merge queue, with the ticket AT_GATE, is full. -/
def mergeMax : Nat := 12

/-- R44: the merge queue count that turns the lane signals red. -/
def mergeRed : Nat := 10

/-- R90: the most cars in the roster. -/
def rosterMax : Nat := 20

/-- R90, R95: the greatest front. -/
def frontMax : Nat := 16383

/-- R38: the most credits in the credit list. -/
def creditMax : Nat := 32

/-- R20: the most entries of a finished list. -/
def finishedMax : Nat := 4

/-- R146: the most records of the halt history. -/
def historyMax : Nat := 4

/-- R80: the most period samples. -/
def samplesMax : Nat := 4

/-- R27: the greatest wired count. -/
def wiredMax : Nat := 40

/-- R188: the most body bytes of a frame. -/
def bodyMax : Nat := 60

/-- FREE VALUE (log entry 9). R171: a failed or cut-off write of the marker row leaves it in a
state that is not CLOSED, and the manual does not say which: BLANK when true, OPEN when false. -/
opaque freeMarkerBlank : Nat → Bool

/-- FREE VALUE (log entry 9). Whether a settings row whose write failed or was cut off still reads
with a correct check: the manual does not say. -/
opaque freeRowValid : Nat → Bool

end Sys2Proof.Config
end

