-- ==== Sys2Proof/Machine/State.lean ====
section
/-!
DEFINITION. The state of the part as plain data: every record the eleven blocks own
(spec/00_scope.md "The part in outline"), the field inputs and outputs, the queue of waiting
commands, and State.reset. INVENTORY.md lists each field with its rule and reset value.
-/

namespace Sys2Proof.Machine

/-! ## Named values (R190 numbers them; Machine/Codes.lean) -/

/-- R159: the tunnel mode. -/
inductive Mode where
  | setup | closed | openMode | draining | lockout
deriving DecidableEq, Repr

/-- R140: the halt state. -/
inductive HaltState where
  | running | holding | stopped
deriving DecidableEq, Repr

/-- R70: the conveyor state. -/
inductive ConvState where
  | stopped | warning | running | stopping
deriving DecidableEq, Repr

/-- R1: the kind of a catalogue row. -/
inductive RowKind where
  | plan | addon | member
deriving DecidableEq, Repr

/-- R9: the kind of a ticket. -/
inductive TicketKind where
  | paid | member | rewash | unpaid | waved | consoleSold
deriving DecidableEq, Repr

/-- R10: the state of a ticket names the one place where it stands. -/
inductive TicketState where
  | pending | lookup | laneQueued | merged | atGate | riding
deriving DecidableEq, Repr

/-- R9: where a ticket was sold. -/
inductive Origin where
  | lane (i : Lane) | console
deriving DecidableEq, Repr

/-- R22: the result a ticket leaves with. -/
inductive Result where
  | full | partialWash | removed
deriving DecidableEq, Repr

/-- R117: the progress status of one station's work on one car. -/
inductive Progress where
  | pending | active | done | skipped | missed | interrupted
deriving DecidableEq, Repr

/-- R113: the kind of a station. -/
inductive StationKind where
  | switched | arm
deriving DecidableEq, Repr

/-- R121: the state of an ARM station. -/
inductive ArmState where
  | stowed | advancing | engaged | withdrawing | fault
deriving DecidableEq, Repr

/-- R26: the status of a member entry. -/
inductive MemberStatus where
  | active | suspended
deriving DecidableEq, Repr

/-- R51, R53: why the gate is HELD. -/
inductive HoldReason where
  | unpaid | offerExpired | mergeCheck
deriving DecidableEq, Repr

/-- R50: the gate's state; a hold carries its reason. -/
inductive GateState where
  | idle | offer | loading | measuring | spacing | held (reason : HoldReason)
deriving DecidableEq, Repr

/-- R45, R46: why a break became a merge overrun. -/
inductive OverrunReason where
  | mergeFull | noSlot
deriving DecidableEq, Repr

/-- R138: an eye named as a subject. -/
inductive Eye where
  | entry | checkpoint (k : Checkpoint) | exit
deriving DecidableEq, Repr

/-- R138: the sixteen causes. -/
inductive Cause where
  | safetyChain | driveFault | consoleStop | siteStop | powerUp | conveyorStall | slip | ghost
  | crowding | rosterMoved | tailgate | loadMiss | entryIntrusion | armOverload | armStuck
  | exitBlocked
deriving DecidableEq, Repr

/-- R138: the subject of a cause. -/
inductive Subject where
  | none | ticket (n : Nat) | station (j : StationIx) | eye (e : Eye)
deriving DecidableEq, Repr

/-- R143: who ended an episode. -/
inductive EndedBy where
  | console | auto
deriving DecidableEq, Repr

/-- R165: what the marker row reads as. -/
inductive Marker where
  | closed | blank | openMarker
deriving DecidableEq, Repr

/-- R179: the status codes. -/
inductive Status where
  | ok | taken | notPermitted | badRequest | outOfRange | busy | full | notFound | wrongState
  | closed | overlap | locked | notSellable | suspended | tooSoon | unconfirmed | causePresent
deriving DecidableEq, Repr

/-! ## Small records -/

/-- A timer, with its remaining time in units of 10 µs (log entry 2). -/
inductive Timer where
  | stopped
  | running (left : Nat)
  | paused (left : Nat)
deriving DecidableEq, Repr

/-- A site clock stamp (spec/00_scope.md "Site clock stamps"). -/
structure Stamp where
  day : Nat
  minute : Nat
deriving DecidableEq, Repr

/-- R1: one catalogue row. -/
structure CatRow where
  kind : RowKind
  active : Bool
  price : Nat
  features : Set16
  cap : Nat
  discountable : Bool
deriving DecidableEq, Repr

/-- R3: a lane's menu window. -/
structure Menu where
  size : Nat
  base : Nat
deriving DecidableEq, Repr

/-- R6: a price period. -/
structure Period where
  start : Nat
  stop : Nat
  discount : Nat
deriving DecidableEq, Repr

/-- R166: the timing settings, in the order of the SET TIMING body. -/
structure Timing where
  pendingTime : Nat
  memberInterval : Nat
  lookupTime : Nat
  offerTime : Nat
  loadDistance : Nat
  settle : Nat
  minLen : Nat
  maxLen : Nat
  minGap : Nat
  waveRow : Row
  warnTime : Nat
  stallTime : Nat
  parkTime : Nat
  nominalPeriod : Nat
  pitch : Nat
deriving DecidableEq, Repr

/-- R86: the thresholds and the step speeds. -/
structure SpeedSteps where
  t1 : Nat
  t2 : Nat
  t3 : Nat
  speeds : Vector Nat 4
deriving DecidableEq, Repr

/-- R113: one station's settings. -/
structure StationCfg where
  enabled : Bool
  kind : StationKind
  offset : Nat
  pre : Nat
  post : Nat
  latency : Nat
  leadMax : Nat
  feature : Fin 16
  exclTall : Bool
  exclWide : Bool
  firstLine : Line
  secondLine : Line
  channel : Channel
  advanceTime : Nat
  withdrawTimeout : Nat
  tripLevel : Nat
  tripCount : Nat
deriving DecidableEq, Repr

/-- R96: a checkpoint's position C_k and tolerance T_k. -/
structure CheckpointCfg where
  position : Nat
  tolerance : Nat
deriving DecidableEq, Repr

/-- R96: the tunnel geometry; the list holds the used checkpoints 0 to n - 1. -/
structure Geometry where
  exitPos : Nat
  exitTol : Nat
  exitGuard : Nat
  checkpoints : List CheckpointCfg
deriving DecidableEq, Repr

/-- R166: the working settings, but for the member entries. -/
structure SiteSettings where
  catalogue : Vector CatRow 32
  menus : Vector Menu 3
  periods : Vector Period 4
  timing : Timing
  steps : SpeedSteps
  stations : Vector StationCfg 24
  geometry : Geometry
  wired : Nat
deriving DecidableEq, Repr

/-! ## SALES -/

/-- R5: the site clock. -/
structure SiteClock where
  stamp : Stamp
  unset : Bool
deriving DecidableEq, Repr

/-- R9: a ticket record. -/
structure Ticket where
  number : Nat
  kind : TicketKind
  state : TicketState
  baseRow : Option Row
  addOns : List Row
  features : Set16
  cap : Nat
  price : Nat
  origin : Origin
  receipt : Option Word32
  tag : Option Word32
  credit : Option Nat
deriving DecidableEq, Repr

/-- R13: a lane's sale slot. A pending sale holds its ticket's number, its line amounts (base line
first), its timer, and the credit it still names (R39, R41). A lookup wait holds its ticket's
number, the tag waited for and the lookup timer (R35). -/
inductive SaleSlot where
  | empty
  | pending (ticket : Nat) (lines : List Nat) (timer : Timer) (names : Option Nat)
  | lookup (ticket : Nat) (tag : Word32) (timer : Timer)
deriving DecidableEq, Repr

/-- R20: an entry of a finished list. -/
structure Finished where
  ticket : Nat
  receipt : Option Word32
  result : Result
  credit : Option Nat
deriving DecidableEq, Repr

/-- R23: a row's sale count and sale value. -/
structure RowTotal where
  count : Nat
  value : Nat
deriving DecidableEq, Repr

/-- The records SALES owns, but for the settings. -/
structure Sales where
  clock : SiteClock
  minuteTimer : Timer
  slots : Vector (Option Ticket) 40
  lastNumber : Nat
  saleSlots : Vector SaleSlot 3
  finished : Vector (List Finished) 3
  totals : Vector RowTotal 32
deriving DecidableEq, Repr

/-! ## MEMB and CRED -/

/-- R26: a member entry. -/
structure MemberEntry where
  valid : Bool
  base : Word32
  order : Nat
  row : Row
  status : MemberStatus
  stamp : Option Stamp
deriving DecidableEq, Repr

/-- The records MEMB owns, but for the wired count. -/
structure Members where
  entries : Vector MemberEntry 48
  pointer : EntryIx
deriving DecidableEq, Repr

/-- R38: a credit. -/
structure Credit where
  code : Nat
  baseRow : Option Row
  features : Set16
  cap : Nat
  reason : Result
  stamp : Stamp
  origin : Origin
deriving DecidableEq, Repr

/-! ## GATE, CONV, TRACK, STN -/

/-- The records GATE owns (R43 to R59). -/
structure Gate where
  laneQueues : Vector (List Nat) 3
  merge : List Nat
  mergeCheck : Bool
  state : GateState
  atGate : Option Nat
  offerTimer : Timer
  rollerTimer : Timer
  loadCount : Nat
  measCount : Nat
  restoreCount : Nat
  settleCount : Nat
  tailgated : Bool
deriving DecidableEq, Repr

/-- The records CONV owns (R70 to R80). -/
structure Conveyor where
  state : ConvState
  warnTimer : Timer
  restTimer : Timer
  stallTimer : Timer
  parkTimer : Timer
  parked : Bool
  samples : List Nat
  mark : Option Nat
  pulseTotal : Word32
deriving DecidableEq, Repr

/-- Vehicle flags (spec/00_scope.md). -/
structure VehicleFlags where
  tall : Bool
  wide : Bool
  short : Bool
deriving DecidableEq, Repr

/-- R90: a roster entry. A mark is true when SEEN. -/
structure Car where
  ticket : Nat
  front : Nat
  length : Option Nat
  flags : VehicleFlags
  marks : Vector Bool 4
  exitMark : Bool
  progress : Vector Progress 24
deriving DecidableEq, Repr

/-- The records TRACK owns, but for the geometry; the roster stands oldest car first. -/
structure Track where
  roster : List Car
  moved : Bool
deriving DecidableEq, Repr

/-- R121 to R126: the machine state of an ARM station. -/
structure StationMachine where
  arm : ArmState
  advanceTimer : Timer
  withdrawTimer : Timer
  trip : Nat
  opened : Bool
deriving DecidableEq, Repr

/-- R135: a running jog. -/
structure Jog where
  station : StationIx
  timer : Timer
deriving DecidableEq, Repr

/-- The records STN owns, but for the station table. -/
structure Stations where
  machines : Vector StationMachine 24
  jog : Option Jog
deriving DecidableEq, Repr

/-! ## HALT, STORE, LINK -/

/-- R143: an episode record; closing is absent while the episode is open. -/
structure Episode where
  number : Nat
  first : Cause
  further : Set16
  start : Stamp
  pulseTotal : Word32
  subject : Subject
  closing : Option (Stamp × EndedBy)
deriving DecidableEq, Repr

/-- The records HALT owns; the history stands newest first, the open episode at its head (R146). -/
structure Halt where
  state : HaltState
  causes : Set16
  history : List Episode
  counter : Nat
  mismatchTimer : Timer
deriving DecidableEq, Repr

/-- R166: what the store keeps of a wired member entry. -/
structure StoredEntry where
  index : EntryIx
  valid : Bool
  base : Word32
  order : Nat
  row : Row
  status : MemberStatus
deriving DecidableEq, Repr

/-- R166: the settings the store holds. -/
structure StoredSettings where
  site : SiteSettings
  wired : List StoredEntry
deriving DecidableEq, Repr

/-- R169, R170: a save in progress: the copy, and the write that is under way: 0 for the opening
marker, 1 to 95 for a settings row, 96 for the closing marker. -/
structure SaveJob where
  copy : StoredSettings
  row : Nat
deriving DecidableEq, Repr

/-- The records STORE owns. rowsValid holds the checks of settings rows 1 to 95; image is what the
rows hold (log entry 9); SAVING is set exactly while save is present (R168). -/
structure Store where
  marker : Marker
  rowsValid : Vector Bool 95
  image : StoredSettings
  torn : Bool
  blank : Bool
  save : Option SaveJob
deriving DecidableEq, Repr

/-- R184: a pending notice with its data. -/
inductive Notice where
  | lockout
  | halt (cause : Cause) (episode : Nat)
  | resumed (episode : Nat)
  | gateHold (reason : HoldReason) (ticket : Nat)
  | mergeOverrun (lane : Lane) (reason : OverrunReason)
  | memberMiss (lane : Lane) (tag : Word32)
  | tagResult (status : Status) (ticket : Nat)
  | saleLapsed (ticket : Nat)
  | saleDone (entry : Finished)
  | closeDone
  | storeDone (ok : Bool)
  | creditDropped (code : Nat)
deriving DecidableEq, Repr

/-- R188: a frame, request or reply, without its START, LENGTH and CHECK. -/
structure Frame where
  kind : Byte
  tag : Byte
  body : List Byte
deriving DecidableEq, Repr

/-- R174: the receiver; RECEIVING holds the bytes of the frame so far, START first. -/
inductive Receiver where
  | hunting
  | receiving (bytes : List Byte)
deriving DecidableEq, Repr

/-- R178: the request state, with the reply being sent. -/
inductive RequestState where
  | free
  | replying (reply : Frame)
deriving DecidableEq, Repr

/-- The records LINK owns for one port. The pending set stands in order of priority; lineLow is the
condition of R183 after a port reset, while the line stays low. -/
structure PortState where
  receiver : Receiver
  gapTimer : Timer
  lineLow : Bool
  request : RequestState
  held : Option Frame
  notices : List Notice
  mask : Set16
deriving DecidableEq, Repr

/-! ## Field lines -/

/-- The levels of the field inputs (spec/00_scope.md). An eye's level is true when broken. -/
structure Inputs where
  chainClosed : Bool
  driveFault : Bool
  readback : Bool
  tireClosed : Bool
  entryEye : Bool
  heightEye : Bool
  widthEye : Bool
  checkpointEyes : Vector Bool 4
  exitEye : Bool
  stowed : Vector Bool 8
  motorCurrent : Vector Nat 8
deriving DecidableEq, Repr

/-- The field outputs, the attention lines, and the registers that the rules give as functions of
the other records: written anew at the end of every command (log entry 17). -/
structure Outputs where
  avgPeriod : Nat
  depth : Nat
  step : Nat
  speedReference : Nat
  conveyorRun : Bool
  horn : Bool
  rollerUp : Bool
  goLamp : Bool
  laneGreen : Vector Bool 3
  safetyRelay : Bool
  stationLines : Vector Bool 40
  attention : Vector Bool 5
deriving DecidableEq, Repr

/-- The state of the part. -/
structure State where
  settings : SiteSettings
  sales : Sales
  memb : Members
  credits : List Credit
  gate : Gate
  conv : Conveyor
  track : Track
  stn : Stations
  halt : Halt
  mode : Mode
  store : Store
  ports : Vector PortState 5
  inputs : Inputs
  out : Outputs
  /-- Instants of 10 µs since power-on (log entry 2). -/
  now : Nat
  /-- Index of the next free value (log entry 21). -/
  free : Nat
  /-- The commands that wait, first in, first out. -/
  pending : List Instr
deriving DecidableEq, Repr

/-- The ways a step could stop the machine: none, because the spec gives every command an effect. -/
inductive Fault where
deriving DecidableEq, Repr

/-- The ways a command could have no meaning. -/
inductive Refusal where
  /-- A command whose meaning is not modelled yet, by its mnemonic: raised by no arm of exec; safe. -/
  | notModelled (mnemonic : String)
deriving DecidableEq, Repr

/-! ## Defaults and reset -/

/-- R1: the default catalogue row: feature set holding feature 0 alone. -/
def CatRow.default : CatRow := ⟨.plan, false, 0, 1, 1000, false⟩

/-- R113: the default station. -/
def StationCfg.default : StationCfg :=
  { enabled := false, kind := .switched, offset := 0, pre := 0, post := 0, latency := 0,
    leadMax := 0, feature := 0, exclTall := false, exclWide := false, firstLine := 0,
    secondLine := 1, channel := 0, advanceTime := 1000, withdrawTimeout := 2000,
    tripLevel := 1023, tripCount := 5 }

/-- R16, R68, R87, R197: the default timing settings. -/
def Timing.default : Timing :=
  { pendingTime := 180, memberInterval := 0, lookupTime := 5, offerTime := 60, loadDistance := 80,
    settle := 8, minLen := 150, maxLen := 350, minGap := 60, waveRow := 0, warnTime := 3,
    stallTime := 2000, parkTime := 120, nominalPeriod := 5000, pitch := 20 }

/-- R86: the default thresholds and step speeds. -/
def SpeedSteps.default : SpeedSteps := ⟨3, 6, 9, #v[550, 700, 850, 1000]⟩

/-- R96: the default geometry. -/
def Geometry.default : Geometry := ⟨3000, 10, 100, []⟩

/-- R167: the defaults of every stored setting. -/
def SiteSettings.default : SiteSettings :=
  { catalogue := Vector.replicate 32 CatRow.default
    menus := Vector.replicate 3 ⟨8, 0⟩
    periods := Vector.replicate 4 ⟨0, 0, 0⟩
    timing := Timing.default
    steps := SpeedSteps.default
    stations := Vector.replicate 24 StationCfg.default
    geometry := Geometry.default
    wired := 0 }

/-- R194: an entry made invalid at device reset reads 0 in every field, with the stamp absent. -/
def MemberEntry.clear : MemberEntry := ⟨false, 0, 0, 0, .active, none⟩

/-- R121: the starting state of an arm whose switch reads closed, and of a disabled one. -/
def StationMachine.start : StationMachine := ⟨.stowed, .stopped, .stopped, 0, false⟩

/-- SALES after device reset (R5, R9, R11, R13, R20, R23). -/
def Sales.start : Sales :=
  { clock := ⟨⟨0, 0⟩, true⟩
    minuteTimer := .running Config.minuteUnits
    slots := Vector.replicate 40 none
    lastNumber := 0
    saleSlots := Vector.replicate 3 .empty
    finished := Vector.replicate 3 []
    totals := Vector.replicate 32 ⟨0, 0⟩ }

/-- GATE after device reset (R43, R47, R49, R50). -/
def Gate.start : Gate :=
  { laneQueues := Vector.replicate 3 [], merge := [], mergeCheck := false, state := .idle,
    atGate := none, offerTimer := .stopped, rollerTimer := .stopped, loadCount := 0,
    measCount := 0, restoreCount := 0, settleCount := 0, tailgated := false }

/-- CONV after device reset (R70). -/
def Conveyor.start : Conveyor :=
  { state := .stopped, warnTimer := .stopped, restTimer := .stopped, stallTimer := .stopped,
    parkTimer := .stopped, parked := false, samples := [], mark := none, pulseTotal := 0 }

/-- R158: episode 1, opened by POWER_UP at device reset. -/
def Episode.powerUp : Episode :=
  { number := 1, first := .powerUp, further := 0, start := ⟨0, 0⟩, pulseTotal := 0,
    subject := .none, closing := none }

/-- HALT after device reset, before start-up reads the inputs (R158): the set holds POWER_UP, which
R190 numbers 4. -/
def Halt.start : Halt :=
  { state := .stopped, causes := 16, history := [Episode.powerUp], counter := 1,
    mismatchTimer := .stopped }

/-- A port after device reset, before HALT raises its notice (R174, R178, R184, R187). -/
def PortState.start : PortState :=
  { receiver := .hunting, gapTimer := .stopped, lineLow := false, request := .free, held := none,
    notices := [], mask := 0 }

/-- The store of a part delivered new (R165): a BLANK marker. What the settings rows hold is not
stated and no rule reads it while the marker is not CLOSED: DESIGN CHOICE (log entry 8). -/
def Store.new : Store :=
  { marker := .blank, rowsValid := Vector.replicate 95 false,
    image := ⟨SiteSettings.default, []⟩, torn := false, blank := true, save := none }

/-- The levels of the field inputs at power-on: DESIGN CHOICE (log entry 7). -/
def Inputs.start : Inputs :=
  { chainClosed := true, driveFault := false, readback := false, tireClosed := false,
    entryEye := false, heightEye := false, widthEye := false,
    checkpointEyes := Vector.replicate 4 false, exitEye := false,
    stowed := Vector.replicate 8 true, motorCurrent := Vector.replicate 8 0 }

/-- The outputs after device reset: off, the safety relay command following the closed chain
(R158), the averaged period at NominalPeriod (R70), attention asserted on every port (R185). -/
def Outputs.start : Outputs :=
  { avgPeriod := 5000, depth := 0, step := 0, speedReference := 0, conveyorRun := false,
    horn := false, rollerUp := false, goLamp := false, laneGreen := Vector.replicate 3 false,
    safetyRelay := true, stationLines := Vector.replicate 40 false,
    attention := Vector.replicate 5 true }

/-- The part right after the power-on reset of a part delivered new (R167 with a BLANK marker:
defaults, SETUP, STORE_BLANK). The mismatch timer runs because start-up has put the safety relay
command on and the readback reads de-energised (R156, R158). -/
def State.reset : State :=
  { settings := SiteSettings.default
    sales := Sales.start
    memb := ⟨Vector.replicate 48 MemberEntry.clear, 0⟩
    credits := []
    gate := Gate.start
    conv := Conveyor.start
    track := ⟨[], false⟩
    stn := ⟨Vector.replicate 24 StationMachine.start, none⟩
    halt := { Halt.start with mismatchTimer := .running Config.mismatchUnits }
    mode := .setup
    store := Store.new
    ports := Vector.replicate 5 { PortState.start with notices := [.halt .powerUp 1] }
    inputs := Inputs.start
    out := Outputs.start
    now := 0
    free := 0
    pending := [] }

end Sys2Proof.Machine
end

