-- ==== Sys2Proof/Machine/Codes.lean ====
section
/-!
DEFINITION. The numbers of the named values in every frame and record (spec/10_formats_and_codes.md,
R190, R191).
-/

namespace Sys2Proof.Machine

def Status.code : Status → Nat
  | .ok => 0 | .taken => 1 | .notPermitted => 2 | .badRequest => 3 | .outOfRange => 4 | .busy => 5
  | .full => 6 | .notFound => 7 | .wrongState => 8 | .closed => 9 | .overlap => 10 | .locked => 11
  | .notSellable => 12 | .suspended => 13 | .tooSoon => 14 | .unconfirmed => 15
  | .causePresent => 16

def Cause.code : Cause → Nat
  | .safetyChain => 0 | .driveFault => 1 | .consoleStop => 2 | .siteStop => 3 | .powerUp => 4
  | .conveyorStall => 5 | .slip => 6 | .ghost => 7 | .crowding => 8 | .rosterMoved => 9
  | .tailgate => 10 | .loadMiss => 11 | .entryIntrusion => 12 | .armOverload => 13
  | .armStuck => 14 | .exitBlocked => 15

def Mode.code : Mode → Nat
  | .setup => 0 | .closed => 1 | .openMode => 2 | .draining => 3 | .lockout => 4

def HaltState.code : HaltState → Nat
  | .running => 0 | .holding => 1 | .stopped => 2

def ConvState.code : ConvState → Nat
  | .stopped => 0 | .warning => 1 | .running => 2 | .stopping => 3

def RowKind.ofCode : Nat → Option RowKind
  | 0 => some .plan | 1 => some .addon | 2 => some .member | _ => none

def TicketKind.code : TicketKind → Nat
  | .paid => 0 | .member => 1 | .rewash => 2 | .unpaid => 3 | .waved => 4 | .consoleSold => 5

def TicketState.code : TicketState → Nat
  | .pending => 0 | .lookup => 1 | .laneQueued => 2 | .merged => 3 | .atGate => 4 | .riding => 5

def Origin.code : Origin → Nat
  | .lane i => i.val | .console => 3

def Result.code : Result → Nat
  | .full => 0 | .partialWash => 1 | .removed => 2

def Progress.code : Progress → Nat
  | .pending => 0 | .active => 1 | .done => 2 | .skipped => 3 | .missed => 4 | .interrupted => 5

def StationKind.ofCode : Nat → Option StationKind
  | 0 => some .switched | 1 => some .arm | _ => none

def ArmState.code : ArmState → Nat
  | .stowed => 0 | .advancing => 1 | .engaged => 2 | .withdrawing => 3 | .fault => 4

def MemberStatus.ofCode : Nat → Option MemberStatus
  | 0 => some .active | 1 => some .suspended | _ => none

def HoldReason.code : HoldReason → Nat
  | .unpaid => 0 | .offerExpired => 1 | .mergeCheck => 2

def OverrunReason.code : OverrunReason → Nat
  | .mergeFull => 0 | .noSlot => 1

def Eye.code : Eye → Nat
  | .entry => 0 | .checkpoint k => k.val + 1 | .exit => 5

def Subject.kindCode : Subject → Nat
  | .none => 0 | .ticket _ => 1 | .station _ => 2 | .eye _ => 3

def Subject.value : Subject → Nat
  | .none => 0 | .ticket n => n | .station j => j.val | .eye e => e.code

def EndedBy.code : EndedBy → Nat
  | .console => 1 | .auto => 2

/-- R191: notice kinds are numbered by their priority. -/
def Notice.kind : Notice → Nat
  | .lockout => 1 | .halt _ _ => 2 | .resumed _ => 3 | .gateHold _ _ => 4 | .mergeOverrun _ _ => 5
  | .memberMiss _ _ => 6 | .tagResult _ _ => 7 | .saleLapsed _ => 8 | .saleDone _ => 9
  | .closeDone => 10 | .storeDone _ => 11 | .creditDropped _ => 12

/-- R138: EXIT_BLOCKED is the one HOLD cause; every other is a STOP cause. -/
def Cause.isStop (c : Cause) : Bool := c != .exitBlocked

end Sys2Proof.Machine
end

