-- ==== Sys2Proof/Machine/Directory.lean ====
section
/-!
DEFINITION. The directory of requests (spec/10_formats_and_codes.md, R192): the code of each request
kind, the classes that may issue it (R181), the body lengths it allows (R189) and whether LOCKOUT
answers it (R182).
-/

namespace Sys2Proof

/-- R181: a port's class. -/
inductive PortClass where
  | lane | console | site
deriving DecidableEq, Repr

/-- R181: the class is fixed by the port's position. -/
def Port.cls : Port → PortClass
  | .lane _ => .lane
  | .console => .console
  | .site => .site

/-- The position of a port among the five: lanes 0 to 2, then console, then site. -/
def Port.index : Port → Fin 5
  | .lane i => ⟨i.val, by omega⟩
  | .console => 3
  | .site => 4

/-- All five ports. -/
def Port.all : List Port := [.lane 0, .lane 1, .lane 2, .console, .site]

/-- R192: the code of each request kind. -/
def RequestKind.code : RequestKind → Byte
  | .readStatus => 0x01 | .takeNotice => 0x02 | .setMask => 0x03 | .readTicket => 0x04
  | .quote => 0x10 | .pay => 0x11 | .cancel => 0x12 | .tag => 0x13 | .redeem => 0x14
  | .laneStatus => 0x15
  | .halt => 0x20 | .resume => 0x21 | .confirmRoster => 0x22 | .removeCar => 0x23
  | .gateDecide => 0x24 | .place => 0x25 | .jog => 0x26 | .jogStop => 0x27
  | .readRoster => 0x30 | .readHaltHistory => 0x31 | .readStation => 0x32 | .readConveyor => 0x33
  | .setRow => 0x40 | .setMenu => 0x41 | .setPeriod => 0x42 | .setClock => 0x43
  | .setTiming => 0x44 | .setSpeedSteps => 0x45 | .setStation => 0x46 | .setGeometry => 0x47
  | .loadMember => 0x50 | .dropMember => 0x51 | .noMember => 0x52 | .setWired => 0x53
  | .readMembers => 0x54 | .readCredits => 0x58 | .dropCredit => 0x59
  | .readTotals => 0x5C | .clearTotals => 0x5D
  | .openTunnel => 0x60 | .close => 0x61 | .save => 0x62

/-- Every request kind of the directory. -/
def RequestKind.all : List RequestKind :=
  [.readStatus, .takeNotice, .setMask, .readTicket, .quote, .pay, .cancel, .tag, .redeem,
   .laneStatus, .halt, .resume, .confirmRoster, .removeCar, .gateDecide, .place, .jog, .jogStop,
   .readRoster, .readHaltHistory, .readStation, .readConveyor, .setRow, .setMenu, .setPeriod,
   .setClock, .setTiming, .setSpeedSteps, .setStation, .setGeometry, .loadMember, .dropMember,
   .noMember, .setWired, .readMembers, .readCredits, .dropCredit, .readTotals, .clearTotals,
   .openTunnel, .close, .save]

/-- R192: the request kind of a code; a code not in the directory is unknown. -/
def RequestKind.ofCode (b : Byte) : Option RequestKind :=
  RequestKind.all.find? (fun k => k.code == b)

/-- R181: whether a class may issue a kind. -/
def RequestKind.permitted (c : PortClass) : RequestKind → Bool
  | .readStatus | .takeNotice | .setMask | .readTicket => true
  | .readRoster | .readHaltHistory | .readStation | .readConveyor => true
  | .quote | .pay | .cancel | .tag | .redeem | .laneStatus => c == .lane
  | .halt => c == .console || c == .site
  | .resume | .confirmRoster | .removeCar | .gateDecide | .place | .jog | .jogStop => c == .console
  | .setRow | .setMenu | .setPeriod | .setClock | .setTiming | .setSpeedSteps | .setStation
  | .setGeometry => c == .site
  | .loadMember | .dropMember | .noMember | .setWired | .readMembers | .readCredits
  | .dropCredit => c == .site
  | .readTotals | .clearTotals | .openTunnel | .close | .save => c == .site

/-- R180 step 3: the body lengths a kind allows, as R189 gives the sizes of the values its rule
names. -/
def RequestKind.lengthOk (n : Nat) : RequestKind → Bool
  | .readStatus | .takeNotice | .cancel | .laneStatus | .halt | .resume | .confirmRoster
  | .jogStop | .readHaltHistory | .readConveyor | .clearTotals | .openTunnel | .close
  | .save => n == 0
  | .setWired | .readMembers | .readCredits | .readTotals | .readRoster | .readStation => n == 1
  | .setMask | .readTicket | .redeem | .removeCar | .gateDecide | .place | .jog
  | .dropCredit => n == 2
  | .setMenu => n == 3
  | .pay | .tag | .setClock | .dropMember | .noMember => n == 4
  | .setPeriod => n == 6
  | .loadMember => n == 8
  | .setRow => n == 10
  | .setSpeedSteps => n == 11
  | .setStation => n == 22
  | .setTiming => n == 24
  | .quote => 1 ≤ n && n ≤ 4
  | .setGeometry => n == 6 || n == 9 || n == 12 || n == 15 || n == 18

/-- R182: the requests that LOCKOUT answers as any other mode does. -/
def RequestKind.lockoutAnswers : RequestKind → Bool
  | .readStatus | .takeNotice | .setMask => true
  | .readTicket | .readRoster | .readHaltHistory | .readStation | .readConveyor | .laneStatus
  | .readMembers | .readCredits | .readTotals => true
  | .quote | .pay | .cancel | .tag | .redeem | .halt | .resume | .confirmRoster | .removeCar
  | .gateDecide | .place | .jog | .jogStop | .setRow | .setMenu | .setPeriod | .setClock
  | .setTiming | .setSpeedSteps | .setStation | .setGeometry | .loadMember | .dropMember
  | .noMember | .setWired | .dropCredit | .clearTotals | .openTunnel | .close | .save => false

end Sys2Proof
end

