-- ==== Sys2Proof/Machine/Ops.lean ====
section
/-!
DEFINITION. The named operations over the records that every block shares: table reads and writes,
timers and the passing of time, sets of numbered members, notices, tickets and their numbers, the
queues, and the sums over the roster that other blocks read.
-/

namespace Sys2Proof.Machine

/-! ## Tables -/

/-- Apply f to every item of a fixed table. -/
def vmap {α β : Type} {n : Nat} (f : α → β) (v : Vector α n) : Vector β n :=
  ⟨⟨v.toList.map f⟩, by simp⟩

/-- Write one item of a fixed table. -/
def vset {α : Type} {n : Nat} (v : Vector α n) (i : Fin n) (x : α) : Vector α n :=
  v.set i.val x i.isLt

/-- Rewrite one item of a fixed table. -/
def vmodify {α : Type} {n : Nat} (v : Vector α n) (i : Fin n) (f : α → α) : Vector α n :=
  vset v i (f v[i])

/-- The index a number names in a table of n items, if it is below n. -/
def fin? (n x : Nat) : Option (Fin n) := if h : x < n then some ⟨x, h⟩ else none

/-- The lanes in order of lane number. -/
def lanes : List Lane := [0, 1, 2]

/-- The stations in order of index. -/
def stationIxs : List StationIx :=
  [0, 1, 2, 3, 4, 5, 6, 7, 8, 9, 10, 11, 12, 13, 14, 15, 16, 17, 18, 19, 20, 21, 22, 23]

/-- The checkpoint numbers in order. -/
def checkpointIxs : List Checkpoint := [0, 1, 2, 3]

/-! ## Sets of numbered members (R189) -/

/-- The set that holds member k alone. -/
def Set16.single (k : Nat) : Set16 := BitVec.ofNat 16 (2 ^ k)

/-- Whether a set holds member k. -/
def Set16.has (b : Set16) (k : Nat) : Bool := b.getLsbD k

/-- Add member k. -/
def Set16.insert (b : Set16) (k : Nat) : Set16 := b ||| Set16.single k

/-- Take member k out. -/
def Set16.erase (b : Set16) (k : Nat) : Set16 := b &&& ~~~ Set16.single k

/-! ## Timers and time (log entry 2) -/

/-- Whether the timer runs: a stopped or paused timer has no expiry. -/
def Timer.isRunning : Timer → Bool
  | .running _ => true
  | .stopped | .paused _ => false

/-- A running timer pauses with its remaining time. -/
def Timer.pause : Timer → Timer
  | .running n => .paused n
  | .stopped => .stopped
  | .paused n => .paused n

/-- A paused timer runs on from its remaining time. -/
def Timer.unpause : Timer → Timer
  | .paused n => .running n
  | .stopped => .stopped
  | .running n => .running n

/-- n units of 10 µs pass: only a running timer counts down, and it rests at 0 until its expiry is
taken. -/
def Timer.elapse (n : Nat) : Timer → Timer
  | .running r => .running (r - n)
  | .stopped => .stopped
  | .paused r => .paused r

/-- The remaining time, running or paused, in units of 10 µs; 0 when stopped. -/
def Timer.left : Timer → Nat
  | .running r | .paused r => r
  | .stopped => 0

/-- The remaining time in whole milliseconds (log entry 16). -/
def Timer.leftMs (t : Timer) : Nat := t.left / Config.unitsPerMs

/-- A timer started from a time in seconds. -/
def Timer.seconds (n : Nat) : Timer := .running (n * Config.unitsPerSecond)

/-- A timer started from a time in milliseconds. -/
def Timer.millis (n : Nat) : Timer := .running (n * Config.unitsPerMs)

/-- The sale slot after n units. -/
def SaleSlot.elapse (n : Nat) : SaleSlot → SaleSlot
  | .empty => .empty
  | .pending t ls tm nm => .pending t ls (tm.elapse n) nm
  | .lookup t tg tm => .lookup t tg (tm.elapse n)

/-- n units of 10 µs pass: the instant moves on and every running timer counts down. Nothing else
changes, because an expiry is a command of its own (log entry 2). -/
def advance (n : Nat) (s : State) : State :=
  { s with
    now := s.now + n
    sales := { s.sales with
      minuteTimer := s.sales.minuteTimer.elapse n
      saleSlots := vmap (SaleSlot.elapse n) s.sales.saleSlots }
    gate := { s.gate with
      offerTimer := s.gate.offerTimer.elapse n
      rollerTimer := s.gate.rollerTimer.elapse n }
    conv := { s.conv with
      warnTimer := s.conv.warnTimer.elapse n
      restTimer := s.conv.restTimer.elapse n
      stallTimer := s.conv.stallTimer.elapse n
      parkTimer := s.conv.parkTimer.elapse n }
    stn := { s.stn with
      machines := vmap (fun m => { m with
        advanceTimer := m.advanceTimer.elapse n
        withdrawTimer := m.withdrawTimer.elapse n }) s.stn.machines
      jog := s.stn.jog.map (fun j => { j with timer := j.timer.elapse n }) }
    halt := { s.halt with mismatchTimer := s.halt.mismatchTimer.elapse n }
    ports := vmap (fun pt => { pt with gapTimer := pt.gapTimer.elapse n }) s.ports }

/-! ## Stamps (spec/00_scope.md) -/

/-- Stamps compare as day × 1,440 + minute. -/
def Stamp.count (t : Stamp) : Nat := t.day * 1440 + t.minute

/-- The site clock's present value. -/
def State.stamp (s : State) : Stamp := s.sales.clock.stamp

/-! ## Ports and notices (R184) -/

def State.port (s : State) (p : Port) : PortState := s.ports[p.index]

def State.setPort (s : State) (p : Port) (x : PortState) : State :=
  { s with ports := vset s.ports p.index x }

/-- R184: a kind that is not pending joins the set in order of priority; a kind that is pending
stays once and takes the new data. -/
def addNotice (n : Notice) : List Notice → List Notice
  | [] => [n]
  | m :: ms =>
    if n.kind < m.kind then n :: m :: ms
    else if n.kind = m.kind then n :: ms
    else m :: addNotice n ms

/-- Raise a notice to one port. -/
def raiseTo (p : Port) (n : Notice) (s : State) : State :=
  s.setPort p { s.port p with notices := addNotice n (s.port p).notices }

/-- Raise a notice to all five ports. -/
def raiseAll (n : Notice) (s : State) : State :=
  { s with ports := vmap (fun pt => { pt with notices := addNotice n pt.notices }) s.ports }

/-- R185: the notices that count: pending and not masked, in order of priority. -/
def PortState.unmasked (pt : PortState) : List Notice :=
  pt.notices.filter (fun n => !Set16.has pt.mask n.kind)

/-- R190: the pending set as a set of notice kinds. -/
def PortState.pendingSet (pt : PortState) : Set16 :=
  pt.notices.foldl (fun b n => Set16.insert b n.kind) 0

/-! ## Tickets (R9 to R12) -/

/-- The live tickets. -/
def State.tickets (s : State) : List Ticket := s.sales.slots.toList.filterMap id

/-- The live ticket with a number. -/
def State.ticket? (s : State) (n : Nat) : Option Ticket :=
  s.tickets.find? (fun t => t.number == n)

/-- The number of free ticket slots. -/
def State.freeSlots (s : State) : Nat := (s.sales.slots.toList.filter Option.isNone).length

/-- Rewrite the ticket with a number. -/
def updateTicket (n : Nat) (f : Ticket → Ticket) (s : State) : State :=
  { s with sales := { s.sales with
      slots := vmap (fun o => o.map (fun t => if t.number = n then f t else t)) s.sales.slots } }

/-- The ticket with a number leaves the table and its slot becomes free. -/
def freeTicket (n : Nat) (s : State) : State :=
  { s with sales := { s.sales with
      slots := vmap (fun o => o.filter (fun t => t.number ≠ n)) s.sales.slots } }

/-- Put x in the first free place of a list of slots. -/
def fillFirst {α : Type} (x : α) : List (Option α) → List (Option α)
  | [] => []
  | none :: os => some x :: os
  | some y :: os => some y :: fillFirst x os

theorem fillFirst_length {α : Type} (x : α) (l : List (Option α)) :
    (fillFirst x l).length = l.length := by
  induction l with
  | nil => rfl
  | cons o os ih => cases o <;> simp [fillFirst, ih]

/-- A new ticket takes a free slot, the lowest one (log entry 10); with none free it takes none. -/
def addTicket (t : Ticket) (s : State) : State :=
  { s with sales := { s.sales with slots :=
      ⟨⟨fillFirst t s.sales.slots.toList⟩, by simp [fillFirst_length]⟩ } }

/-- R11: whether a live ticket or a credit holds a number. -/
def State.numberTaken (s : State) (n : Nat) : Bool :=
  s.tickets.any (fun t => t.number == n) || s.credits.any (fun c => c.code == n)

/-- The number after n, counting upward from 65,535 round to 1. -/
def succNumber (n : Nat) : Nat := if n < 65535 then n + 1 else 1

/-- R11: the first number after n that is not taken, looked for among fuel + 1 numbers. -/
def nextNumberFrom (taken : Nat → Bool) : Nat → Nat → Nat
  | 0, n => succNumber n
  | fuel + 1, n =>
    if taken (succNumber n) then nextNumberFrom taken fuel (succNumber n) else succNumber n

/-- R11: the number a new ticket takes. At most all live tickets and credits are passed over. -/
def State.nextNumber (s : State) : Nat :=
  nextNumberFrom s.numberTaken (s.tickets.length + s.credits.length) s.sales.lastNumber

/-- R11: the counter takes the new number. -/
def takeNumber (s : State) : Nat × State :=
  let n := s.nextNumber
  (n, { s with sales := { s.sales with lastNumber := n } })

/-! ## Sale slots -/

def State.saleSlot (s : State) (i : Lane) : SaleSlot := s.sales.saleSlots[i]

def setSaleSlot (i : Lane) (x : SaleSlot) (s : State) : State :=
  { s with sales := { s.sales with saleSlots := vset s.sales.saleSlots i x } }

/-- The number of the ticket a sale slot holds. -/
def SaleSlot.ticket? : SaleSlot → Option Nat
  | .empty => none
  | .pending t _ _ _ | .lookup t _ _ => some t

/-- The credit code that a sale slot's pending sale names (R41). -/
def SaleSlot.names? : SaleSlot → Option Nat
  | .pending _ _ _ nm => nm
  | .empty | .lookup _ _ _ => none

/-- R41: whether some lane's pending sale names a code. -/
def State.codeNamed (s : State) (code : Nat) : Bool :=
  lanes.any (fun i => (s.saleSlot i).names? == some code)

/-! ## Queues (R43, R47) -/

def State.laneQueue (s : State) (i : Lane) : List Nat := s.gate.laneQueues[i]

def setLaneQueue (i : Lane) (q : List Nat) (s : State) : State :=
  { s with gate := { s.gate with laneQueues := vset s.gate.laneQueues i q } }

/-- R43: a ticket joins its lane queue at the tail, in state LANE_QUEUED. -/
def joinLaneQueue (i : Lane) (n : Nat) (s : State) : State :=
  setLaneQueue i (s.laneQueue i ++ [n]) (updateTicket n (fun t => { t with state := .laneQueued }) s)

/-- R47: the merge queue is full when its tickets and the ticket AT_GATE number 12. -/
def State.mergeFull (s : State) : Bool :=
  Config.mergeMax ≤ s.gate.merge.length + (if s.gate.atGate.isSome then 1 else 0)

/-- R47: a ticket joins the merge queue at the tail, in state MERGED. -/
def joinMergeTail (n : Nat) (s : State) : State :=
  let s := updateTicket n (fun t => { t with state := .merged }) s
  { s with gate := { s.gate with merge := s.gate.merge ++ [n] } }

/-- R64 to R66: the ticket AT_GATE returns to the head of the merge queue, in state MERGED. -/
def returnToMergeHead (n : Nat) (s : State) : State :=
  let s := updateTicket n (fun t => { t with state := .merged }) s
  { s with gate := { s.gate with merge := n :: s.gate.merge, atGate := none } }

/-! ## The roster (R90, R91) -/

/-- R91: a car's rear; 0 while its length is absent. -/
def Car.rear (c : Car) : Int :=
  match c.length with
  | none => 0
  | some l => (c.front : Int) - (l : Int)

/-- The newest car: the last of the roster. -/
def State.newestCar (s : State) : Option Car := s.track.roster.getLast?

def setRoster (r : List Car) (s : State) : State :=
  { s with track := { s.track with roster := r } }

/-- Rewrite the newest car's entry. -/
def updateNewest (f : Car → Car) (s : State) : State :=
  setRoster (s.track.roster.dropLast ++ (s.track.roster.getLast?.map f).toList) s

/-- Rewrite the entry of every car with a ticket number. -/
def updateCar (n : Nat) (f : Car → Car) (s : State) : State :=
  setRoster (s.track.roster.map (fun c => if c.ticket = n then f c else c)) s

/-- The used checkpoint k's position and tolerance, if it is used (R96). -/
def State.checkpoint? (s : State) (k : Checkpoint) : Option CheckpointCfg :=
  s.settings.geometry.checkpoints[k.val]?

/-! ## Stations -/

def State.station (s : State) (j : StationIx) : StationCfg := s.settings.stations[j]

def State.machine (s : State) (j : StationIx) : StationMachine := s.stn.machines[j]

def setMachine (j : StationIx) (m : StationMachine) (s : State) : State :=
  { s with stn := { s.stn with machines := vset s.stn.machines j m } }

def updateMachine (j : StationIx) (f : StationMachine → StationMachine) (s : State) : State :=
  setMachine j (f (s.machine j)) s

/-- Whether a station is an enabled ARM station. -/
def State.isArm (s : State) (j : StationIx) : Bool :=
  (s.station j).enabled && (s.station j).kind == .arm

/-- R114: the enabled ARM station of an arm channel; no two share one. -/
def State.armOf (s : State) (c : Channel) : Option StationIx :=
  stationIxs.find? (fun j => s.isArm j && (s.station j).channel == c)

/-- The stowed switch of a station's arm channel reads closed. -/
def State.stowedClosed (s : State) (j : StationIx) : Bool :=
  s.inputs.stowed[(s.station j).channel]

/-- The station being jogged is this one. -/
def State.jogged (s : State) (j : StationIx) : Bool :=
  match s.stn.jog with
  | some g => g.station == j
  | none => false

/-- R136: the jog ends. -/
def endJog (s : State) : State := { s with stn := { s.stn with jog := none } }

/-- R135: a jog of this station ends. -/
def endJogOf (j : StationIx) (s : State) : State := if s.jogged j then endJog s else s

end Sys2Proof.Machine
end

