-- ==== Sys2Proof/Machine/Flags.lean ====
section
/-!
DEFINITION. Every register, flag and output line that the rules give as a function of the other
records: the averaged period, the pace, run demand, the safety relay command, the lamps and signals,
the station output lines and the attention lines; and drive, which writes them all.
-/

namespace Sys2Proof.Machine

/-- R81: the floor of the mean of the samples held, or NominalPeriod with none. -/
def State.avgPeriod (s : State) : Nat :=
  match s.conv.samples with
  | [] => s.settings.timing.nominalPeriod
  | l => l.sum / l.length

/-- R83: the merge queue count plus the counts of the lane queues. -/
def State.depth (s : State) : Nat :=
  s.gate.merge.length + (lanes.map (fun i => (s.laneQueue i).length)).sum

/-- R83: the step of a depth. -/
def stepOf (st : SpeedSteps) (depth : Nat) : Fin 4 :=
  if depth < st.t1 then 0 else if depth < st.t2 then 1 else if depth < st.t3 then 2 else 3

def State.speedStep (s : State) : Fin 4 := stepOf s.settings.steps s.depth

/-- The tickets whose caps limit the reference: those of the roster cars, and the one AT_GATE. -/
def State.pacedTickets (s : State) : List Nat :=
  s.track.roster.map (fun c => c.ticket) ++ s.gate.atGate.toList

/-- R84: the lowest speed cap among them, 1,000 with none. -/
def State.lowestCap (s : State) : Nat :=
  ((s.pacedTickets.filterMap s.ticket?).map (fun t => t.cap)).foldl min 1000

/-- R84, R164: the speed reference: 0 unless the conveyor is RUNNING, and 0 in LOCKOUT. -/
def State.speedReference (s : State) : Nat :=
  if s.conv.state = .running ∧ s.mode ≠ .lockout then
    max 100 (min 1000 (min s.settings.steps.speeds[s.speedStep] s.lowestCap))
  else 0

/-- R44, R71: the mode is OPEN or DRAINING. -/
def State.trading (s : State) : Bool := s.mode == .openMode || s.mode == .draining

/-- R71: run demand. -/
def State.runDemand (s : State) : Bool :=
  s.trading && s.halt.state == .running && s.inputs.chainClosed && !s.conv.parked

/-- R155: the safety relay command. -/
def State.relayCommand (s : State) : Bool := s.inputs.chainClosed && s.mode != .lockout

/-- R133, R118: the halt state as the stations take it: LOCKOUT counts as STOPPED. -/
def State.stationHalt (s : State) : HaltState :=
  if s.mode = .lockout then .stopped else s.halt.state

/-- R44: a lane signal is green with fewer than 10 tickets in the merge, in OPEN or DRAINING. -/
def State.laneGreen (s : State) : Bool :=
  s.gate.merge.length < Config.mergeRed && s.trading

/-- R53: the GO lamp is on in OFFER while the halt state is RUNNING, and held off in LOCKOUT. -/
def State.goLamp (s : State) : Bool :=
  s.gate.state == .offer && s.halt.state == .running && s.mode != .lockout

/-- R54: the roller-up output is on for its 500 ms, but off while the chain is open or in
LOCKOUT. -/
def State.rollerUp (s : State) : Bool :=
  s.gate.rollerTimer.isRunning && s.inputs.chainClosed && s.mode != .lockout

/-- A car's status at a station. -/
def Car.status (c : Car) (j : StationIx) : Progress := c.progress[j]

/-- R120: the cars ACTIVE at a station, oldest first. -/
def State.activeAt (s : State) (j : StationIx) : List Car :=
  s.track.roster.filter (fun c => c.status j == .active)

/-- R134 row 4: the value a station's first line tracks: a SWITCHED output is on while a car is
ACTIVE, a motor is on in ADVANCING and ENGAGED. -/
def State.trackFirst (s : State) (j : StationIx) : Bool :=
  match (s.station j).kind with
  | .switched => !(s.activeAt j).isEmpty
  | .arm => (s.machine j).arm == .advancing || (s.machine j).arm == .engaged

/-- R134 row 4: the value an ARM station's advance line tracks. -/
def State.trackSecond (s : State) (j : StationIx) : Bool :=
  (s.station j).kind == .arm &&
    ((s.machine j).arm == .advancing || (s.machine j).arm == .engaged)

/-- R134: the value of a station's first line (the SWITCHED line, the ARM motor line). -/
def State.firstLineOn (s : State) (j : StationIx) : Bool :=
  if !s.inputs.chainClosed || s.mode == .lockout then false
  else if s.jogged j then true
  else match s.halt.state with
    | .stopped | .holding => false
    | .running => s.trackFirst j

/-- R134: the value of an ARM station's second line (the advance line). -/
def State.secondLineOn (s : State) (j : StationIx) : Bool :=
  if !s.inputs.chainClosed || s.mode == .lockout then false
  else if s.jogged j then false
  else match s.halt.state with
    | .stopped => false
    | .holding | .running => s.trackSecond j

/-- R134: a line takes the value of the enabled station that names it, and is off with none. An ARM
station drives both its lines, a SWITCHED station its first. -/
def State.lineOn (s : State) (l : Line) : Bool :=
  stationIxs.any (fun j =>
    (s.station j).enabled &&
      (((s.station j).firstLine == l && s.firstLineOn j) ||
        ((s.station j).kind == .arm && (s.station j).secondLine == l && s.secondLineOn j)))

/-- The registers and lines as the rules give them for the records as they stand. -/
def outputsOf (s : State) : Outputs :=
  { avgPeriod := s.avgPeriod
    depth := s.depth
    step := s.speedStep.val
    speedReference := s.speedReference
    conveyorRun := s.conv.state == .running && s.mode != .lockout
    horn := s.conv.state == .warning && s.mode != .lockout
    rollerUp := s.rollerUp
    goLamp := s.goLamp
    laneGreen := Vector.replicate 3 s.laneGreen
    safetyRelay := s.relayCommand
    stationLines := Vector.ofFn s.lineOn
    attention := vmap (fun pt => !pt.unmasked.isEmpty) s.ports }

/-- The end of every command: the lines follow the records (log entry 17). -/
def drive (s : State) : State := { s with out := outputsOf s }

end Sys2Proof.Machine
end

