-- ==== Sys2Proof/Machine/StationOps.lean ====
section
/-!
DEFINITION. The wash stations' pace arithmetic, qualification and evaluation (R115 to R129), and
their reactions to a change of the halt state or to LOCKOUT (R130 to R133).
-/

namespace Sys2Proof.Machine

/-! ## Pace arithmetic (R115, R116) -/

/-- a / b, rounded up. -/
def ceilDiv (a b : Nat) : Nat := (a + b - 1) / b

/-- R115: the lesser of ceil(100 × latency / P̄) and LeadMax. -/
def leadOf (st : StationCfg) (avg : Nat) : Nat := min (ceilDiv (100 * st.latency) avg) st.leadMax

/-- R116: max(0, O − Pre − lead). -/
def onPointOf (st : StationCfg) (avg : Nat) : Nat := st.offset - st.pre - leadOf st avg

/-- R116: max(0, O + Post − lead). -/
def offPointOf (st : StationCfg) (avg : Nat) : Nat := st.offset + st.post - leadOf st avg

def State.onPoint (s : State) (j : StationIx) : Nat := onPointOf (s.station j) s.avgPeriod

def State.offPoint (s : State) (j : StationIx) : Nat := offPointOf (s.station j) s.avgPeriod

/-! ## Tests on a car (R116, R118, R119) -/

/-- R116: a car reaches the station when its front is at or beyond the on-point. -/
def State.reached (s : State) (j : StationIx) (c : Car) : Bool := s.onPoint j ≤ c.front

/-- R116: the window is open while the car's rear is below the off-point. -/
def State.windowOpen (s : State) (j : StationIx) (c : Car) : Bool :=
  c.rear < (s.offPoint j : Int)

/-- R119: the car qualifies: the station is enabled, the ticket's features hold its feature, and no
flag of the car is excluded. -/
def State.qualifies (s : State) (j : StationIx) (c : Car) : Bool :=
  (s.station j).enabled &&
    (match s.ticket? c.ticket with
     | some t => Set16.has t.features (s.station j).feature.val
     | none => false) &&
    !(c.flags.tall && (s.station j).exclTall) && !(c.flags.wide && (s.station j).exclWide)

/-- R118: a PENDING car that has reached the station and qualifies is due. -/
def State.due (s : State) (j : StationIx) (c : Car) : Bool :=
  c.status j == .pending && s.reached j c && s.qualifies j c

/-- A due car with an open window. -/
def State.dueOpen (s : State) (j : StationIx) (c : Car) : Bool := s.due j c && s.windowOpen j c

/-! ## Writing statuses -/

/-- Write one station's status in a car's entry. -/
def Car.setStatus (c : Car) (j : StationIx) (p : Progress) : Car :=
  { c with progress := vset c.progress j p }

/-- Give status p at station j to every car that passes the test. -/
def markAll (j : StationIx) (test : Car → Bool) (p : Progress) (s : State) : State :=
  setRoster (s.track.roster.map (fun c => if test c then c.setStatus j p else c)) s

/-- Rewrite the first item that passes the test. -/
def mapFirst {α : Type} (test : α → Bool) (f : α → α) : List α → List α
  | [] => []
  | x :: xs => if test x then f x :: xs else x :: mapFirst test f xs

/-- Give status p at station j to the oldest car that passes the test. -/
def markOldest (j : StationIx) (test : Car → Bool) (p : Progress) (s : State) : State :=
  setRoster (mapFirst test (fun c => c.setStatus j p) s.track.roster) s

/-! ## The arm's movements -/

/-- R126: the arm enters WITHDRAWING; when its switch reads closed at that instant it goes on to
STOWED with no timer, and otherwise the withdraw timer starts from WithdrawTimeout. -/
def withdrawArm (j : StationIx) (s : State) : State :=
  updateMachine j (fun m => { m with
    arm := if s.stowedClosed j then .stowed else .withdrawing
    advanceTimer := .stopped
    withdrawTimer :=
      if s.stowedClosed j then .stopped else Timer.millis (s.station j).withdrawTimeout }) s

/-- R122: the arm goes to ADVANCING for the oldest due car with an open window. -/
def advanceArm (j : StationIx) (s : State) : State :=
  updateMachine j (fun m => { m with
    arm := .advancing
    advanceTimer := Timer.millis (s.station j).advanceTime
    opened := false }) (markOldest j (s.dueOpen j) .active s)

/-! ## Evaluation (R118) -/

/-- R118 step 1: a PENDING car that has reached the station and does not qualify is SKIPPED. -/
def qualifyStep (j : StationIx) (s : State) : State :=
  markAll j (fun c => c.status j == .pending && s.reached j c && !s.qualifies j c) .skipped s

/-- R118 step 2. A SWITCHED station's served cars whose windows have closed are DONE (R120). An arm
ends its service when no served car has an open window, the served car having left the roster
included (R129): from ADVANCING the car is MISSED and the arm withdraws (R123); from ENGAGED the car
is DONE, and the arm hands over or withdraws (R124). -/
def endStep (j : StationIx) (s : State) : State :=
  let closed := fun c : Car => c.status j == .active && !s.windowOpen j c
  let serving := s.track.roster.any (fun c => c.status j == .active && s.windowOpen j c)
  match (s.station j).kind with
  | .switched => markAll j closed .done s
  | .arm =>
    match (s.machine j).arm with
    | .advancing => if serving then s else withdrawArm j (markAll j closed .missed s)
    | .engaged =>
      if serving then s
      else
        let s1 := markAll j closed .done s
        if s1.track.roster.any (s1.dueOpen j) then markOldest j (s1.dueOpen j) .active s1
        else withdrawArm j s1
    | .stowed | .withdrawing | .fault => s

/-- R118 step 3: each due car whose window is closed is MISSED. -/
def missStep (j : StationIx) (s : State) : State :=
  markAll j (fun c => s.due j c && !s.windowOpen j c) .missed s

/-- R118 step 4: a SWITCHED station serves every due car with an open window (R120); a STOWED arm
takes the oldest (R122). -/
def startStep (j : StationIx) (s : State) : State :=
  match (s.station j).kind with
  | .switched => markAll j (s.dueOpen j) .active s
  | .arm =>
    if (s.machine j).arm = .stowed ∧ s.track.roster.any (s.dueOpen j) then advanceArm j s else s

/-- R118: the evaluation of one station, by the halt state as the stations take it. -/
def evalStation (j : StationIx) (s : State) : State :=
  match s.stationHalt with
  | .running => startStep j (missStep j (endStep j (qualifyStep j s)))
  | .stopped => missStep j (qualifyStep j s)
  | .holding => s

/-- R118: the evaluation of every station against every car. -/
def evaluate (s : State) : State := stationIxs.foldl (fun s j => evalStation j s) s

/-! ## Reactions to the halt state (R130 to R133) -/

/-- R130: one station stops: an arm that is out withdraws, and a paused withdraw timer runs on. -/
def stopArm (s : State) (j : StationIx) : State :=
  match (s.machine j).arm with
  | .advancing | .engaged => withdrawArm j s
  | .stowed | .withdrawing | .fault =>
    updateMachine j (fun m => { m with withdrawTimer := m.withdrawTimer.unpause }) s

/-- R130: every ACTIVE status becomes INTERRUPTED and every arm that is out withdraws. -/
def stopStations (s : State) : State :=
  let s1 := setRoster (s.track.roster.map (fun c => { c with
    progress := vmap (fun p => if p = .active then .interrupted else p) c.progress })) s
  stationIxs.foldl stopArm s1

/-- R131: the advance and withdraw timers pause with their remaining times. -/
def holdStations (s : State) : State :=
  { s with stn := { s.stn with machines := vmap (fun m => { m with
      advanceTimer := m.advanceTimer.pause
      withdrawTimer := m.withdrawTimer.pause }) s.stn.machines } }

/-- R131: the timers run on from their remaining times. -/
def releaseStations (s : State) : State :=
  { s with stn := { s.stn with machines := vmap (fun m => { m with
      advanceTimer := m.advanceTimer.unpause
      withdrawTimer := m.withdrawTimer.unpause }) s.stn.machines } }

/-- R132: one station judges the INTERRUPTED statuses against their windows as they stand. -/
def judgeStation (s : State) (j : StationIx) : State :=
  setRoster (s.track.roster.map (fun c =>
    if c.status j = .interrupted then
      c.setStatus j (if s.windowOpen j c then .pending else .missed)
    else c)) s

/-- R132: every INTERRUPTED status is judged. -/
def judgeStations (s : State) : State := stationIxs.foldl judgeStation s

/-- The stations' reaction to a change of the halt state as they take it (R130 to R133), and the
evaluation that every change makes (R118). -/
def stationsHaltChange (old new : HaltState) (s : State) : State :=
  evaluate <|
    match old, new with
    | .running, .stopped | .holding, .stopped => stopStations s
    | .running, .holding => holdStations s
    | .stopped, .holding => holdStations (judgeStations s)
    | .stopped, .running => judgeStations s
    | .holding, .running => releaseStations s
    | .running, .running | .holding, .holding | .stopped, .stopped => s

end Sys2Proof.Machine
end

