-- ==== Sys2Proof/Machine/HaltOps.lean ====
section
/-!
DEFINITION. The conveyor's reactions to run demand (R71 to R75), the gate's start of a load (R54),
and the halt unit's shared operations: raising a cause, clearing one, moving the halt state with the
reactions of its readers (R139 to R147), and the relay mismatch timer (R156).
-/

namespace Sys2Proof.Machine

/-! ## The conveyor (R70 to R75) -/

/-- R73: the conveyor goes to RUNNING; the stall timer starts from StallTime. -/
def startRunning (s : State) : State :=
  { s with conv := { s.conv with
      state := .running
      warnTimer := .stopped
      stallTimer := Timer.millis s.settings.timing.stallTime } }

/-- R72: the conveyor goes to WARNING; with WarnTime 0 it passes through to RUNNING at once. -/
def startWarning (s : State) : State :=
  if s.settings.timing.warnTime = 0 then startRunning s
  else { s with conv := { s.conv with
      state := .warning
      warnTimer := Timer.seconds s.settings.timing.warnTime } }

/-- R75, R80: the conveyor enters STOPPED; the samples are removed and the mark becomes absent. -/
def enterRest (s : State) : State :=
  { s with conv := { s.conv with
      state := .stopped
      warnTimer := .stopped
      restTimer := .stopped
      samples := []
      mark := none } }

/-- R74: the run command is withdrawn; the at-rest timer starts from 1 s. -/
def startStopping (s : State) : State :=
  { s with conv := { s.conv with
      state := .stopping
      stallTimer := .stopped
      parkTimer := .stopped
      restTimer := .running Config.restUnits } }

/-- R71: the re-test of run demand: a STOPPED conveyor with demand warns (R72), and without demand a
WARNING one returns to STOPPED (R73) and a RUNNING one goes to STOPPING (R74). -/
def testDemand (s : State) : State :=
  if s.runDemand then
    match s.conv.state with
    | .stopped => startWarning s
    | .warning | .running | .stopping => s
  else
    match s.conv.state with
    | .warning => enterRest s
    | .running => startStopping s
    | .stopped | .stopping => s

/-- R118: a change of the averaged period is an evaluation. -/
def evalIfPaceMoved (before s : State) : State :=
  if s.avgPeriod = before.avgPeriod then s else evaluate s

/-- The re-test of run demand, with the evaluation that a cleared sample list makes. -/
def retestDemand (s : State) : State := evalIfPaceMoved s (testDemand s)

/-! ## The gate's load (R54) -/

/-- R54: in OFFER with the tire switch closed and the halt state RUNNING, the gate goes to LOADING:
the offer timer stops, the roller-up output is on for 500 ms, the load distance counter starts. -/
def testTire (s : State) : State :=
  if s.gate.state = .offer ∧ s.inputs.tireClosed = true ∧ s.halt.state = .running then
    { s with gate := { s.gate with
        state := .loading
        offerTimer := .stopped
        rollerTimer := .running Config.rollerUnits
        loadCount := 0 } }
  else s

/-- R53, R54: GATE's reaction to the halt state: outside RUNNING a standing offer's timer pauses; at
the return it runs on, and the wheel is looked for. -/
def gateHaltChange (s : State) : State :=
  if s.gate.state = .offer then
    if s.halt.state = .running then
      testTire { s with gate := { s.gate with offerTimer := s.gate.offerTimer.unpause } }
    else { s with gate := { s.gate with offerTimer := s.gate.offerTimer.pause } }
  else s

/-! ## Episodes (R143 to R147) -/

/-- R143, R146, R147: an episode opens: the counter's next number, the record at the head of the
history, which keeps 4, and the notice HALT to all ports. -/
def openEpisode (c : Cause) (subj : Subject) (s : State) : State :=
  let n := (s.halt.counter + 1) % 256
  let ep : Episode :=
    { number := n, first := c, further := 0, start := s.stamp, pulseTotal := s.conv.pulseTotal,
      subject := subj, closing := none }
  raiseAll (.halt c n)
    { s with halt := { s.halt with
        counter := n
        history := (ep :: s.halt.history).take Config.historyMax } }

/-- R144: a cause joins the further causes of the open episode, unless it is the first cause. -/
def joinEpisode (c : Cause) (s : State) : State :=
  match s.halt.history with
  | ep :: rest =>
    if ep.closing.isNone ∧ ep.first ≠ c then
      { s with halt := { s.halt with
          history := { ep with further := Set16.insert ep.further c.code } :: rest } }
    else s
  | [] => s

/-- R145, R147: the open episode closes, and RESUMED is raised to all ports. -/
def closeEpisode (by_ : EndedBy) (s : State) : State :=
  match s.halt.history with
  | ep :: rest =>
    if ep.closing.isNone then
      raiseAll (.resumed ep.number)
        { s with halt := { s.halt with
            history := { ep with closing := some (s.stamp, by_) } :: rest } }
    else s
  | [] => s

/-- The number of the newest episode, which is the open one while there is one (R146). -/
def State.episodeNumber (s : State) : Nat :=
  match s.halt.history with
  | ep :: _ => ep.number
  | [] => 0

/-! ## The halt state (R140, R141) -/

/-- R141: the halt state moves, and its readers react in the order CONV, STN, GATE (log entry 6). -/
def setHalt (new : HaltState) (s : State) : State :=
  let s1 := { s with halt := { s.halt with state := new } }
  gateHaltChange (stationsHaltChange s.stationHalt s1.stationHalt (testDemand s1))

/-- R139: whether a cause is in the active cause set. -/
def State.hasCause (s : State) (c : Cause) : Bool := Set16.has s.halt.causes c.code

/-- R139, R140, R143, R144: a block raises a cause. One already present changes nothing. -/
def raiseCause (c : Cause) (subj : Subject) (s : State) : State :=
  if s.hasCause c then s
  else
    let s1 := { s with halt := { s.halt with causes := Set16.insert s.halt.causes c.code } }
    match s.halt.state with
    | .running => setHalt (if c.isStop then .stopped else .holding) (openEpisode c subj s1)
    | .holding =>
      if c.isStop then setHalt .stopped (joinEpisode c s1) else joinEpisode c s1
    | .stopped => joinEpisode c s1

/-- R139, R142: a cause that clears itself leaves the set; the last one clearing in HOLDING returns
the halt state to RUNNING, and the episode closes, ended by AUTO. -/
def clearCause (c : Cause) (s : State) : State :=
  if s.hasCause c then
    let s1 := { s with halt := { s.halt with causes := Set16.erase s.halt.causes c.code } }
    if s1.halt.state = .holding ∧ s1.halt.causes = 0 then
      setHalt .running (closeEpisode .auto s1)
    else s1
  else s

/-! ## The safety relay (R155, R156) -/

/-- R156: the mismatch timer starts when the readback and the command begin to disagree, stops when
they agree, and is stopped in LOCKOUT. -/
def testMismatch (s : State) : State :=
  if s.mode = .lockout ∨ s.inputs.readback = s.relayCommand then
    { s with halt := { s.halt with mismatchTimer := .stopped } }
  else if s.halt.mismatchTimer.isRunning then s
  else { s with halt := { s.halt with mismatchTimer := .running Config.mismatchUnits } }

/-! ## Arms in FAULT (R128) -/

/-- Whether an enabled ARM station is in FAULT. -/
def State.anyFault (s : State) : Bool :=
  stationIxs.any (fun j => s.isArm j && (s.machine j).arm == .fault)

/-- R121 to R126: an arm goes to FAULT; STN raises ARM_STUCK with the station as subject, and a jog
of the station ends (R136). -/
def faultArm (j : StationIx) (s : State) : State :=
  raiseCause .armStuck (.station j)
    (endJogOf j (updateMachine j (fun m => { m with
      arm := .fault, advanceTimer := .stopped, withdrawTimer := .stopped }) s))

/-- R128: when no enabled ARM station remains in FAULT, STN clears ARM_STUCK. -/
def clearStuck (s : State) : State := if s.anyFault then s else clearCause .armStuck s

end Sys2Proof.Machine
end

