-- ==== Sys2Proof/Machine/GateOps.lean ====
section
/-!
DEFINITION. What the blocks do by themselves once an event has changed the records they watch: the
gate's tests in IDLE (R51, R52) and in SPACING (R62), the park timer (R77), and the drain test
(R162).
-/

namespace Sys2Proof.Machine

/-- R52 condition 5, R62: the roster is empty, or its newest car has a known length and a rear at or
beyond MinGap. -/
def State.gapOpen (s : State) : Bool :=
  match s.newestCar with
  | none => true
  | some c => c.length.isSome && (s.settings.timing.minGap : Int) ≤ c.rear

/-- R51: the merge head is of kind UNPAID. -/
def State.headUnpaid (s : State) : Bool :=
  match s.gate.merge with
  | [] => false
  | n :: _ =>
    match s.ticket? n with
    | some t => t.kind == .unpaid
    | none => false

/-- R52 conditions 1 to 5, the merge head not being of kind UNPAID. -/
def State.offerWanted (s : State) : Bool :=
  s.trading && s.halt.state == .running &&
    s.track.roster.length < Config.rosterMax &&
    !s.gate.merge.isEmpty && !s.headUnpaid && s.gapOpen

/-- The gate enters HELD, and GATE_HOLD is raised to the console port (R51, R53). -/
def holdGate (r : HoldReason) (n : Nat) (s : State) : State :=
  raiseTo .console (.gateHold r n) { s with gate := { s.gate with state := .held r } }

/-- The head leaves the merge queue and becomes AT_GATE (R51, R52). -/
def takeHead (n : Nat) (rest : List Nat) (s : State) : State :=
  let s := updateTicket n (fun t => { t with state := .atGate }) s
  { s with gate := { s.gate with merge := rest, atGate := some n } }

/-- The gate enters OFFER: the offer timer starts from OfferTime, paused outside RUNNING (R53), and
the wheel is looked for (R54). -/
def enterOffer (s : State) : State :=
  testTire { s with gate := { s.gate with
    state := .offer
    offerTimer :=
      if s.halt.state = .running then Timer.seconds s.settings.timing.offerTime
      else (Timer.seconds s.settings.timing.offerTime).pause } }

/-- R51, R52: the gate's tests in IDLE. With the merge-check flag set it holds; an UNPAID head is
held at the gate; with conditions 1 to 5 it offers when the conveyor is RUNNING, and asks CONV to
unpark when it is parked (R78). -/
def testIdleOnce (s : State) : State :=
  if s.gate.state ≠ .idle then s
  else if s.gate.mergeCheck then holdGate .mergeCheck (s.gate.merge.headD 0) s
  else
    match s.gate.merge with
    | [] => s
    | n :: rest =>
      if s.headUnpaid then holdGate .unpaid n (takeHead n rest s)
      else if s.offerWanted then
        if s.conv.state = .running then enterOffer (takeHead n rest s)
        else if s.conv.parked then retestDemand { s with conv := { s.conv with parked := false } }
        else s
      else s

/-- The tests in IDLE, made again after an unpark that reached RUNNING in the same event (R72 with
WarnTime 0). -/
def testIdle (s : State) : State := testIdleOnce (testIdleOnce s)

/-- R62: in SPACING, the gate goes to IDLE once the gap is open. -/
def testSpacing (s : State) : State :=
  if s.gate.state = .spacing ∧ s.gapOpen = true then
    { s with gate := { s.gate with state := .idle } }
  else s

/-- R77: the three conditions under which the park timer runs. -/
def State.parkHolds (s : State) : Bool :=
  s.conv.state == .running && s.track.roster.isEmpty && s.gate.state == .idle

/-- R77: the park timer starts from ParkTime when the three conditions first hold together, never
with ParkTime 0, and stops when any of them fails (log entry 12). -/
def testPark (before s : State) : State :=
  if s.parkHolds = before.parkHolds then s
  else if s.parkHolds then
    if s.settings.timing.parkTime = 0 then s
    else { s with conv := { s.conv with parkTimer := Timer.seconds s.settings.timing.parkTime } }
  else { s with conv := { s.conv with parkTimer := .stopped } }

/-- R162: the six drain conditions, in order. -/
def State.drainConditions (s : State) : List Bool :=
  [ lanes.all (fun i => s.saleSlot i == .empty),
    lanes.all (fun i => (s.laneQueue i).isEmpty),
    s.gate.merge.isEmpty,
    s.gate.state == .idle,
    s.track.roster.isEmpty,
    stationIxs.all (fun j => !s.isArm j || (s.machine j).arm == .stowed) ]

/-- R173: the drain conditions that do not hold, by number, from 1. -/
def State.drainFailing (s : State) : List Nat :=
  ([1, 2, 3, 4, 5, 6].zip s.drainConditions).filterMap (fun x => if x.2 then none else some x.1)

/-- R162: in DRAINING with all six conditions, the mode becomes CLOSED and CLOSE_DONE is raised to
the site port; the change of mode drops run demand. -/
def testDrain (s : State) : State :=
  if s.mode = .draining ∧ s.drainConditions.all id = true then
    retestDemand (raiseTo .site .closeDone { s with mode := .closed })
  else s

/-- What an event that changed the drain's records ends with. -/
def settleDrain (before s : State) : State := testPark before (testDrain s)

/-- What an event that changed the gate's, the roster's or the halt state's records ends with. -/
def settle (before s : State) : State := settleDrain before (testIdle s)

/-- What an event ends with whose only effect on those records can come through a change of the halt
state. -/
def settleHalted (before s : State) : State :=
  if s.halt.state = before.halt.state then s else settle before s

end Sys2Proof.Machine
end

