-- ==== Sys2Proof/Machine/Operands.lean ====
section
/-!
DEFINITION. The forms of the operands: the values of request and reply bodies (R189), the check of
R176, and the frame layout of R188. Every multi-byte value is sent most significant byte first.
-/

namespace Sys2Proof.Machine

/-! ## Writing values (R189) -/

/-- A 1-byte value. -/
def u8 (n : Nat) : List Byte := [BitVec.ofNat 8 n]

/-- A 2-byte value, most significant byte first. -/
def u16 (n : Nat) : List Byte := [BitVec.ofNat 8 (n / 256), BitVec.ofNat 8 n]

/-- A 4-byte value, most significant byte first. -/
def u32 (n : Nat) : List Byte :=
  [BitVec.ofNat 8 (n / 16777216), BitVec.ofNat 8 (n / 65536), BitVec.ofNat 8 (n / 256),
   BitVec.ofNat 8 n]

/-- A flag: 0 for clear and 1 for set. -/
def flagByte (b : Bool) : List Byte := u8 b.toNat

/-- A set of causes, features or notice kinds: 2 bytes. -/
def setBytes (b : Set16) : List Byte := u16 b.toNat

/-- A stamp: the day, then the minute; an absent stamp reads 0xFFFF, 0xFFFF. -/
def stampBytes : Option Stamp → List Byte
  | some t => u16 t.day ++ u16 t.minute
  | none => u16 65535 ++ u16 65535

/-- A rear: 2 bytes, signed, in two's complement. -/
def rearBytes (r : Int) : List Byte := u16 (BitVec.ofInt 16 r).toNat

/-- A ticket number or credit code: 0 where it is absent. -/
def numberBytes (n : Option Nat) : List Byte := u16 (n.getD 0)

/-- A 4-byte value that reads 0 where it is absent. -/
def wordBytes (w : Option Word32) : List Byte := u32 (w.getD 0).toNat

/-- A bit at a place of a packed byte. -/
def bitAt (b : Bool) (k : Nat) : Nat := if b then 2 ^ k else 0

/-! ## Reading values (R189) -/

/-- The byte at an offset of a body. -/
def byteAt (body : List Byte) (i : Nat) : Nat := (body.getD i 0).toNat

/-- The 2-byte value at an offset. -/
def wordAt (body : List Byte) (i : Nat) : Nat := byteAt body i * 256 + byteAt body (i + 1)

/-- The 4-byte value at an offset. -/
def longAt (body : List Byte) (i : Nat) : Word32 :=
  BitVec.ofNat 32 (wordAt body i * 65536 + wordAt body (i + 2))

/-- A flag byte: only 0 and 1 are flags. -/
def flagAt (body : List Byte) (i : Nat) : Option Bool :=
  match byteAt body i with
  | 0 => some false
  | 1 => some true
  | _ => none

/-- lo ≤ n ≤ hi. -/
def inRange (lo hi n : Nat) : Bool := lo ≤ n && n ≤ hi

/-! ## The check (R176) -/

/-- One incoming bit: the register is shifted up, and combined with 0x1021 when its top bit and the
incoming bit differed. -/
def crcBit (reg : BitVec 16) (b : Bool) : BitVec 16 :=
  if reg.msb = b then reg <<< 1 else (reg <<< 1) ^^^ 0x1021

/-- One covered byte, most significant bit first. -/
def crcByte (reg : BitVec 16) (x : Byte) : BitVec 16 :=
  [7, 6, 5, 4, 3, 2, 1, 0].foldl (fun r k => crcBit r (x.getLsbD k)) reg

/-- The check over the covered bytes, from 0xFFFF. -/
def crc (bytes : List Byte) : BitVec 16 := bytes.foldl crcByte 0xFFFF

/-! ## Frames (R188) -/

/-- The start byte. -/
def startByte : Byte := 0xC3

/-- The LENGTH field: the number of bytes of KIND, TAG and BODY. -/
def Frame.length (f : Frame) : Nat := f.body.length + 2

/-- The bytes the check covers: LENGTH, KIND, TAG and BODY. -/
def Frame.covered (f : Frame) : List Byte := u8 f.length ++ f.kind :: f.tag :: f.body

/-- The frame as it stands on the line. -/
def Frame.wire (f : Frame) : List Byte :=
  startByte :: (f.covered ++ u16 (crc f.covered).toNat)

/-- What a request answers: a status, and with OK the results. -/
structure Response where
  status : Status
  results : List Byte
deriving DecidableEq, Repr

/-- R179: any status but OK, TAKEN included, is the whole body. -/
def refuse (st : Status) : Response := ⟨st, []⟩

/-- OK with results. -/
def okWith (results : List Byte) : Response := ⟨.ok, results⟩

/-- R179: the reply to a frame: the kind plus 0x80, the tag unchanged, the status and the results. -/
def replyTo (f : Frame) (r : Response) : Frame :=
  { kind := f.kind + 0x80
    tag := f.tag
    body := u8 r.status.code ++ (if r.status = .ok then r.results else []) }

end Sys2Proof.Machine
end

