-- ==== Sys2Proof/Machine/SalesOps.lean ====
section
/-!
DEFINITION. The shared operations of SALES, MEMB and CRED: the discount in force and the price
computation (R6 to R8), writing a lane's sale (R12, R15, R34), the sales totals (R23), credits
(R38, R39), stamps (R40), finished lists (R20) and the retirement of a ticket with a result (R22).
-/

namespace Sys2Proof.Machine

/-- What a step answers: always a next state (INVENTORY.md "Faults"). -/
abbrev Answer := Host.Outcome State Fault Refusal

/-- The end of a command: the lines follow the records. -/
def done (s : State) : Answer := .next (drive s)

/-! ## Prices (R6 to R8) -/

/-- R6: whether a period matches a minute. -/
def Period.covers (p : Period) (m : Nat) : Bool :=
  if p.start = p.stop then false
  else if p.start < p.stop then p.start ≤ m && m < p.stop
  else p.start ≤ m || m < p.stop

/-- R7: the discount in force. -/
def State.discount (s : State) : Nat :=
  if s.sales.clock.unset then 0
  else
    match s.settings.periods.toList.find? (fun p => p.covers s.stamp.minute) with
    | some p => p.discount
    | none => 0

/-- R8: what the computation gives: the line amounts, base line first, the price charged, the
discount percent used, the feature set and the speed cap. -/
structure Priced where
  lines : List Nat
  total : Nat
  percent : Nat
  features : Set16
  cap : Nat
deriving DecidableEq, Repr

/-- R8: an excess taken from amounts in the order given, none reduced below 0. -/
def takeExcess : Nat → List Nat → List Nat
  | _, [] => []
  | e, a :: as => (a - e) :: takeExcess (e - a) as

/-- R8: the price of a base row with add-on rows at a discount in force. -/
def priceOf (base : CatRow) (adds : List CatRow) (inForce : Nat) : Priced :=
  let d := if base.discountable then inForce else 0
  let baseLine := base.price - (base.price * d + 50) / 100
  let amounts := adds.map (fun r => r.price)
  let raw := baseLine + amounts.sum
  let total := min raw Config.maxPrice
  { lines := baseLine :: (takeExcess (raw - total) amounts.reverse).reverse
    total := total
    percent := d
    features := adds.foldl (fun b r => b ||| r.features) base.features
    cap := adds.foldl (fun c r => min c r.cap) base.cap }

/-- The catalogue row at an index. -/
def State.row (s : State) (r : Row) : CatRow := s.settings.catalogue[r]

/-! ## The ticket of a lane's sale (R12, R15, R34) -/

/-- The ticket that a new sale at a lane keeps: that of a pending sale of kind PAID. -/
def State.keptTicket (s : State) (i : Lane) : Option Nat :=
  match s.saleSlot i with
  | .pending t _ _ _ =>
    match s.ticket? t with
    | some tk => if tk.kind = .paid then some t else none
    | none => none
  | .empty | .lookup _ _ _ => none

/-- R12: a sale that needs a new slot asks for 5 free slots, the slot it would itself cancel counting
as free. -/
def State.slotRoom (s : State) (i : Lane) : Bool :=
  (s.keptTicket i).isSome ||
    Config.saleReserve ≤ s.freeSlots + (if (s.saleSlot i).ticket?.isSome then 1 else 0)

/-- R15, R34: the sale's ticket is written. A pending sale of kind PAID keeps its slot and number;
anything else the slot holds is cancelled, and a new slot and number are taken. -/
def writeSale (i : Lane) (record : Nat → Ticket) (s : State) : Nat × State :=
  match s.keptTicket i with
  | some n => (n, updateTicket n (fun _ => record n) s)
  | none =>
    let s1 :=
      match (s.saleSlot i).ticket? with
      | some t => freeTicket t s
      | none => s
    let (n, s2) := takeNumber s1
    (n, addTicket (record n) s2)

/-! ## Totals (R23) -/

/-- R23: a counted row gains 1 in its count and an amount in its value; both saturate. -/
def countRow (r : Row) (amount : Nat) (s : State) : State :=
  { s with sales := { s.sales with
      totals := vmodify s.sales.totals r (fun t =>
        ⟨min (t.count + 1) 65535, min (t.value + amount) 4294967295⟩) } }

/-- R23: each row of a PAID sale is counted with its line amount. -/
def countRows (rows : List Row) (lines : List Nat) (s : State) : State :=
  (rows.zip lines).foldl (fun s x => countRow x.1 x.2 s) s

/-! ## Members (R26, R40) -/

/-- R26: the number of tags an entry's range covers. -/
def rangeSize (order : Nat) : Nat := 2 ^ order

/-- R26: whether a valid entry covers a tag. -/
def MemberEntry.covers (e : MemberEntry) (t : Word32) : Bool :=
  e.valid && e.base.toNat ≤ t.toNat && t.toNat < e.base.toNat + rangeSize e.order

/-- R40: the last wash stamp of the entry that covers a tag is cleared. -/
def clearStamp (t : Word32) (s : State) : State :=
  { s with memb := { s.memb with
      entries := vmap (fun e => if e.covers t then { e with stamp := none } else e)
        s.memb.entries } }

/-! ## Credits (R38, R39) -/

/-- R39: a pending sale that names a dropped code names no credit from then on. -/
def SaleSlot.forget (code : Nat) : SaleSlot → SaleSlot
  | .pending t ls tm nm => .pending t ls tm (if nm = some code then none else nm)
  | .empty => .empty
  | .lookup t tg tm => .lookup t tg tm

/-- R39: the oldest credit is dropped, and CREDIT_DROPPED is raised to the site port. -/
def dropOldestCredit (s : State) : State :=
  match s.credits with
  | [] => s
  | c :: rest =>
    raiseTo .site (.creditDropped c.code)
      { s with
        credits := rest
        sales := { s.sales with saleSlots := vmap (SaleSlot.forget c.code) s.sales.saleSlots } }

/-- R38, R39: a credit is issued for a leaving ticket, at the tail; a full list first drops its
oldest. -/
def issueCredit (t : Ticket) (r : Result) (s : State) : State :=
  let s1 := if Config.creditMax ≤ s.credits.length then dropOldestCredit s else s
  { s1 with credits := s1.credits ++
      [{ code := t.number, baseRow := t.baseRow, features := t.features, cap := t.cap, reason := r,
         stamp := s.stamp, origin := t.origin }] }

/-- R17, R42: the credit with a code leaves the list; those behind it keep their order. -/
def removeCredit (code : Nat) (s : State) : State :=
  { s with credits := s.credits.filter (fun c => c.code ≠ code) }

/-! ## Results (R20 to R22) -/

/-- R20, R21: an entry is pushed at the head of a lane's finished list, which keeps 4, and SALE_DONE
is raised to the lane's port. -/
def pushFinished (i : Lane) (e : Finished) (s : State) : State :=
  raiseTo (.lane i) (.saleDone e)
    { s with sales := { s.sales with
        finished := vmodify s.sales.finished i (fun l => (e :: l).take Config.finishedMax) } }

/-- R22 step 1: whether a kind of ticket earns a credit with a result of PARTIAL or REMOVED. -/
def TicketKind.earnsCredit : TicketKind → Bool
  | .paid | .rewash | .consoleSold => true
  | .member | .unpaid | .waved => false

/-- R22: a ticket leaves the table with a result. -/
def retireTicket (n : Nat) (r : Result) (s : State) : State :=
  match s.ticket? n with
  | none => s
  | some t =>
    let credited := r != .full && t.kind.earnsCredit
    let s1 :=
      if credited then issueCredit t r s
      else if r ≠ .full ∧ t.kind = .member then
        match t.tag with
        | some tg => clearStamp tg s
        | none => s
      else s
    let s2 := freeTicket n s1
    match t.origin with
    | .lane i =>
      pushFinished i ⟨n, t.receipt, r, if credited then some n else none⟩ s2
    | .console => s2

/-! ## Records as read (R193) -/

/-- R193: a finished-list entry, 10 bytes. -/
def finishedBytes (e : Finished) : List Byte :=
  u16 e.ticket ++ u8 e.result.code ++ u8 (bitAt e.receipt.isSome 1 + bitAt e.credit.isSome 3) ++
    wordBytes e.receipt ++ numberBytes e.credit

/-- R193: a row index, 0 where it is absent. -/
def rowByte (r : Option Row) : List Byte := u8 (r.getD 0).val

/-- R193: the three add-on bytes; unused ones read 0. -/
def addOnBytes (l : List Row) : List Byte :=
  [0, 1, 2].flatMap (fun k => u8 ((l[k]?.getD 0 : Row).val))

/-- R193: a ticket record, 27 bytes. -/
def ticketBytes (t : Ticket) : List Byte :=
  u16 t.number ++ u8 t.kind.code ++ u8 t.state.code ++
    u8 (bitAt t.baseRow.isSome 0 + bitAt t.receipt.isSome 1 + bitAt t.tag.isSome 2 +
      bitAt t.credit.isSome 3) ++
    rowByte t.baseRow ++ u8 t.addOns.length ++ addOnBytes t.addOns ++
    setBytes t.features ++ u16 t.cap ++ u16 t.price ++ u8 t.origin.code ++
    wordBytes t.receipt ++ wordBytes t.tag ++ numberBytes t.credit

end Sys2Proof.Machine
end

