-- ==== Sys2Proof/Machine/RosterOps.lean ====
section
/-!
DEFINITION. The shared operations of TRACK (spec/05_the_roster.md): what a change of the roster
brings about, the exit blocked test (R109), the moved flag (R110), and the removal of a car (R106,
R107, R61, R129).
-/

namespace Sys2Proof.Machine

/-! ## Spans and the exit blocked test (R101, R109) -/

/-- R101: a car spans an eye at pos with tolerance tol. -/
def Car.spans (c : Car) (pos tol : Nat) : Bool :=
  (pos : Int) - (tol : Int) ≤ (c.front : Int) && c.rear ≤ (pos : Int) + (tol : Int)

/-- R109: the oldest car whose exit mark is UNSEEN. -/
def State.approaching (s : State) : Option Car := s.track.roster.find? (fun c => !c.exitMark)

/-- R109: the approaching car of a blocked exit. -/
def State.exitBlockedBy (s : State) : Option Car :=
  let g := s.settings.geometry
  if s.inputs.exitEye &&
      !s.track.roster.any (fun c => c.exitMark && c.spans g.exitPos g.exitTol) then
    match s.approaching with
    | some c => if g.exitPos ≤ c.front + g.exitGuard then some c else none
    | none => none
  else none

/-- R109: when the test is true, TRACK raises the HOLD cause EXIT_BLOCKED with the approaching car
as subject; present already, it changes nothing. -/
def testExitBlocked (s : State) : State :=
  match s.exitBlockedBy with
  | some c => raiseCause .exitBlocked (.ticket c.ticket) s
  | none => s

/-- A roster change (R94, R106, R118): TRACK tests the exit, STN evaluates, GATE tests its
spacing. -/
def rosterChanged (s : State) : State := testSpacing (evaluate (testExitBlocked s))

/-! ## The moved flag (R110) -/

/-- R110: an eye change at rest under HOLDING or STOPPED sets the moved flag; in HOLDING it also
raises ROSTER_MOVED with the eye as subject. -/
def noteMoved (e : Eye) (s : State) : State :=
  if s.conv.state = .stopped then
    let s1 := { s with track := { s.track with moved := true } }
    match s.halt.state with
    | .running => s
    | .holding => raiseCause .rosterMoved (.eye e) s1
    | .stopped => s1
  else s

/-! ## Removal (R106, R107) -/

/-- R107: the wash result: PARTIAL when any status is MISSED or PENDING. -/
def Car.washResult (c : Car) : Result :=
  if c.progress.toList.any (fun p => p == .missed || p == .pending) then .partialWash else .full

/-- R61: GATE abandons the measurement of a removed car. -/
def abandonMeasure (s : State) : State :=
  { s with gate := { s.gate with
      state := .idle, measCount := 0, restoreCount := 0, settleCount := 0, tailgated := false } }

/-- R106: a car leaves the roster with a result: its entry goes, SALES retires its ticket, GATE
abandons its measurement when it was the car measured, and STN drops it, which is an evaluation
(R118, R129). -/
def dropCar (n : Nat) (r : Result) (s : State) : State :=
  let measured := s.gate.state == .measuring &&
    s.track.roster.any (fun c => c.ticket == n && c.length.isNone)
  let s1 := retireTicket n r (setRoster (s.track.roster.filter (fun c => c.ticket ≠ n)) s)
  evaluate (if measured then abandonMeasure s1 else s1)

/-- R104, R105: a car leaves at the exit with the result its statuses give at this instant. -/
def dropAtExit (s : State) (n : Nat) : State :=
  match s.track.roster.find? (fun c => c.ticket == n) with
  | some c => dropCar n c.washResult s
  | none => s

end Sys2Proof.Machine
end

