-- ==== Sys2Proof/Machine/Gate.lean ====
section
/-!
DEFINITION. The family of lanes, merge and entry gate (spec/03_lanes_merge_and_the_entry_gate.md):
lane exit eye breaks, the offer and its timer, the tire switch, the roller, loading, measuring and
spacing, the height and width eyes, and the console's PLACE and GATE DECIDE.
-/

namespace Sys2Proof.Machine

/-! ## Lane exit eyes (R45, R46, R49) -/

/-- R45, R46: a merge overrun sets the merge-check flag and raises MERGE_OVERRUN to the console. -/
def overrun (i : Lane) (r : OverrunReason) (s : State) : State :=
  raiseTo .console (.mergeOverrun i r) { s with gate := { s.gate with mergeCheck := true } }

/-- R46: the placeholder's record. -/
def placeholder (i : Lane) (n : Nat) : Ticket :=
  { number := n, kind := .unpaid, state := .merged, baseRow := none, addOns := [], features := 0,
    cap := 1000, price := 0, origin := .lane i, receipt := none, tag := none, credit := none }

/-- R45, R46: a break of lane exit eye i. -/
def laneBreak (i : Lane) (s : State) : State :=
  match s.laneQueue i with
  | n :: rest =>
    if s.mergeFull then overrun i .mergeFull s
    else joinMergeTail n (setLaneQueue i rest s)
  | [] =>
    if s.mergeFull then overrun i .mergeFull s
    else if s.freeSlots = 0 then overrun i .noSlot s
    else
      let (n, s1) := takeNumber s
      joinMergeTail n (addTicket (placeholder i n) s1)

/-- LANE_EXIT_EYE_BREAK (R45, R46). -/
def execLaneExitEyeBreak (i : Lane) (s : State) : Answer := done (settle s (laneBreak i s))

/-! ## The offer (R52 to R54) -/

/-- OFFER (R51, R52): GATE's tests in IDLE. -/
def execOffer (s : State) : Answer := done (testPark s (testIdle s))

/-- OFFER_TIMER_EXPIRY (R53): a running offer timer expires. -/
def offerExpiry (s : State) : State :=
  if s.gate.state = .offer ∧ s.gate.offerTimer.isRunning = true then
    holdGate .offerExpired (s.gate.atGate.getD 0)
      { s with gate := { s.gate with offerTimer := .stopped } }
  else s

def execOfferTimerExpiry (s : State) : Answer := done (offerExpiry s)

/-- TIRE_SWITCH_CLOSES (R54). -/
def execTireSwitchCloses (s : State) : Answer :=
  done (testTire { s with inputs := { s.inputs with tireClosed := true } })

/-- TIRE_SWITCH_OPENS (R54): ignored by the gate; later tests find the switch open. -/
def execTireSwitchOpens (s : State) : Answer :=
  done { s with inputs := { s.inputs with tireClosed := false } }

/-- ROLLER_UP_TIMER_EXPIRY (R54): the roller-up output goes off after its 500 ms. -/
def execRollerUpTimerExpiry (s : State) : Answer :=
  done { s with gate := { s.gate with
    rollerTimer := if s.gate.rollerTimer.isRunning then .stopped else s.gate.rollerTimer } }

/-! ## Loading (R55) -/

/-- R55: the load distance counter has passed LoadDistance. -/
def State.loadDue (s : State) : Bool :=
  s.gate.state == .loading && s.settings.timing.loadDistance < s.gate.loadCount

/-- R55: when the counter has passed LoadDistance, GATE raises LOAD_MISS and returns to OFFER with
the same ticket and the offer timer restarted. -/
def testLoadDistance (s : State) : State :=
  if s.loadDue then
    enterOffer (raiseCause .loadMiss
      (match s.gate.atGate with
       | some n => .ticket n
       | none => .none) s)
  else s

/-- LOAD_DISTANCE_PASSED (R55). -/
def execLoadDistancePassed (s : State) : Answer := done (settleHalted s (testLoadDistance s))

/-! ## Measuring (R56 to R60) -/

/-- The ticket of the car being measured, as a subject (R138). -/
def State.measuredSubject (s : State) : Subject :=
  match s.newestCar with
  | some c => .ticket c.ticket
  | none => .none

/-- R58, R59: GATE hands the newest car's length to TRACK and goes to SPACING. -/
def fixLength (len : Nat) (short : Bool) (s : State) : State :=
  let s1 := updateNewest (fun c => { c with
    length := some len
    flags := { c.flags with short := c.flags.short || short } }) s
  rosterChanged { s1 with gate := { s1.gate with state := .spacing, tailgated := false } }

/-- R57: the settle count stands at Settle or above while the eye is restored, and TAILGATE has not
been raised for the car (R59). -/
def State.settleDue (s : State) : Bool :=
  s.gate.state == .measuring && !s.gate.tailgated && !s.inputs.entryEye &&
    s.settings.timing.settle ≤ s.gate.settleCount

/-- R58: the length that settle fixes, clamped to MinLen with the flag SHORT. -/
def testSettled (s : State) : State :=
  if s.settleDue then
    if s.settings.timing.minLen ≤ s.gate.restoreCount then fixLength s.gate.restoreCount false s
    else fixLength s.settings.timing.minLen true s
  else s

/-- R59: the measuring count stands at MaxLen + 1 or above, and TAILGATE has not been raised for the
car. -/
def State.maxLenDue (s : State) : Bool :=
  s.gate.state == .measuring && !s.gate.tailgated &&
    s.settings.timing.maxLen + 1 ≤ s.gate.measCount

/-- R59: a measuring count at or above MaxLen + 1 raises TAILGATE, once for each car, and is set to
MaxLen + 1. -/
def testMaxLen (s : State) : State :=
  if s.maxLenDue then
    raiseCause .tailgate s.measuredSubject
      { s with gate := { s.gate with
          measCount := s.settings.timing.maxLen + 1, tailgated := true } }
  else s

/-- SETTLE_REACHED (R58). -/
def execSettleReached (s : State) : Answer :=
  done (if s.settleDue then settle s (testSettled s) else s)

/-- MAXLEN_REACHED (R59). -/
def execMaxLenReached (s : State) : Answer := done (settleHalted s (testMaxLen s))

/-- R60: the flags that the broken height and width eyes add to the car being measured. -/
def captureFlags (s : State) : State :=
  updateNewest (fun c => { c with flags := { c.flags with
    tall := c.flags.tall || s.inputs.heightEye
    wide := c.flags.wide || s.inputs.widthEye } }) s

/-- R60: the capture is made while the gate is MEASURING and the entry eye is broken. -/
def testCapture (s : State) : State :=
  if s.gate.state = .measuring ∧ s.inputs.entryEye = true then rosterChanged (captureFlags s)
  else s

/-- R92: the entry of a car that has just broken the entry eye. -/
def newCar (n : Nat) : Car :=
  { ticket := n, front := 0, length := none, flags := ⟨false, false, false⟩,
    marks := Vector.replicate 4 false, exitMark := false,
    progress := Vector.replicate 24 .pending }

/-- R56 in LOADING, R92: the ticket AT_GATE rides; the gate measures its car. The flags of eyes
already broken are captured in the same event (R60, log entry 15). -/
def beginMeasure (n : Nat) (s : State) : State :=
  let s1 := updateTicket n (fun t => { t with state := .riding }) s
  let s2 := setRoster (s1.track.roster ++ [newCar n]) s1
  rosterChanged (captureFlags { s2 with gate := { s2.gate with
    state := .measuring, atGate := none, measCount := 0, restoreCount := 0, settleCount := 0,
    tailgated := false } })

/-- R57, R59: the eye breaks again during settle: the restored stretch belongs to the car. -/
def resumeMeasure (s : State) : State :=
  let grown := if s.gate.tailgated then s.gate.measCount else s.gate.measCount + s.gate.settleCount
  testCapture (testMaxLen { s with gate := { s.gate with
    measCount := grown, settleCount := 0 } })

/-- R56: the gate's part of a break of the entry eye. -/
def gateEntryBreak (s : State) : State :=
  match s.gate.state with
  | .loading =>
    match s.gate.atGate with
    | some n => beginMeasure n s
    | none => s
  | .measuring => resumeMeasure s
  | .idle | .offer | .spacing | .held _ => raiseCause .entryIntrusion (.eye .entry) s

/-- ENTRY_EYE_BREAK (R56, R110). -/
def entryBreak (s : State) : State :=
  gateEntryBreak (noteMoved .entry { s with inputs := { s.inputs with entryEye := true } })

def execEntryEyeBreak (s : State) : Answer := done (settleHalted s (entryBreak s))

/-- R57: GATE notes the measuring count, and the settle count starts. -/
def gateEntryRestore (s : State) : State :=
  if s.gate.state = .measuring then
    { s with gate := { s.gate with restoreCount := s.gate.measCount, settleCount := 0 } }
  else s

/-- ENTRY_EYE_RESTORE (R57, R110). -/
def entryRestore (s : State) : State :=
  gateEntryRestore (noteMoved .entry { s with inputs := { s.inputs with entryEye := false } })

def execEntryEyeRestore (s : State) : Answer := done (settleHalted s (entryRestore s))

/-- HEIGHT_EYE_BREAK (R60). -/
def execHeightEyeBreak (s : State) : Answer :=
  done (settleHalted s (testCapture { s with inputs := { s.inputs with heightEye := true } }))

/-- WIDTH_EYE_BREAK (R60). -/
def execWidthEyeBreak (s : State) : Answer :=
  done (settleHalted s (testCapture { s with inputs := { s.inputs with widthEye := true } }))

/-- HEIGHT_EYE_RESTORE (R60). -/
def execHeightEyeRestore (s : State) : Answer :=
  done { s with inputs := { s.inputs with heightEye := false } }

/-- WIDTH_EYE_RESTORE (R60). -/
def execWidthEyeRestore (s : State) : Answer :=
  done { s with inputs := { s.inputs with widthEye := false } }

/-! ## The gate's part of an encoder pulse (R55, R57, R59, R62) -/

/-- R55, R57, R62: the counts that a pulse adds to, and the tests it makes. -/
def gatePulse (s : State) : State :=
  match s.gate.state with
  | .loading =>
    testLoadDistance { s with gate := { s.gate with loadCount := s.gate.loadCount + 1 } }
  | .measuring =>
    testSettled (testMaxLen
      (if s.inputs.entryEye then
        if s.gate.tailgated then s
        else { s with gate := { s.gate with measCount := s.gate.measCount + 1 } }
       else { s with gate := { s.gate with settleCount := s.gate.settleCount + 1 } }))
  | .spacing => testSpacing s
  | .idle | .offer | .held _ => s

/-! ## PLACE (R48) -/

/-- PLACE (R48). -/
def placeRequest (b : List Byte) (s : State) : Response × State :=
  let n := wordAt b 0
  match s.ticket? n with
  | none => (refuse .notFound, s)
  | some t =>
    if t.state ≠ .laneQueued then (refuse .notFound, s)
    else if s.mergeFull then (refuse .full, s)
    else
      let s1 := { s with gate := { s.gate with
        laneQueues := vmap (fun q => q.filter (fun x => x ≠ n)) s.gate.laneQueues } }
      (okWith (u16 n), settle s (joinMergeTail n s1))

/-! ## GATE DECIDE (R63 to R67) -/

/-- A decision that is carried out leaves the gate IDLE, where R51 and R52 apply at once. -/
def decided (before : State) (r : Response) (s : State) : Response × State :=
  (r, settle before { s with gate := { s.gate with state := .idle } })

/-- R63: a decision that leaves a hold of reason MERGE_CHECK clears the flag. -/
def clearMergeCheck (s : State) : State := { s with gate := { s.gate with mergeCheck := false } }

/-- RETRY (R64). -/
def decideRetry (s : State) : Response × State :=
  match s.gate.state with
  | .held .offerExpired =>
    match s.gate.atGate with
    | some n => decided s (okWith (u16 n)) (returnToMergeHead n s)
    | none => (refuse .wrongState, s)
  | .held .mergeCheck => decided s (okWith (u16 (s.gate.merge.headD 0))) (clearMergeCheck s)
  | .held .unpaid | .idle | .offer | .loading | .measuring | .spacing => (refuse .wrongState, s)

/-- WAVE (R65). -/
def decideWave (s : State) : Response × State :=
  match s.gate.state with
  | .held .unpaid =>
    match s.gate.atGate with
    | some n =>
      let w := s.settings.timing.waveRow
      let s1 := updateTicket n (fun t => { t with
        kind := .waved
        baseRow := some w
        features := (s.row w).features
        cap := (s.row w).cap
        price := 0 }) s
      decided s (okWith (u16 n)) (returnToMergeHead n s1)
    | none => (refuse .wrongState, s)
  | .held .offerExpired | .held .mergeCheck | .idle | .offer | .loading | .measuring
  | .spacing => (refuse .wrongState, s)

/-- R66: the record of a sold ticket. -/
def soldTicket (r : Row) (pr : Priced) (n : Nat) : Ticket :=
  { number := n, kind := .consoleSold, state := .merged, baseRow := some r, addOns := [],
    features := pr.features, cap := pr.cap, price := pr.total, origin := .console,
    receipt := none, tag := none, credit := none }

/-- R66: in the slot of the ticket with number old stands ticket t. -/
def replaceTicket (old : Nat) (t : Ticket) (s : State) : State :=
  { s with sales := { s.sales with
      slots := vmap (fun o => o.map (fun x => if x.number = old then t else x)) s.sales.slots } }

/-- R66: the number a sold ticket takes: the placeholder's is free by then. -/
def soldNumber (old : Nat) (s : State) : Nat := (freeTicket old s).nextNumber

/-- SELL (R66). -/
def decideSell (rowByte : Nat) (s : State) : Response × State :=
  match s.gate.state with
  | .held .unpaid =>
    match fin? 32 rowByte with
    | none => (refuse .outOfRange, s)
    | some r =>
      if !(s.row r).active || (s.row r).kind != .plan then (refuse .notSellable, s)
      else
        match s.gate.atGate with
        | none => (refuse .wrongState, s)
        | some old =>
          let pr := priceOf (s.row r) [] s.discount
          let n := soldNumber old s
          let s1 := replaceTicket old (soldTicket r pr n)
            { s with sales := { s.sales with lastNumber := n } }
          decided s (okWith (u16 n ++ u16 pr.total ++ u8 pr.percent))
            (returnToMergeHead n (countRow r (pr.lines.headD 0) s1))
  | .held .offerExpired | .held .mergeCheck | .idle | .offer | .loading | .measuring
  | .spacing => (refuse .wrongState, s)

/-- REMOVE (R67). -/
def decideRemove (s : State) : Response × State :=
  match s.gate.state with
  | .held .unpaid | .held .offerExpired =>
    match s.gate.atGate with
    | some n =>
      decided s (okWith (u16 n))
        (retireTicket n .removed { s with gate := { s.gate with atGate := none } })
    | none => (refuse .wrongState, s)
  | .held .mergeCheck =>
    match s.gate.merge with
    | [] => (refuse .notFound, s)
    | n :: rest =>
      decided s (okWith (u16 n))
        (retireTicket n .removed
          { s with gate := { s.gate with merge := rest, mergeCheck := false } })
  | .idle | .offer | .loading | .measuring | .spacing => (refuse .wrongState, s)

/-- GATE DECIDE (R63): the decision and a row, which only SELL examines (R189). -/
def gateDecideRequest (b : List Byte) (s : State) : Response × State :=
  match byteAt b 0 with
  | 0 => decideRetry s
  | 1 => decideWave s
  | 2 => decideSell (byteAt b 1) s
  | 3 => decideRemove s
  | _ => (refuse .outOfRange, s)

end Sys2Proof.Machine
end

