-- ==== Sys2Proof/Machine/Sales.lean ====
section
/-!
DEFINITION. The family of plan sales (spec/01_plan_sales.md): the requests QUOTE, PAY, CANCEL,
LANE STATUS, READ TICKET, SET ROW, SET MENU, SET PERIOD, SET CLOCK, READ TOTALS and CLEAR TOTALS, and
the expiries of the pending timer and the minute timer.
-/

namespace Sys2Proof.Machine

/-! ## Settings (R2, R4, R6) -/

/-- R172: whether a save is in progress. -/
def State.saving (s : State) : Bool := s.store.save.isSome

/-- R2: the row a SET ROW body writes, with its index, when every field is in range. Feature 0 is
added for the kinds PLAN and MEMBER. The order of the fields in the body is the model's choice (log
entry 29): R189 takes the order in which the rule names them, and R2 names no order for the six. -/
def parseRow (b : List Byte) : Option (Row × CatRow) := do
  let r ← fin? 32 (byteAt b 0)
  let kind ← RowKind.ofCode (byteAt b 1)
  let active ← flagAt b 2
  let disc ← flagAt b 9
  let price := wordAt b 3
  let feats : Set16 := BitVec.ofNat 16 (wordAt b 5)
  let cap := wordAt b 7
  if price ≤ Config.maxPrice && inRange 100 1000 cap then
    some (r, ⟨kind, active, price,
      if kind = .addon then feats else Set16.insert feats 0, cap, disc⟩)
  else none

/-- SET ROW (R2). -/
def setRowRequest (b : List Byte) (s : State) : Response × State :=
  match parseRow b with
  | none => (refuse .outOfRange, s)
  | some (r, row) =>
    if s.saving then (refuse .busy, s)
    else (okWith [], { s with settings := { s.settings with
      catalogue := vset s.settings.catalogue r row } })

/-- R4 step 1: the lane and the window of a SET MENU body. -/
def parseMenu (b : List Byte) : Option (Lane × Menu) := do
  let i ← fin? 3 (byteAt b 0)
  let size := byteAt b 1
  let base := byteAt b 2
  if (size == 4 || size == 8 || size == 16) && base % size == 0 && base + size ≤ 32 then
    some (i, ⟨size, base⟩)
  else none

/-- SET MENU (R4). -/
def setMenuRequest (b : List Byte) (s : State) : Response × State :=
  match parseMenu b with
  | none => (refuse .outOfRange, s)
  | some (i, m) =>
    if s.saving then (refuse .busy, s)
    else if s.saleSlot i ≠ .empty then (refuse .busy, s)
    else (okWith [], { s with settings := { s.settings with
      menus := vset s.settings.menus i m } })

/-- R6: the index and the period of a SET PERIOD body. -/
def parsePeriod (b : List Byte) : Option (Fin 4 × Period) := do
  let k ← fin? 4 (byteAt b 0)
  let start := wordAt b 1
  let stop := wordAt b 3
  let disc := byteAt b 5
  if start ≤ 1439 && stop ≤ 1439 && disc ≤ 50 then some (k, ⟨start, stop, disc⟩) else none

/-- SET PERIOD (R6). -/
def setPeriodRequest (b : List Byte) (s : State) : Response × State :=
  match parsePeriod b with
  | none => (refuse .outOfRange, s)
  | some (k, p) =>
    if s.saving then (refuse .busy, s)
    else (okWith [], { s with settings := { s.settings with
      periods := vset s.settings.periods k p } })

/-! ## The site clock (R5) -/

/-- SET CLOCK (R5). -/
def setClockRequest (b : List Byte) (s : State) : Response × State :=
  if wordAt b 2 ≤ 1439 then
    (okWith [], { s with sales := { s.sales with
      clock := ⟨⟨wordAt b 0, wordAt b 2⟩, false⟩
      minuteTimer := .running Config.minuteUnits } })
  else (refuse .outOfRange, s)

/-- R5: the stamp one minute later. -/
def Stamp.next (t : Stamp) : Stamp :=
  if t.minute < 1439 then ⟨t.day, t.minute + 1⟩
  else ⟨if t.day < 65535 then t.day + 1 else 0, 0⟩

/-- MINUTE_TIMER_EXPIRY (R5). -/
def minuteExpiry (s : State) : State :=
  if s.sales.minuteTimer.isRunning then
    { s with sales := { s.sales with
        clock := { s.sales.clock with stamp := s.stamp.next }
        minuteTimer := .running Config.minuteUnits } }
  else s

def execMinuteTimerExpiry (s : State) : Answer := done (minuteExpiry s)

/-! ## QUOTE (R14, R15) -/

/-- R3: the row a button names in a lane's window. -/
def Menu.rowOf (m : Menu) (b : Nat) : Option Row :=
  if b < m.size then fin? 32 (m.base + b) else none

/-- R14: the kinds of the rows: a PLAN base and ADDON add-ons, every one active. -/
def State.quotable (s : State) (base : Row) (adds : List Row) : Bool :=
  (s.row base).active && adds.all (fun r => (s.row r).active) &&
    (s.row base).kind == .plan && adds.all (fun r => (s.row r).kind == .addon)

/-- R43: the lane queue holds fewer than 4 tickets. -/
def State.laneRoom (s : State) (i : Lane) : Bool := (s.laneQueue i).length < Config.laneQueueMax

/-- R15: the ticket record a QUOTE fills in. -/
def quoteTicket (i : Lane) (base : Row) (adds : List Row) (pr : Priced) (n : Nat) : Ticket :=
  { number := n, kind := .paid, state := .pending, baseRow := some base, addOns := adds,
    features := pr.features, cap := pr.cap, price := pr.total, origin := .lane i,
    receipt := none, tag := none, credit := none }

/-- QUOTE (R14, R15). -/
def quoteRequest (i : Lane) (b : List Byte) (s : State) : Response × State :=
  if s.mode ≠ .openMode then (refuse .closed, s)
  else
    match b.mapM (fun x => (s.settings.menus[i]).rowOf x.toNat) with
    | none | some [] => (refuse .outOfRange, s)
    | some (base :: adds) =>
      if !s.quotable base adds then (refuse .notSellable, s)
      else if !s.laneRoom i then (refuse .full, s)
      else if !s.slotRoom i then (refuse .full, s)
      else
        let pr := priceOf (s.row base) (adds.map s.row) s.discount
        let (n, s1) := writeSale i (quoteTicket i base adds pr) s
        (okWith (u16 n ++ u16 pr.total ++ u8 pr.percent),
          setSaleSlot i
            (.pending n pr.lines (Timer.seconds s.settings.timing.pendingTime) none) s1)

/-! ## PAY, CANCEL and the lapse (R16 to R18) -/

/-- PAY (R17). -/
def payRequest (i : Lane) (b : List Byte) (s : State) : Response × State :=
  if !s.trading then (refuse .closed, s)
  else
    match s.saleSlot i with
    | .empty | .lookup _ _ _ => (refuse .notFound, s)
    | .pending n lines _ names =>
      match s.ticket? n with
      | none => (refuse .notFound, s)
      | some t =>
        let s1 :=
          if t.kind = .rewash then
            let s2 :=
              match names with
              | some code => removeCredit code s
              | none => s
            match t.baseRow with
            | some r => countRow r 0 s2
            | none => s2
          else
            countRows (t.baseRow.toList ++ t.addOns) lines
              (updateTicket n (fun t => { t with receipt := some (longAt b 0) }) s)
        (okWith (u16 n), setSaleSlot i .empty (joinLaneQueue i n s1))

/-- R18, R19: whatever a lane's sale slot holds ends, and its ticket leaves the table. -/
def cancelSlot (i : Lane) (s : State) : State :=
  match (s.saleSlot i).ticket? with
  | none => s
  | some n => setSaleSlot i .empty (freeTicket n s)

/-- CANCEL (R18). -/
def cancelRequest (i : Lane) (s : State) : Response × State :=
  match (s.saleSlot i).ticket? with
  | none => (refuse .notFound, s)
  | some n => (okWith (u16 n), settleDrain s (cancelSlot i s))

/-- PENDING_TIMER_EXPIRY (R16): a pending sale whose timer runs lapses. -/
def pendingExpiry (i : Lane) (s : State) : State :=
  match s.saleSlot i with
  | .pending n _ tm _ =>
    if tm.isRunning then settleDrain s (raiseTo (.lane i) (.saleLapsed n) (cancelSlot i s)) else s
  | .empty | .lookup _ _ _ => s

def execPendingTimerExpiry (i : Lane) (s : State) : Answer := done (pendingExpiry i s)

/-! ## Totals (R24) -/

/-- READ TOTALS (R24). -/
def readTotalsRequest (b : List Byte) (s : State) : Response × State :=
  match fin? 32 (byteAt b 0) with
  | none => (refuse .outOfRange, s)
  | some r =>
    let rows := (s.sales.totals.toList.drop r.val).take 8
    (okWith (u8 r.val ++ u8 rows.length ++
      rows.flatMap (fun t => u16 t.count ++ u32 t.value)), s)

/-- CLEAR TOTALS (R24). -/
def clearTotalsRequest (s : State) : Response × State :=
  (okWith [], { s with sales := { s.sales with totals := Vector.replicate 32 ⟨0, 0⟩ } })

/-! ## Reads (R25, R193) -/

/-- READ TICKET (R25). -/
def readTicketRequest (b : List Byte) (s : State) : Response × State :=
  match s.ticket? (wordAt b 0) with
  | some t => (okWith (ticketBytes t), s)
  | none => (refuse .notFound, s)

/-- R193: the sale slot of a LANE STATUS reply: the slot code, the ticket number, kind and price. -/
def saleSlotBytes (s : State) (x : SaleSlot) : List Byte :=
  match x.ticket? with
  | none => u8 0 ++ u16 0 ++ u8 0 ++ u16 0
  | some n =>
    let code := match x with
      | .empty => 0
      | .pending _ _ _ _ => 1
      | .lookup _ _ _ => 2
    match s.ticket? n with
    | some t => u8 code ++ u16 n ++ u8 t.kind.code ++ u16 t.price
    | none => u8 code ++ u16 n ++ u8 0 ++ u16 0

/-- LANE STATUS (R25). -/
def laneStatusRequest (i : Lane) (s : State) : Response × State :=
  let q := s.laneQueue i
  let l := s.sales.finished[i]
  (okWith (saleSlotBytes s (s.saleSlot i) ++ u8 q.length ++ q.flatMap u16 ++
    u8 l.length ++ l.flatMap finishedBytes), s)

end Sys2Proof.Machine
end

