-- ==== Sys2Proof/Machine/Roster.lean ====
section
/-!
DEFINITION. The family of the roster (spec/05_the_roster.md): TRACK's part of an encoder pulse, the
checkpoint and exit eyes, and the requests REMOVE CAR, CONFIRM ROSTER, READ ROSTER and SET GEOMETRY.
-/

namespace Sys2Proof.Machine

/-! ## TRACK's part of an encoder pulse (R94, R95, R103, R105, R109) -/

/-- R94, R95: every front advances by one, but for a car at the position limit. -/
def advanceFronts (s : State) : State :=
  setRoster (s.track.roster.map (fun c =>
    if c.front < Config.frontMax then { c with front := c.front + 1 } else c)) s

/-- R95: one car at the position limit is removed with result REMOVED, and SLIP is raised. -/
def dropAtLimit (s : State) (n : Nat) : State :=
  raiseCause .slip (.ticket n) (dropCar n .removed s)

/-- R103: the car has passed checkpoint k's window with its mark UNSEEN. -/
def State.slipsAt (s : State) (c : Car) (k : Checkpoint) : Bool :=
  match s.checkpoint? k with
  | some g => g.position + g.tolerance < c.front && !c.marks[k]
  | none => false

/-- R103: the car has passed the exit window with its exit mark UNSEEN. -/
def State.slipsAtExit (s : State) (c : Car) : Bool :=
  s.settings.geometry.exitPos + s.settings.geometry.exitTol < c.front && !c.exitMark

/-- R103: whether some eye failed to see the car. -/
def State.slips (s : State) (c : Car) : Bool :=
  checkpointIxs.any (s.slipsAt c) || s.slipsAtExit c

/-- R103: every mark of an eye that failed to see the car becomes SEEN. -/
def State.markSlips (s : State) (c : Car) : Car :=
  { c with
    marks := checkpointIxs.foldl (fun m k => if s.slipsAt c k then vset m k true else m) c.marks
    exitMark := c.exitMark || s.slipsAtExit c }

/-- R103: the slip test. When several cars slip on one pulse, SLIP is raised for the oldest first, so
that an episode it opens (R143) has the oldest one's ticket as subject: the model's choice (log
entry 30), the spec gives no order among the cars. -/
def testSlip (s : State) : State :=
  (s.track.roster.filter s.slips).foldl (fun s' c => raiseCause .slip (.ticket c.ticket) s')
    (setRoster (s.track.roster.map s.markSlips) s)

/-- R105: the car is overdue at the exit. -/
def State.overdue (s : State) (c : Car) : Bool :=
  c.exitMark &&
    (s.settings.geometry.exitPos : Int) + (s.settings.geometry.exitTol : Int) < c.rear

/-- R105: while the exit eye is restored, every overdue car is removed with its wash result, oldest
first. -/
def testOverdue (s : State) : State :=
  if s.inputs.exitEye then s
  else ((s.track.roster.filter s.overdue).map (fun c => c.ticket)).foldl dropAtExit s

/-- R94: TRACK's part of a pulse: the position limit, the slip test, the overdue exits and the exit
blocked test, in this order (log entry 5). -/
def trackPulse (s : State) : State :=
  let limited := (s.track.roster.filter (fun c => Config.frontMax ≤ c.front)).map (fun c => c.ticket)
  testExitBlocked (testOverdue (testSlip (limited.foldl dropAtLimit (advanceFronts s))))

/-! ## Checkpoint eyes (R98 to R101) -/

/-- R99: a candidate for checkpoint k. -/
def Car.candidateAt (c : Car) (k : Checkpoint) (g : CheckpointCfg) : Bool :=
  !c.marks[k] && g.position ≤ c.front + g.tolerance && c.front ≤ g.position + g.tolerance

/-- R100: the correction of a candidate's front to pos keeps the order law, given its neighbours. -/
def correctionOk (older newer : Option Car) (c : Car) (pos : Nat) : Bool :=
  (match older with
   | some o => (pos : Int) < o.rear
   | none => true) &&
  (match c.length with
   | none => true
   | some l =>
     match newer with
     | some n => (n.front : Int) < (pos : Int) - (l : Int)
     | none => (0 : Int) < (pos : Int) - (l : Int))

/-- R99 to R101: a verified break of checkpoint eye k. -/
def verifyCheckpoint (k : Checkpoint) (g : CheckpointCfg) (s : State) : State :=
  match s.track.roster.findIdx? (fun c => c.candidateAt k g) with
  | some i =>
    match s.track.roster[i]? with
    | none => s
    | some c =>
      let older := if i = 0 then none else s.track.roster[i - 1]?
      let newer := s.track.roster[i + 1]?
      let seen : Car := { c with marks := vset c.marks k true }
      if correctionOk older newer c g.position then
        rosterChanged (setRoster (s.track.roster.set i { seen with front := g.position }) s)
      else
        raiseCause .crowding (.ticket c.ticket) (setRoster (s.track.roster.set i seen) s)
  | none =>
    if s.track.roster.any (fun c => c.marks[k] && c.spans g.position g.tolerance) then s
    else raiseCause .ghost (.eye (.checkpoint k)) s

/-- CHECKPOINT_EYE_BREAK (R98): verified unless the conveyor is at rest; an unused eye is ignored. -/
def checkpointBreak (k : Checkpoint) (s : State) : State :=
  let s1 := { s with inputs := { s.inputs with
    checkpointEyes := vset s.inputs.checkpointEyes k true } }
  match s.checkpoint? k with
  | none => s1
  | some g =>
    if s.conv.state = .stopped then noteMoved (.checkpoint k) s1 else verifyCheckpoint k g s1

/-- The correction can open the gate's gap (R62), so the gate's tests follow it. -/
def execCheckpointEyeBreak (k : Checkpoint) (s : State) : Answer :=
  done (if (s.checkpoint? k).isSome then settle s (checkpointBreak k s) else checkpointBreak k s)

/-- CHECKPOINT_EYE_RESTORE (R98, R110). -/
def checkpointRestore (k : Checkpoint) (s : State) : State :=
  let s1 := { s with inputs := { s.inputs with
    checkpointEyes := vset s.inputs.checkpointEyes k false } }
  match s.checkpoint? k with
  | none => s1
  | some _ => noteMoved (.checkpoint k) s1

def execCheckpointEyeRestore (k : Checkpoint) (s : State) : Answer :=
  done (settleHalted s (checkpointRestore k s))

/-! ## The exit eye (R98, R102, R104, R109) -/

/-- R102: a candidate for the exit. -/
def State.exitCandidate (s : State) (c : Car) : Bool :=
  !c.exitMark && s.settings.geometry.exitPos ≤ c.front + s.settings.geometry.exitTol &&
    c.front ≤ s.settings.geometry.exitPos + s.settings.geometry.exitTol

/-- R102, R101: a verified break of the exit eye. -/
def verifyExit (s : State) : State :=
  if s.track.roster.any s.exitCandidate then
    setRoster (mapFirst s.exitCandidate (fun c => { c with exitMark := true }) s.track.roster) s
  else if s.track.roster.any (fun c => c.exitMark &&
      c.spans s.settings.geometry.exitPos s.settings.geometry.exitTol) then s
  else raiseCause .ghost (.eye .exit) s

/-- EXIT_EYE_BREAK (R98, R102, R109). The verification comes before the exit blocked test: where one
break raises both GHOST (R101) and EXIT_BLOCKED, GHOST is raised first and opens the episode with its
subject (R143): the model's choice (log entry 6), the spec gives no order between them. -/
def exitBreak (s : State) : State :=
  let s1 := { s with inputs := { s.inputs with exitEye := true } }
  testExitBlocked (if s.conv.state = .stopped then noteMoved .exit s1 else verifyExit s1)

def execExitEyeBreak (s : State) : Answer := done (settleHalted s (exitBreak s))

/-- R104: the oldest car has cleared the exit. -/
def State.cleared (s : State) (c : Car) : Bool :=
  c.exitMark &&
    (s.settings.geometry.exitPos : Int) - (s.settings.geometry.exitTol : Int) ≤ c.rear

/-- R104: the oldest car is removed while it passes the test, at most fuel times. -/
def clearExit : Nat → State → State
  | 0, s => s
  | fuel + 1, s =>
    match s.track.roster with
    | [] => s
    | c :: _ => if s.cleared c then clearExit fuel (dropCar c.ticket c.washResult s) else s

/-- EXIT_EYE_RESTORE (R104, R109, R110): the removals, then the moved flag when no car was removed,
then EXIT_BLOCKED is cleared (log entry 6). -/
def exitRestore (s : State) : State :=
  let s1 := { s with inputs := { s.inputs with exitEye := false } }
  let s2 := clearExit s.track.roster.length s1
  let s3 :=
    if s2.track.roster.length < s.track.roster.length then rosterChanged s2
    else noteMoved .exit s2
  clearCause .exitBlocked s3

def execExitEyeRestore (s : State) : Answer := done (settle s (exitRestore s))

/-! ## REMOVE CAR, CONFIRM ROSTER (R108, R111) -/

/-- REMOVE CAR (R108). -/
def removeCarRequest (b : List Byte) (s : State) : Response × State :=
  let n := wordAt b 0
  if s.halt.state ≠ .stopped then (refuse .wrongState, s)
  else if s.track.roster.any (fun c => c.ticket == n) then
    (okWith (u16 n), settle s (rosterChanged (dropCar n .removed s)))
  else (refuse .notFound, s)

/-- CONFIRM ROSTER (R111). -/
def confirmRosterRequest (s : State) : Response × State :=
  if s.halt.state = .stopped then
    (okWith [], { s with track := { s.track with moved := false } })
  else (refuse .wrongState, s)

/-! ## READ ROSTER (R112, R195) -/

/-- R189: vehicle flags in a byte. -/
def flagsByte (f : VehicleFlags) : List Byte :=
  u8 (bitAt f.tall 0 + bitAt f.wide 1 + bitAt f.short 2)

/-- R195: the marks in a byte. -/
def marksByte (c : Car) : List Byte :=
  u8 (bitAt c.marks[0] 0 + bitAt c.marks[1] 1 + bitAt c.marks[2] 2 + bitAt c.marks[3] 3 +
    bitAt c.exitMark 4)

/-- R195: two stations' statuses a byte, the even one in the upper four bits. -/
def packProgress : List Progress → List Byte
  | a :: b :: rest => BitVec.ofNat 8 (a.code * 16 + b.code) :: packProgress rest
  | [a] => [BitVec.ofNat 8 (a.code * 16)]
  | [] => []

/-- R195: a roster entry, 22 bytes. -/
def carBytes (c : Car) : List Byte :=
  u16 c.ticket ++ u16 c.front ++ u16 (c.length.getD 0) ++ rearBytes c.rear ++ flagsByte c.flags ++
    marksByte c ++ packProgress c.progress.toList

/-- READ ROSTER (R112). -/
def readRosterRequest (b : List Byte) (s : State) : Response × State :=
  let k := byteAt b 0
  match s.track.roster[k]? with
  | some c => (okWith (u8 s.track.roster.length ++ u8 k ++ carBytes c), s)
  | none => (refuse .notFound, s)

/-! ## SET GEOMETRY (R96) -/

/-- The checkpoints of a SET GEOMETRY body: pairs of C_k in 2 bytes and T_k in 1. -/
def parseCheckpoints : List Byte → List CheckpointCfg
  | a :: b :: c :: rest => ⟨a.toNat * 256 + b.toNat, c.toNat⟩ :: parseCheckpoints rest
  | _ => []

/-- R96: the positions rise strictly with k. -/
def rising : List CheckpointCfg → Bool
  | a :: b :: rest => a.position < b.position && rising (b :: rest)
  | _ => true

/-- R96, R97: C_k exceeds MaxLen + T_k. -/
def CheckpointCfg.clearOf (g : CheckpointCfg) (maxLen : Nat) : Bool :=
  maxLen + g.tolerance < g.position

/-- R96 step 2: the geometry of a body whose values are in range and agree with one another, MaxLen
and the stations. -/
def parseGeometry (b : List Byte) (s : State) : Option Geometry :=
  let x := wordAt b 0
  let tx := byteAt b 2
  let cps := parseCheckpoints (b.drop 6)
  if inRange 200 8000 x && inRange 2 50 tx && inRange 10 500 (wordAt b 3) &&
      byteAt b 5 ≤ 4 && cps.length == byteAt b 5 &&
      cps.all (fun g => inRange 2 50 g.tolerance && g.clearOf s.settings.timing.maxLen &&
        g.position + g.tolerance + tx < x) &&
      rising cps &&
      s.settings.stations.toList.all (fun st => st.offset + st.post ≤ x) then
    some ⟨x, tx, wordAt b 3, cps⟩
  else none

/-- R96, R114: the mode allows geometry and station settings. -/
def State.settable (s : State) : Bool := s.mode == .setup || s.mode == .closed

/-- SET GEOMETRY (R96). -/
def setGeometryRequest (b : List Byte) (s : State) : Response × State :=
  if !s.settable then (refuse .wrongState, s)
  else
    match parseGeometry b s with
    | none => (refuse .outOfRange, s)
    | some g =>
      if s.saving then (refuse .busy, s)
      else (okWith [], { s with settings := { s.settings with geometry := g } })

end Sys2Proof.Machine
end

