-- ==== Sys2Proof/Machine/Conveyor.lean ====
section
/-!
DEFINITION. The family of the conveyor (spec/04_conveyor_and_pace.md): the encoder pulse, the warn,
at-rest, stall and park timers, READ CONVEYOR and SET SPEED STEPS; and SET TIMING, which writes the
timing settings of every block (R68, R87, R97, R197).
-/

namespace Sys2Proof.Machine

/-! ## CONV's part of an encoder pulse (R79, R80) -/

/-- R80: an interval as it is recorded. -/
def clampSample (n : Nat) : Nat := max 50 (min 65535 n)

/-- R80: with the mark present the interval is recorded at the head of the samples, which keep 4;
the mark is set to the instant of the pulse. -/
def recordPulse (s : State) : State :=
  match s.conv.mark with
  | none => { s with conv := { s.conv with mark := some s.now } }
  | some m =>
    { s with conv := { s.conv with
        samples := (clampSample (s.now - m) :: s.conv.samples).take Config.samplesMax
        mark := some s.now } }

/-- R79: the pulse total, the sample and the timers, by conveyor state. -/
def convPulse (s : State) : State :=
  let s1 := { s with conv := { s.conv with pulseTotal := s.conv.pulseTotal + 1 } }
  match s.conv.state with
  | .stopped => s1
  | .warning => recordPulse s1
  | .running =>
    let s2 := recordPulse s1
    { s2 with conv := { s2.conv with
        stallTimer := Timer.millis s.settings.timing.stallTime } }
  | .stopping =>
    let s2 := recordPulse s1
    { s2 with conv := { s2.conv with restTimer := .running Config.restUnits } }

/-- ENCODER_PULSE (R94 and spec/00_scope.md "How the blocks work together"): CONV measures, TRACK
advances and tests, STN evaluates, GATE counts (log entry 5). -/
def pulse (elapsed : Nat) (s : State) : State :=
  settle s (gatePulse (evaluate (trackPulse (convPulse (advance elapsed s)))))

def execEncoderPulse (elapsed : Nat) (s : State) : Answer := done (pulse elapsed s)

/-! ## Timers (R73, R75, R76, R78) -/

/-- WARN_TIMER_EXPIRY (R73). -/
def warnExpiry (s : State) : State :=
  if s.conv.state = .warning ∧ s.conv.warnTimer.isRunning = true then settle s (startRunning s)
  else s

def execWarnTimerExpiry (s : State) : Answer := done (warnExpiry s)

/-- AT_REST_TIMER_EXPIRY (R75, R80, R72): the conveyor comes to rest; with demand present it warns
at once. -/
def restExpiry (s : State) : State :=
  if s.conv.state = .stopping ∧ s.conv.restTimer.isRunning = true then
    settle s (testDemand (evalIfPaceMoved s (enterRest s)))
  else s

def execAtRestTimerExpiry (s : State) : Answer := done (restExpiry s)

/-- STALL_TIMER_EXPIRY (R76). -/
def stallExpiry (s : State) : State :=
  if s.conv.state = .running ∧ s.conv.stallTimer.isRunning = true then
    settleHalted s (raiseCause .conveyorStall .none
      { s with conv := { s.conv with stallTimer := .stopped } })
  else s

def execStallTimerExpiry (s : State) : Answer := done (stallExpiry s)

/-- PARK_TIMER_EXPIRY (R78). -/
def parkExpiry (s : State) : State :=
  if s.conv.parkTimer.isRunning then
    settle s (retestDemand { s with conv := { s.conv with
      parkTimer := .stopped, parked := true } })
  else s

def execParkTimerExpiry (s : State) : Answer := done (parkExpiry s)

/-! ## READ CONVEYOR (R82) -/

/-- R82: the speed in mm/s: floor(Pitch × 100,000 / P̄), and 0 when the conveyor is STOPPED. -/
def State.speed (s : State) : Nat :=
  if s.conv.state = .stopped then 0 else s.settings.timing.pitch * 100000 / s.avgPeriod

/-- READ CONVEYOR (R82). -/
def readConveyorRequest (s : State) : Response × State :=
  (okWith (u8 s.conv.state.code ++ flagByte s.conv.parked ++ u8 s.conv.samples.length ++
    s.conv.samples.flatMap u16 ++ u16 s.avgPeriod ++ u32 s.speed ++ u32 s.conv.pulseTotal.toNat ++
    u8 s.depth ++ u8 s.speedStep.val ++ u16 s.speedReference), s)

/-! ## SET SPEED STEPS (R86) -/

/-- R86 steps 1 and 2. -/
def parseSteps (b : List Byte) : Option SpeedSteps :=
  let t1 := byteAt b 0
  let t2 := byteAt b 1
  let t3 := byteAt b 2
  if inRange 1 24 t1 && inRange 1 24 t2 && inRange 1 24 t3 &&
      inRange 100 1000 (wordAt b 3) && inRange 100 1000 (wordAt b 5) &&
      inRange 100 1000 (wordAt b 7) && inRange 100 1000 (wordAt b 9) && t1 < t2 && t2 < t3 then
    some ⟨t1, t2, t3, #v[wordAt b 3, wordAt b 5, wordAt b 7, wordAt b 9]⟩
  else none

/-- SET SPEED STEPS (R86). -/
def setSpeedStepsRequest (b : List Byte) (s : State) : Response × State :=
  match parseSteps b with
  | none => (refuse .outOfRange, s)
  | some st =>
    if s.saving then (refuse .busy, s)
    else (okWith [], { s with settings := { s.settings with steps := st } })

/-! ## SET TIMING (R68, R87, R97, R197) -/

/-- The values of a SET TIMING body, in the order of R166 (R189). -/
def timingOf (b : List Byte) (w : Row) : Timing :=
  { pendingTime := wordAt b 0
    memberInterval := wordAt b 2
    lookupTime := byteAt b 4
    offerTime := wordAt b 5
    loadDistance := byteAt b 7
    settle := byteAt b 8
    minLen := wordAt b 9
    maxLen := wordAt b 11
    minGap := wordAt b 13
    waveRow := w
    warnTime := byteAt b 16
    stallTime := wordAt b 17
    parkTime := wordAt b 19
    nominalPeriod := wordAt b 21
    pitch := byteAt b 23 }

/-- R68, R87, R197: every timing setting lies in its range, and MinLen is at most MaxLen. -/
def Timing.valid (t : Timing) : Bool :=
  inRange 30 600 t.pendingTime && inRange 0 1440 t.memberInterval && inRange 1 30 t.lookupTime &&
    inRange 10 300 t.offerTime && inRange 10 200 t.loadDistance && inRange 1 32 t.settle &&
    inRange 50 300 t.minLen && inRange 150 600 t.maxLen && inRange 10 500 t.minGap &&
    inRange 0 10 t.warnTime && inRange 500 5000 t.stallTime && inRange 0 600 t.parkTime &&
    inRange 500 65535 t.nominalPeriod && inRange 5 100 t.pitch && t.minLen ≤ t.maxLen

/-- R68, R97: the timing settings of a SET TIMING body, when they are valid and MaxLen is clear of
every used checkpoint. -/
def parseTiming (b : List Byte) (cps : List CheckpointCfg) : Option Timing :=
  match fin? 32 (byteAt b 15) with
  | none => none
  | some w =>
    let t := timingOf b w
    if t.valid && cps.all (fun g => g.clearOf t.maxLen) then some t else none

/-- SET TIMING (R68, R87, R97, R197). A new NominalPeriod takes effect at once when no sample is
held (R81), which is an evaluation (R118). -/
def setTimingRequest (b : List Byte) (s : State) : Response × State :=
  match parseTiming b s.settings.geometry.checkpoints with
  | none => (refuse .outOfRange, s)
  | some t =>
    if s.saving then (refuse .busy, s)
    else
      let s1 := { s with settings := { s.settings with timing := t } }
      (okWith [],
        if s1.avgPeriod = s.avgPeriod then s1 else settleDrain s (evalIfPaceMoved s s1))

end Sys2Proof.Machine
end

