-- ==== Sys2Proof/Machine/Stations.lean ====
section
/-!
DEFINITION. The family of the wash stations (spec/06_wash_stations.md): SET STATION, JOG, JOG STOP and
READ STATION, the stowed switches, the advance and withdraw timers, the motor current samples, the
trip and the jog timer.
-/

namespace Sys2Proof.Machine

/-! ## SET STATION (R113, R114) -/

/-- R189, R190: an exclusions byte, a subset of TALL and WIDE. -/
def exclusionsAt (b : List Byte) (i : Nat) : Option (Bool × Bool) :=
  if byteAt b i < 4 then some ((b.getD i 0).getLsbD 0, (b.getD i 0).getLsbD 1) else none

/-- R113: a station whose fields lie in their ranges; for kind ARM the lines differ, and O + Post is
at most X (R114 step 2). -/
def StationCfg.valid (st : StationCfg) (exitPos : Nat) : Bool :=
  st.offset ≤ 8000 && st.latency ≤ 2000 && inRange 100 3000 st.advanceTime &&
    inRange 500 5000 st.withdrawTimeout && st.tripLevel ≤ 1023 && inRange 1 50 st.tripCount &&
    st.offset + st.post ≤ exitPos && (st.kind == .switched || st.firstLine != st.secondLine)

/-- R114 step 2: the index and the station of a SET STATION body, in the order of R113. -/
def parseStation (b : List Byte) (exitPos : Nat) : Option (StationIx × StationCfg) := do
  let j ← fin? 24 (byteAt b 0)
  let en ← flagAt b 1
  let kind ← StationKind.ofCode (byteAt b 2)
  let feature ← fin? 16 (byteAt b 10)
  let excl ← exclusionsAt b 11
  let first ← fin? 40 (byteAt b 12)
  let second ← fin? 40 (byteAt b 13)
  let channel ← fin? 8 (byteAt b 14)
  let st : StationCfg :=
    { enabled := en, kind := kind, offset := wordAt b 3, pre := byteAt b 5, post := byteAt b 6,
      latency := wordAt b 7, leadMax := byteAt b 9, feature := feature, exclTall := excl.1,
      exclWide := excl.2, firstLine := first, secondLine := second, channel := channel,
      advanceTime := wordAt b 15, withdrawTimeout := wordAt b 17, tripLevel := wordAt b 19,
      tripCount := byteAt b 21 }
  if st.valid exitPos then some (j, st) else none

/-- R114: the lines a station drives. -/
def StationCfg.drives (st : StationCfg) : List Line :=
  match st.kind with
  | .switched => [st.firstLine]
  | .arm => [st.firstLine, st.secondLine]

/-- R114 step 3: two enabled stations clash over a line or an arm channel. -/
def StationCfg.clashes (a b : StationCfg) : Bool :=
  a.enabled && b.enabled &&
    (a.drives.any (fun l => b.drives.contains l) ||
      (a.kind == .arm && b.kind == .arm && a.channel == b.channel))

/-- R121: the machine state an ARM station takes from its stowed switch. -/
def StationMachine.ofSwitch (closed : Bool) : StationMachine :=
  if closed then StationMachine.start else { StationMachine.start with arm := .fault }

/-- R121, R114: a station's machine state starts afresh. An enabled arm whose switch reads open is in
FAULT and raises ARM_STUCK. -/
def startMachine (j : StationIx) (s : State) : State :=
  if s.isArm j then
    let s1 := setMachine j (StationMachine.ofSwitch (s.stowedClosed j)) s
    if s.stowedClosed j then s1 else raiseCause .armStuck (.station j) s1
  else setMachine j StationMachine.start s

/-- R114: a station is written in full and starts afresh; when it was the last one in FAULT,
ARM_STUCK is withdrawn (R128). -/
def writeStation (j : StationIx) (st : StationCfg) (s : State) : State :=
  let s1 := startMachine j { s with settings := { s.settings with
    stations := vset s.settings.stations j st } }
  if s.isArm j && (s.machine j).arm == .fault then clearStuck s1 else s1

/-- SET STATION (R114). -/
def setStationRequest (b : List Byte) (s : State) : Response × State :=
  if !s.settable then (refuse .wrongState, s)
  else
    match parseStation b s.settings.geometry.exitPos with
    | none => (refuse .outOfRange, s)
    | some (j, st) =>
      if stationIxs.any (fun k => k != j && st.clashes (s.station k)) then (refuse .overlap, s)
      else if s.jogged j || s.saving then (refuse .busy, s)
      else (okWith [], settleHalted s (writeStation j st s))

/-! ## JOG and JOG STOP (R135, R136) -/

/-- R135 step 1: the station and the time in seconds of a JOG body. -/
def parseJog (b : List Byte) : Option (StationIx × Nat) := do
  let j ← fin? 24 (byteAt b 0)
  if inRange 1 10 (byteAt b 1) then some (j, byteAt b 1) else none

/-- R135 step 4: the station is enabled, and an arm is STOWED. -/
def State.joggable (s : State) (j : StationIx) : Bool :=
  (s.station j).enabled && ((s.station j).kind == .switched || (s.machine j).arm == .stowed)

/-- JOG (R135). -/
def jogRequest (b : List Byte) (s : State) : Response × State :=
  match parseJog b with
  | none => (refuse .outOfRange, s)
  | some (j, t) =>
    if s.halt.state ≠ .stopped ∨ s.inputs.chainClosed = false then (refuse .wrongState, s)
    else if s.stn.jog.isSome then (refuse .busy, s)
    else if !s.joggable j then (refuse .wrongState, s)
    else (okWith [], { s with stn := { s.stn with jog := some ⟨j, Timer.seconds t⟩ } })

/-- JOG STOP (R136). -/
def jogStopRequest (s : State) : Response × State :=
  match s.stn.jog with
  | none => (refuse .notFound, s)
  | some g => (okWith (u8 g.station.val), endJog s)

/-- JOG_TIMER_EXPIRY (R136). -/
def jogExpiry (s : State) : State :=
  match s.stn.jog with
  | none => s
  | some g => if g.timer.isRunning then endJog s else s

def execJogTimerExpiry (s : State) : Answer := done (jogExpiry s)

/-! ## READ STATION (R137, R195) -/

/-- R195 offset 1: the flags of a station record. -/
def stationFlags (j : StationIx) (s : State) : Nat :=
  let st := s.station j
  bitAt st.enabled 0 + bitAt (st.kind == .arm) 1 + bitAt st.exclTall 2 + bitAt st.exclWide 3 +
    bitAt (s.jogged j) 4 + bitAt (st.kind == .arm && s.stowedClosed j) 5

/-- R195 offset 29: the remaining time of the advance or the withdraw timer. -/
def StationMachine.remaining (m : StationMachine) : Nat :=
  if m.advanceTimer = .stopped then m.withdrawTimer.leftMs else m.advanceTimer.leftMs

/-- R195 offsets 25 to 32: what the station is doing. -/
def stationWork (j : StationIx) (s : State) : List Byte :=
  let st := s.station j
  let cars := s.activeAt j
  let served := numberBytes (cars.head?.map (fun c => c.ticket))
  match st.kind with
  | .switched =>
    flagByte (st.enabled && s.firstLineOn j) ++ served ++ u8 cars.length ++ u16 0 ++ u16 0
  | .arm =>
    u8 (s.machine j).arm.code ++ served ++ u8 (s.machine j).trip ++
      u16 (s.machine j).remaining ++ u16 s.inputs.motorCurrent[st.channel]

/-- R195: the remaining time of a jog of this station. -/
def State.jogRemaining (s : State) (j : StationIx) : Nat :=
  match s.stn.jog with
  | some g => if g.station = j then g.timer.leftMs else 0
  | none => 0

/-- R195: a station record, 35 bytes. -/
def stationBytes (j : StationIx) (s : State) : List Byte :=
  let st := s.station j
  u8 j.val ++ u8 (stationFlags j s) ++ u16 st.offset ++ u8 st.pre ++ u8 st.post ++
    u16 st.latency ++ u8 st.leadMax ++ u8 st.feature.val ++ u8 st.firstLine.val ++
    u8 st.secondLine.val ++ u8 st.channel.val ++ u16 st.advanceTime ++ u16 st.withdrawTimeout ++
    u16 st.tripLevel ++ u8 st.tripCount ++ u8 (leadOf st s.avgPeriod) ++ u16 (s.onPoint j) ++
    u16 (s.offPoint j) ++ stationWork j s ++ u16 (s.jogRemaining j)

/-- READ STATION (R137). -/
def readStationRequest (b : List Byte) (s : State) : Response × State :=
  match fin? 24 (byteAt b 0) with
  | none => (refuse .outOfRange, s)
  | some j => (okWith (stationBytes j s), s)

/-! ## Stowed switches (R122, R123, R126, R128) -/

/-- What an opening of its stowed switch does to an arm. -/
def armOpens (j : StationIx) (s : State) : State :=
  match (s.machine j).arm with
  | .stowed => faultArm j s
  | .advancing => updateMachine j (fun m => { m with opened := true }) s
  | .engaged | .withdrawing | .fault => s

/-- The arm reaches its stop (R126, R128). -/
def stowArm (j : StationIx) (s : State) : State :=
  updateMachine j (fun m => { m with
    arm := .stowed, advanceTimer := .stopped, withdrawTimer := .stopped }) s

/-- What a closing of its stowed switch does to an arm: from WITHDRAWING or FAULT it reaches its
stop, which is an evaluation (R122); from FAULT, ARM_STUCK may clear (R128). -/
def armCloses (j : StationIx) (s : State) : State :=
  match (s.machine j).arm with
  | .withdrawing => settleDrain s (evaluate (stowArm j s))
  | .fault => settleDrain s (evaluate (clearStuck (stowArm j s)))
  | .stowed | .advancing | .engaged => s

/-- Write the level of a stowed switch. -/
def setStowed (c : Channel) (closed : Bool) (s : State) : State :=
  { s with inputs := { s.inputs with stowed := vset s.inputs.stowed c closed } }

/-- STOWED_SWITCH_OPENS (R122, R123). -/
def switchOpens (c : Channel) (s : State) : State :=
  match s.armOf c with
  | some j => settleHalted s (armOpens j (setStowed c false s))
  | none => setStowed c false s

def execStowedSwitchOpens (c : Channel) (s : State) : Answer := done (switchOpens c s)

/-- STOWED_SWITCH_CLOSES (R126, R128). -/
def switchCloses (c : Channel) (s : State) : State :=
  match s.armOf c with
  | some j => armCloses j (setStowed c true s)
  | none => setStowed c true s

def execStowedSwitchCloses (c : Channel) (s : State) : Answer := done (switchCloses c s)

/-! ## Arm timers (R123, R126) -/

/-- R123: the arm engages its served car, and supervision starts at 0. -/
def engageArm (j : StationIx) (s : State) : State :=
  updateMachine j (fun m => { m with arm := .engaged, advanceTimer := .stopped, trip := 0 }) s

/-- ADVANCE_TIMER_EXPIRY (R123). -/
def advanceExpiry (j : StationIx) (s : State) : State :=
  if (s.machine j).arm = .advancing ∧ (s.machine j).advanceTimer.isRunning = true then
    if (s.machine j).opened then engageArm j s
    else settleHalted s (faultArm j (markAll j (fun c => c.status j == .active) .missed s))
  else s

def execAdvanceTimerExpiry (j : StationIx) (s : State) : Answer := done (advanceExpiry j s)

/-- WITHDRAW_TIMER_EXPIRY (R126). -/
def withdrawExpiry (j : StationIx) (s : State) : State :=
  if (s.machine j).arm = .withdrawing ∧ (s.machine j).withdrawTimer.isRunning = true then
    settleHalted s (faultArm j s)
  else s

def execWithdrawTimerExpiry (j : StationIx) (s : State) : Answer := done (withdrawExpiry j s)

/-! ## Current supervision (R125, R135) -/

/-- R125, R131, R135: the motor current of an arm is supervised while it is ENGAGED in RUNNING, and
while it is jogged. -/
def State.supervised (s : State) (j : StationIx) : Bool :=
  ((s.machine j).arm == .engaged && s.stationHalt == .running) || s.jogged j

/-- R125: a sample adds 1 to the trip count when it lies above TripLevel, and sets it to 0
otherwise. -/
def countSample (j : StationIx) (counts : Nat) (s : State) : State :=
  updateMachine j (fun m => { m with
    trip := if (s.station j).tripLevel < counts then m.trip + 1 else 0 }) s

/-- R125: the trip count of a supervised arm has reached TripCount. -/
def State.tripDue (s : State) (j : StationIx) : Bool :=
  s.supervised j && (s.station j).tripCount ≤ (s.machine j).trip

/-- R125, R135: at TripCount the count returns to 0, a jog of the arm ends and ARM_OVERLOAD is
raised. -/
def testTrip (j : StationIx) (s : State) : State :=
  if s.tripDue j then
    raiseCause .armOverload (.station j)
      (endJogOf j (updateMachine j (fun m => { m with trip := 0 }) s))
  else s

/-- MOTOR_CURRENT_SAMPLE (R125). -/
def sample (c : Channel) (counts : Nat) (s : State) : State :=
  let s1 := { s with inputs := { s.inputs with
    motorCurrent := vset s.inputs.motorCurrent c counts } }
  match s.armOf c with
  | none => s1
  | some j =>
    if s.supervised j then settleHalted s (testTrip j (countSample j counts s1)) else s1

def execMotorCurrentSample (c : Channel) (counts : Fin 1024) (s : State) : Answer :=
  done (sample c counts.val s)

/-- TRIP_COUNT_REACHED (R125). -/
def execTripCountReached (j : StationIx) (s : State) : Answer :=
  done (settleHalted s (testTrip j s))

end Sys2Proof.Machine
end

