-- ==== Sys2Proof/Machine/Halts.lean ====
section
/-!
DEFINITION. The family of halts (spec/07_halts.md): HALT, RESUME and READ HALT HISTORY, the safety
chain, the drive fault, the relay readback, and the mismatch timer with the entry to LOCKOUT (R163).
-/

namespace Sys2Proof.Machine

/-! ## HALT (R149) -/

/-- R149: the cause a HALT raises, by the port it comes from. -/
def haltCause : Port → Cause
  | .console => .consoleStop
  | .site | .lane _ => .siteStop

/-- HALT (R149). -/
def haltRequest (p : Port) (s : State) : Response × State :=
  let s1 := settleHalted s (raiseCause (haltCause p) .none s)
  (okWith (u8 s1.halt.state.code ++ u8 s1.episodeNumber), s1)

/-! ## RESUME (R150, R151) -/

/-- R150: the status a RESUME is refused with, if it is refused. -/
def State.resumeRefusal (s : State) : Option Status :=
  if s.halt.state ≠ .stopped then some .wrongState
  else if s.track.moved then some .unconfirmed
  else if !s.inputs.chainClosed || s.inputs.driveFault || s.hasCause .armStuck then
    some .causePresent
  else none

/-- R151: the causes a RESUME leaves: EXIT_BLOCKED, where it is present. -/
def State.heldCauses (s : State) : Set16 :=
  s.halt.causes &&& Set16.single Cause.exitBlocked.code

/-- R151: the halt state a RESUME leads to. -/
def State.resumeTo (s : State) : HaltState :=
  if s.hasCause .exitBlocked then .holding else .running

/-- R59: when the halt state leaves STOPPED, the length of a car stopped by TAILGATE is fixed at
MaxLen, with no SHORT flag. -/
def fixTailgated (s : State) : State :=
  if s.gate.state = .measuring ∧ s.gate.tailgated = true then
    fixLength s.settings.timing.maxLen false s
  else s

/-- R151: a RESUME that passes its checks is carried out. -/
def carryOutResume (s : State) : State :=
  let s1 := endJog s
  let s2 := { s1 with halt := { s1.halt with causes := s.heldCauses } }
  let s3 := if s.resumeTo = .running then closeEpisode .console s2 else s2
  settle s (fixTailgated (setHalt s.resumeTo s3))

/-- RESUME (R150, R151). The reply names the halt state the RESUME led to (log entry 25). -/
def resumeRequest (s : State) : Response × State :=
  match s.resumeRefusal with
  | some st => (refuse st, s)
  | none => (okWith (u8 s.episodeNumber ++ u8 s.resumeTo.code), carryOutResume s)

/-! ## READ HALT HISTORY (R148, R196) -/

/-- R196: the end of an episode, in minutes after its start. -/
def Episode.endField (e : Episode) : Nat :=
  match e.closing with
  | none => 65535
  | some (t, _) =>
    if t.count < e.start.count then 65534 else min 65533 (t.count - e.start.count)

/-- R190: the number of an episode's end. -/
def Episode.endCode (e : Episode) : Nat :=
  match e.closing with
  | none => 0
  | some (_, b) => b.code

/-- R196: an episode record, 14 bytes. -/
def episodeBytes (e : Episode) : List Byte :=
  u8 e.number ++ u8 (e.first.code + e.subject.kindCode * 16 + e.endCode * 64) ++
    setBytes e.further ++ u16 e.subject.value ++ stampBytes (some e.start) ++
    u16 (e.pulseTotal.toNat % 65536) ++ u16 e.endField

/-- R196: the first byte of the header. -/
def historyHeader (s : State) : Nat :=
  s.halt.state.code + (s.halt.history.length - 1) * 4 + bitAt s.track.moved 4 +
    bitAt s.inputs.chainClosed 5 + bitAt s.relayCommand 6 + bitAt s.inputs.readback 7

/-- READ HALT HISTORY (R148). -/
def readHaltHistoryRequest (s : State) : Response × State :=
  (okWith (u8 (historyHeader s) ++ setBytes s.halt.causes ++ s.halt.history.flatMap episodeBytes),
    s)

/-! ## Safety chain and drive fault (R153 to R155) -/

/-- SAFETY_CHAIN_OPENS (R153, R155, R156): the chain's direct effects, then the cause. -/
def chainOpens (s : State) : State :=
  let s1 := endJog { s with inputs := { s.inputs with chainClosed := false } }
  settle s (raiseCause .safetyChain .none (testMismatch (retestDemand s1)))

def execSafetyChainOpens (s : State) : Answer := done (chainOpens s)

/-- SAFETY_CHAIN_CLOSES (R155, R156, R71). -/
def chainCloses (s : State) : State :=
  settle s (testMismatch (retestDemand { s with inputs := { s.inputs with chainClosed := true } }))

def execSafetyChainCloses (s : State) : Answer := done (chainCloses s)

/-- DRIVE_FAULT_ACTIVE (R154). -/
def execDriveFaultActive (s : State) : Answer :=
  done (settleHalted s
    (raiseCause .driveFault .none { s with inputs := { s.inputs with driveFault := true } }))

/-- DRIVE_FAULT_INACTIVE (R154). -/
def execDriveFaultInactive (s : State) : Answer :=
  done { s with inputs := { s.inputs with driveFault := false } }

/-! ## The safety relay (R156, R163) -/

/-- RELAY_READBACK_CHANGE (R156). -/
def execRelayReadbackChange (energised : Bool) (s : State) : Answer :=
  done (testMismatch { s with inputs := { s.inputs with readback := energised } })

/-- R163, R164, R133, R136: the mode becomes LOCKOUT: the notice goes to all ports, a jog ends, the
conveyor loses run demand and the stations take the change as a stop. -/
def enterLockout (s : State) : State :=
  let s1 := endJog (raiseAll .lockout { s with
    mode := .lockout
    halt := { s.halt with mismatchTimer := .stopped } })
  settle s (stationsHaltChange s.stationHalt .stopped (testDemand s1))

/-- MISMATCH_TIMER_EXPIRY (R156, R163). -/
def mismatchExpiry (s : State) : State :=
  if s.halt.mismatchTimer.isRunning then
    if s.mode = .lockout then { s with halt := { s.halt with mismatchTimer := .stopped } }
    else enterLockout s
  else s

def execMismatchTimerExpiry (s : State) : Answer := done (mismatchExpiry s)

end Sys2Proof.Machine
end

