-- ==== Sys2Proof/Machine/Members.lean ====
section
/-!
DEFINITION. The family of members and credits (spec/02_members_and_credits.md): TAG and REDEEM at a
lane, LOAD MEMBER, DROP MEMBER, NO MEMBER, SET WIRED, READ MEMBERS, READ CREDITS and DROP CREDIT at
the site port, and the expiry of the lookup timer.
-/

namespace Sys2Proof.Machine

/-- The member entries' indices in order. -/
def entryIxs : List EntryIx := List.finRange 48

def State.entry (s : State) (k : EntryIx) : MemberEntry := s.memb.entries[k]

def setEntry (k : EntryIx) (e : MemberEntry) (s : State) : State :=
  { s with memb := { s.memb with entries := vset s.memb.entries k e } }

/-- R26: the entry that a tag matches. -/
def State.matchTag (s : State) (t : Word32) : Option EntryIx :=
  entryIxs.find? (fun k => (s.entry k).covers t)

/-! ## Hits (R33, R34) -/

/-- R33: whether the repeat interval is respected. -/
def State.intervalOk (s : State) (e : MemberEntry) : Bool :=
  s.settings.timing.memberInterval == 0 || s.sales.clock.unset ||
    match e.stamp with
    | none => true
    | some t =>
      s.stamp.count < t.count || s.settings.timing.memberInterval ≤ s.stamp.count - t.count

/-- R33: the status that a hit on an entry is refused with, if it is refused. -/
def State.hitRefusal (s : State) (e : MemberEntry) : Option Status :=
  if e.status = .suspended then some .suspended
  else if !(s.row e.row).active || (s.row e.row).kind != .member then some .notSellable
  else if !s.intervalOk e then some .tooSoon
  else none

/-- R34: the ticket record of a granted hit. -/
def memberTicket (s : State) (i : Lane) (e : MemberEntry) (t : Word32) (n : Nat) : Ticket :=
  { number := n, kind := .member, state := .laneQueued, baseRow := some e.row, addOns := [],
    features := (s.row e.row).features, cap := (s.row e.row).cap, price := 0, origin := .lane i,
    receipt := none, tag := some t, credit := none }

/-- R34: once the ticket is written, it joins the lane queue, the entry's stamp is set to now, the
sale is counted with value 0, and the sale slot is empty. -/
def finishHit (i : Lane) (k : EntryIx) (n : Nat) (s : State) : State :=
  let e := s.entry k
  setSaleSlot i .empty
    (countRow e.row 0 (setEntry k { e with stamp := some s.stamp } (joinLaneQueue i n s)))

/-! ## TAG (R32 to R35) -/

/-- R35: the ticket record of a lookup wait. -/
def lookupTicket (i : Lane) (t : Word32) (n : Nat) : Ticket :=
  { number := n, kind := .member, state := .lookup, baseRow := none, addOns := [], features := 0,
    cap := 1000, price := 0, origin := .lane i, receipt := none, tag := some t, credit := none }

/-- TAG (R32). -/
def tagRequest (i : Lane) (b : List Byte) (s : State) : Response × State :=
  let t := longAt b 0
  if s.mode ≠ .openMode then (refuse .closed, s)
  else if !s.laneRoom i then (refuse .full, s)
  else if !s.slotRoom i then (refuse .full, s)
  else
    match s.matchTag t with
    | some k =>
      match s.hitRefusal (s.entry k) with
      | some st => (refuse st, s)
      | none =>
        let (n, s1) := writeSale i (memberTicket s i (s.entry k) t) s
        (okWith (u16 n), finishHit i k n s1)
    | none =>
      let (n, s1) := writeSale i (lookupTicket i t) s
      (refuse .taken,
        raiseTo .site (.memberMiss i t)
          (setSaleSlot i (.lookup n t (Timer.seconds s.settings.timing.lookupTime)) s1))

/-! ## The end of a lookup wait (R36, R37) -/

/-- R36, R37: a lane's wait ends without a hit: its ticket leaves the table and TAG_RESULT with a
status is raised to the lane. -/
def endWait (i : Lane) (st : Status) (s : State) : State :=
  raiseTo (.lane i) (.tagResult st 0) (cancelSlot i s)

/-- R36: one lane's wait completes as a hit against entry k, when its tag lies in the range just
loaded. -/
def completeWait (k : EntryIx) (s : State) (i : Lane) : State :=
  match s.saleSlot i with
  | .lookup n t _ =>
    if (s.entry k).covers t then
      match s.hitRefusal (s.entry k) with
      | some st => endWait i st s
      | none =>
        raiseTo (.lane i) (.tagResult .ok n)
          (finishHit i k n (updateTicket n (fun _ => memberTicket s i (s.entry k) t n) s))
    else s
  | .empty | .pending _ _ _ _ => s

/-- R36: after a load, every wait it covers completes, lane 0 first. -/
def completeWaits (k : EntryIx) (s : State) : State := lanes.foldl (completeWait k) s

/-- R37: LOOKUP_TIMER_EXPIRY ends the wait as NO MEMBER does. -/
def lookupExpiry (i : Lane) (s : State) : State :=
  match s.saleSlot i with
  | .lookup _ _ tm => if tm.isRunning then settleDrain s (endWait i .notFound s) else s
  | .empty | .pending _ _ _ _ => s

def execLookupTimerExpiry (i : Lane) (s : State) : Answer := done (lookupExpiry i s)

/-- R37: whether a lane waits for exactly a tag. -/
def State.waitsFor (s : State) (t : Word32) (i : Lane) : Bool :=
  match s.saleSlot i with
  | .lookup _ t' _ => t' == t
  | .empty | .pending _ _ _ _ => false

/-- NO MEMBER (R37). -/
def noMemberRequest (b : List Byte) (s : State) : Response × State :=
  let t := longAt b 0
  if lanes.any (s.waitsFor t) then
    (okWith [], settleDrain s (lanes.foldl (fun s' i =>
      if s.waitsFor t i then endWait i .notFound s' else s') s))
  else (refuse .notFound, s)

/-! ## The member table (R27 to R31) -/

/-- A LOAD MEMBER body (R28). -/
structure LoadArgs where
  base : Word32
  order : Nat
  row : Row
  status : MemberStatus
  wired : Bool
deriving DecidableEq, Repr

/-- R28 step 1. -/
def parseLoad (b : List Byte) : Option LoadArgs := do
  let base := longAt b 0
  let order := byteAt b 4
  let row ← fin? 32 (byteAt b 5)
  let status ← MemberStatus.ofCode (byteAt b 6)
  let wired ← flagAt b 7
  if (order == 0 || order == 4 || order == 8 || order == 12) &&
      base.toNat % rangeSize order == 0 then
    some ⟨base, order, row, status, wired⟩
  else none

/-- R28 step 5: whether a range overlaps a valid entry's. -/
def MemberEntry.overlaps (e : MemberEntry) (base : Word32) (order : Nat) : Bool :=
  e.valid && e.base.toNat < base.toNat + rangeSize order &&
    base.toNat < e.base.toNat + rangeSize e.order

/-- R29: where a placement goes: the lowest invalid index below W for a wired load; for an unwired
one the lowest invalid index from W on, or the entry at the pointer. The flag says whether the
pointer was used. -/
def State.placeFor (s : State) (wired : Bool) : Option (EntryIx × Bool) :=
  if wired then
    (entryIxs.find? (fun k => k.val < s.settings.wired && !(s.entry k).valid)).map (fun k => (k, false))
  else
    match entryIxs.find? (fun k => s.settings.wired ≤ k.val && !(s.entry k).valid) with
    | some k => some (k, false)
    | none => some (s.memb.pointer, true)

/-- The wired count as an index; W never exceeds 40 (R27). -/
def State.wiredIx (s : State) : EntryIx := (fin? 48 s.settings.wired).getD 0

/-- R29: the pointer advances by one, and from 47 it wraps to W. -/
def State.nextPointer (s : State) : EntryIx := (fin? 48 (s.memb.pointer.val + 1)).getD s.wiredIx

/-- R29: a placed entry, with its stamp absent. -/
def LoadArgs.entry (a : LoadArgs) : MemberEntry := ⟨true, a.base, a.order, a.row, a.status, none⟩

/-- What every successful load ends with (R28, R36). -/
def loaded (before : State) (k : EntryIx) (s : State) : Response × State :=
  (okWith (u8 k.val), settleDrain before (completeWaits k s))

/-- LOAD MEMBER (R28, R29). -/
def loadMemberRequest (b : List Byte) (s : State) : Response × State :=
  match parseLoad b with
  | none => (refuse .outOfRange, s)
  | some a =>
    if a.wired && s.saving then (refuse .busy, s)
    else if (s.row a.row).kind ≠ .member then (refuse .notSellable, s)
    else
      match entryIxs.find? (fun k =>
        (s.entry k).valid && (s.entry k).base == a.base && (s.entry k).order == a.order) with
      | some k =>
        loaded s k (setEntry k { s.entry k with row := a.row, status := a.status } s)
      | none =>
        if entryIxs.any (fun k => (s.entry k).overlaps a.base a.order) then (refuse .overlap, s)
        else
          match s.placeFor a.wired with
          | none => (refuse .full, s)
          | some (k, usedPointer) =>
            let s1 := setEntry k a.entry s
            loaded s k
              (if usedPointer then { s1 with memb := { s1.memb with pointer := s.nextPointer } }
               else s1)

/-- DROP MEMBER (R30). -/
def dropMemberRequest (b : List Byte) (s : State) : Response × State :=
  match entryIxs.find? (fun k => (s.entry k).valid && (s.entry k).base == longAt b 0) with
  | none => (refuse .notFound, s)
  | some k =>
    if decide (k.val < s.settings.wired) && s.saving then (refuse .busy, s)
    else (okWith (u8 k.val), setEntry k { s.entry k with valid := false } s)

/-- SET WIRED (R27). -/
def setWiredRequest (b : List Byte) (s : State) : Response × State :=
  if s.saving then (refuse .busy, s)
  else
    let w := min (byteAt b 0) Config.wiredMax
    (okWith (u8 w),
      { s with
        settings := { s.settings with wired := w }
        memb := { s.memb with pointer := (fin? 48 w).getD 0 } })

/-- R194: a member entry, 12 bytes. -/
def entryBytes (k : EntryIx) (e : MemberEntry) : List Byte :=
  u8 k.val ++ u8 (bitAt e.valid 0 + bitAt (e.status == .suspended) 1) ++ u8 e.order ++
    u32 e.base.toNat ++ u8 e.row.val ++ stampBytes e.stamp

/-- READ MEMBERS (R31). -/
def readMembersRequest (b : List Byte) (s : State) : Response × State :=
  match fin? 48 (byteAt b 0) with
  | none => (refuse .outOfRange, s)
  | some k =>
    let ks := (entryIxs.drop k.val).take 4
    (okWith (u8 s.settings.wired ++ u8 s.memb.pointer.val ++ u8 k.val ++ u8 ks.length ++
      ks.flatMap (fun k => entryBytes k (s.entry k))), s)

/-! ## Credits (R41, R42) -/

/-- The credit with a code. -/
def State.credit? (s : State) (code : Nat) : Option Credit :=
  s.credits.find? (fun c => c.code == code)

/-- R41: the ticket record of a redemption. -/
def redeemTicket (i : Lane) (c : Credit) (n : Nat) : Ticket :=
  { number := n, kind := .rewash, state := .pending, baseRow := c.baseRow, addOns := [],
    features := c.features, cap := c.cap, price := 0, origin := .lane i, receipt := none,
    tag := none, credit := some c.code }

/-- REDEEM (R41). -/
def redeemRequest (i : Lane) (b : List Byte) (s : State) : Response × State :=
  let code := wordAt b 0
  if s.mode ≠ .openMode then (refuse .closed, s)
  else
    match s.credit? code with
    | none => (refuse .notFound, s)
    | some c =>
      if lanes.any (fun l => l != i && (s.saleSlot l).names? == some code) then (refuse .busy, s)
      else if !s.laneRoom i then (refuse .full, s)
      else if !s.slotRoom i then (refuse .full, s)
      else
        let (n, s1) := writeSale i (redeemTicket i c) s
        (okWith (u16 n ++ u16 0 ++ u8 0),
          setSaleSlot i
            (.pending n [0] (Timer.seconds s.settings.timing.pendingTime) (some code)) s1)

/-- DROP CREDIT (R42). -/
def dropCreditRequest (b : List Byte) (s : State) : Response × State :=
  let code := wordAt b 0
  if (s.credit? code).isNone then (refuse .notFound, s)
  else if s.codeNamed code then (refuse .busy, s)
  else (okWith [], removeCredit code s)

/-- R194: a credit, 14 bytes, with the mark that tells whether a lane's pending sale names it. -/
def creditBytes (s : State) (c : Credit) : List Byte :=
  u16 c.code ++ rowByte c.baseRow ++ setBytes c.features ++ u16 c.cap ++ u8 c.reason.code ++
    stampBytes (some c.stamp) ++ u8 c.origin.code ++ flagByte (s.codeNamed c.code)

/-- READ CREDITS (R42). -/
def readCreditsRequest (b : List Byte) (s : State) : Response × State :=
  let k := byteAt b 0
  if 31 < k then (refuse .outOfRange, s)
  else
    let cs := (s.credits.drop k).take 4
    (okWith (u8 s.credits.length ++ u8 k ++ u8 cs.length ++ cs.flatMap (creditBytes s)), s)

end Sys2Proof.Machine
end

