-- ==== Sys2Proof/Machine/Modes.lean ====
section
/-!
DEFINITION. The family of tunnel modes, start-up and the settings store
(spec/08_tunnel_modes_start_up_and_the_settings_store.md): OPEN, CLOSE, SAVE and READ STATUS, the end
of a row write, the end of a drain, and device reset.
-/

namespace Sys2Proof.Machine

/-! ## OPEN and CLOSE (R160 to R162) -/

/-- OPEN (R160). The mode reaches run demand (R71) and the gate's offer (R52). -/
def openRequest (s : State) : Response × State :=
  match s.mode with
  | .closed | .draining => (okWith [], settle s (retestDemand { s with mode := .openMode }))
  | .setup | .openMode | .lockout => (refuse .wrongState, s)

/-- CLOSE (R161): the drain starts, and ends in the same event when its conditions hold. -/
def closeRequest (s : State) : Response × State :=
  match s.mode with
  | .openMode => (refuse .taken, settleDrain s { s with mode := .draining })
  | .setup | .closed | .draining | .lockout => (refuse .wrongState, s)

/-- DRAIN_END (R162): MODE's test of the drain conditions. -/
def execDrainEnd (s : State) : Answer := done (settleDrain s s)

/-! ## SAVE (R169) -/

/-- R166: what the store keeps of a member entry. -/
def MemberEntry.stored (e : MemberEntry) (k : EntryIx) : StoredEntry :=
  { index := k, valid := e.valid, base := e.base, order := e.order, row := e.row,
    status := e.status }

/-- R169: the copy of every stored setting. -/
def State.copySettings (s : State) : StoredSettings :=
  { site := s.settings
    wired := (entryIxs.take s.settings.wired).map (fun k => (s.entry k).stored k) }

/-- SAVE (R169). The marker is being rewritten from now on and no longer reads CLOSED (R171, log
entry 9). -/
def saveRequest (s : State) : Response × State :=
  if s.saving then (refuse .busy, s)
  else
    (refuse .taken, { s with store := { s.store with
      save := some ⟨s.copySettings, 0⟩
      marker := if s.store.marker = .closed then .openMarker else s.store.marker } })

/-! ## Row writes (R170, R171) -/

/-- R170: the write that is under way in a save. -/
inductive RowWrite where
  | openingMarker
  | settingsRow (r : Fin 95)
  | closingMarker
deriving DecidableEq, Repr

/-- R170: the write that a save's row number names. -/
def SaveJob.write (j : SaveJob) : RowWrite :=
  if j.row = 0 then .openingMarker
  else
    match fin? 95 (j.row - 1) with
    | some r => .settingsRow r
    | none => .closingMarker

/-- What an incomplete write leaves in its row: a FREE VALUE (log entry 9). The marker is BLANK or
OPEN, never CLOSED (R171); a settings row is valid or not. -/
def spoilRow (j : SaveJob) (s : State) : State :=
  match j.write with
  | .openingMarker | .closingMarker =>
    { s with
      store := { s.store with
        marker := if Config.freeMarkerBlank s.free then .blank else .openMarker }
      free := s.free + 1 }
  | .settingsRow r =>
    { s with
      store := { s.store with
        rowsValid := vset s.store.rowsValid r (Config.freeRowValid s.free) }
      free := s.free + 1 }

/-- R170: a save goes on to its next row. -/
def nextRow (j : SaveJob) (s : State) : State :=
  { s with store := { s.store with save := some { j with row := j.row + 1 } } }

/-- R170: the save completes. -/
def completeSave (j : SaveJob) (s : State) : State :=
  raiseTo .site (.storeDone true)
    { s with
      mode := if s.mode = .setup then .closed else s.mode
      store := { s.store with
        marker := .closed, image := j.copy, torn := false, blank := false, save := none } }

/-- R171: the save fails at its row. -/
def failSave (j : SaveJob) (s : State) : State :=
  let s1 := spoilRow j s
  raiseTo .site (.storeDone false)
    { s1 with store := { s1.store with torn := true, blank := false, save := none } }

/-- R170: a read-back agrees, and the save goes on or completes. -/
def rowAgrees (j : SaveJob) (s : State) : State :=
  match j.write with
  | .openingMarker => nextRow j { s with store := { s.store with marker := .openMarker } }
  | .settingsRow r =>
    nextRow j { s with store := { s.store with rowsValid := vset s.store.rowsValid r true } }
  | .closingMarker => completeSave j s

/-- ROW_WRITE_COMPLETE (R170, R171); with no save there is no write. -/
def rowWritten (agrees : Bool) (s : State) : State :=
  match s.store.save with
  | none => s
  | some j => if agrees then rowAgrees j s else failSave j s

def execRowWriteComplete (agrees : Bool) (s : State) : Answer := done (rowWritten agrees s)

/-! ## READ STATUS (R173) -/

/-- R173: in DRAINING the drain conditions that fail, in any other mode none. -/
def State.statusFailing (s : State) : List Nat :=
  if s.mode = .draining then s.drainFailing else []

/-- READ STATUS (R173). -/
def readStatusRequest (s : State) : Response × State :=
  (okWith (u8 s.mode.code ++ u8 s.halt.state.code ++ u8 s.conv.state.code ++
    flagByte s.track.moved ++ flagByte s.store.torn ++ flagByte s.store.blank ++
    flagByte s.saving ++ stampBytes (some s.stamp) ++ flagByte s.sales.clock.unset ++
    u8 s.statusFailing.length ++ s.statusFailing.flatMap u8), s)

/-! ## Device reset (R167) -/

/-- R167, R171: a save in progress is abandoned; the row in flight keeps what the cut-off write
left. -/
def abandonSave (s : State) : State :=
  match s.store.save with
  | none => s
  | some j => spoilRow j s

/-- R167: the store gives its settings: the marker is CLOSED and every settings row is valid. -/
def Store.whole (st : Store) : Bool :=
  st.marker == .closed && st.rowsValid.toList.all id

/-- R167, R168: the flags as start-up finds the store. -/
def startStore (st : Store) : Store :=
  { st with
    torn := st.marker == .openMarker || (st.marker == .closed && !st.rowsValid.toList.all id)
    blank := st.marker == .blank
    save := none }

/-- R26, R167: a wired entry as it is loaded, with its last wash stamp absent. -/
def StoredEntry.load (e : StoredEntry) : MemberEntry :=
  { valid := e.valid, base := e.base, order := e.order, row := e.row, status := e.status,
    stamp := none }

/-- R167: the member table after start-up: the wired entries of the store, every other invalid; the
pointer at W (R27). -/
def startMembers (image : StoredSettings) : Members :=
  { entries := image.wired.foldl (fun v e => vset v e.index e.load)
      (Vector.replicate 48 MemberEntry.clear)
    pointer := (fin? 48 image.site.wired).getD 0 }

/-- R167 steps 1 to 4: every record takes its reset value, and the settings are loaded or defaulted.
The levels of the inputs, the store's rows and the model's own fields stay. -/
def resetRecords (s : State) : State :=
  let base := { State.reset with
    halt := Halt.start
    ports := Vector.replicate 5 PortState.start
    store := startStore s.store
    inputs := s.inputs
    now := s.now
    free := s.free
    pending := s.pending }
  if s.store.whole then
    { base with
      settings := s.store.image.site
      memb := startMembers s.store.image
      mode := .closed }
  else base

/-- R158: the causes that start-up reads at the chain and the drive fault input join episode 1. -/
def startCauses (s : State) : State :=
  let s1 := if s.inputs.chainClosed then s else raiseCause .safetyChain .none s
  if s1.inputs.driveFault then raiseCause .driveFault .none s1 else s1

/-- DEVICE_RESET (R167, R158). -/
def deviceReset (s : State) : State :=
  let s1 := resetRecords (abandonSave s)
  let s2 := stationIxs.foldl (fun s j => startMachine j s) (startCauses s1)
  raiseAll (.halt .powerUp 1) (testMismatch s2)

def execDeviceReset (s : State) : Answer := done (deviceReset s)

end Sys2Proof.Machine
end

