-- ==== Sys2Proof/Machine/Link.lean ====
section
/-!
DEFINITION. The link (spec/09_link_ports_and_notices.md): TAKE NOTICE and SET MASK, the judging of a
request (R180) and its service, the taking and holding of frames (R178), the receiver (R174, R175,
R177), and the port reset (R183).
-/

namespace Sys2Proof.Machine

/-! ## Notices (R186, R187, R191) -/

/-- R191: the data of a notice. -/
def Notice.data : Notice → List Byte
  | .lockout | .closeDone => []
  | .halt c n => u8 c.code ++ u8 n
  | .resumed n => u8 n
  | .gateHold r n => u8 r.code ++ u16 n
  | .mergeOverrun i r => u8 i.val ++ u8 r.code
  | .memberMiss i t => u8 i.val ++ u32 t.toNat
  | .tagResult st n => u8 st.code ++ u16 n
  | .saleLapsed n => u16 n
  | .saleDone e => finishedBytes e
  | .storeDone ok => u8 (if ok then 0 else 1)
  | .creditDropped c => u16 c

/-- TAKE NOTICE (R186). -/
def takeNoticeRequest (p : Port) (s : State) : Response × State :=
  match (s.port p).unmasked with
  | [] => (okWith (u8 0 ++ u8 0), s)
  | n :: rest =>
    (okWith (u8 n.kind ++ n.data ++ u8 rest.length),
      s.setPort p { s.port p with
        notices := (s.port p).notices.filter (fun m => m.kind ≠ n.kind) })

/-- R191: the bits of a notice set that name no kind: bit 0 and bits 13 to 15. -/
def unknownKinds : Set16 := 0xE001

/-- SET MASK (R187). -/
def setMaskRequest (p : Port) (b : List Byte) (s : State) : Response × State :=
  let m : Set16 := BitVec.ofNat 16 (wordAt b 0)
  if m &&& unknownKinds = 0 then
    (okWith (setBytes m ++ setBytes (s.port p).pendingSet),
      s.setPort p { s.port p with mask := m })
  else (refuse .outOfRange, s)

/-! ## Service (R180) -/

/-- The lane requests, which act on the lane whose port they came from (R181). -/
def serveLane (i : Lane) (k : RequestKind) (b : List Byte) (s : State) : Response × State :=
  match k with
  | .quote => quoteRequest i b s
  | .pay => payRequest i b s
  | .cancel => cancelRequest i s
  | .tag => tagRequest i b s
  | .redeem => redeemRequest i b s
  | .laneStatus => laneStatusRequest i s
  | _ => (refuse .notPermitted, s)

/-- R180: a request that passes the link's tests goes to the block that serves it. -/
def serve (p : Port) (k : RequestKind) (b : List Byte) (s : State) : Response × State :=
  match k with
  | .readStatus => readStatusRequest s
  | .takeNotice => takeNoticeRequest p s
  | .setMask => setMaskRequest p b s
  | .readTicket => readTicketRequest b s
  | .quote | .pay | .cancel | .tag | .redeem | .laneStatus =>
    match p with
    | .lane i => serveLane i k b s
    | .console | .site => (refuse .notPermitted, s)
  | .halt => haltRequest p s
  | .resume => resumeRequest s
  | .confirmRoster => confirmRosterRequest s
  | .removeCar => removeCarRequest b s
  | .gateDecide => gateDecideRequest b s
  | .place => placeRequest b s
  | .jog => jogRequest b s
  | .jogStop => jogStopRequest s
  | .readRoster => readRosterRequest b s
  | .readHaltHistory => readHaltHistoryRequest s
  | .readStation => readStationRequest b s
  | .readConveyor => readConveyorRequest s
  | .setRow => setRowRequest b s
  | .setMenu => setMenuRequest b s
  | .setPeriod => setPeriodRequest b s
  | .setClock => setClockRequest b s
  | .setTiming => setTimingRequest b s
  | .setSpeedSteps => setSpeedStepsRequest b s
  | .setStation => setStationRequest b s
  | .setGeometry => setGeometryRequest b s
  | .loadMember => loadMemberRequest b s
  | .dropMember => dropMemberRequest b s
  | .noMember => noMemberRequest b s
  | .setWired => setWiredRequest b s
  | .readMembers => readMembersRequest b s
  | .readCredits => readCreditsRequest b s
  | .dropCredit => dropCreditRequest b s
  | .readTotals => readTotalsRequest b s
  | .clearTotals => clearTotalsRequest s
  | .openTunnel => openRequest s
  | .close => closeRequest s
  | .save => saveRequest s

/-- R180: the four tests of the link, in order; then the block's service. -/
def judge (p : Port) (f : Frame) (s : State) : Response × State :=
  match RequestKind.ofCode f.kind with
  | none => (refuse .badRequest, s)
  | some k =>
    if !k.permitted p.cls then (refuse .notPermitted, s)
    else if !k.lengthOk f.body.length then (refuse .badRequest, s)
    else if s.mode = .lockout ∧ k.lockoutAnswers = false then (refuse .locked, s)
    else serve p k f.body s

/-! ## Frames (R178) -/

/-- Write a port's request state. -/
def setRequest (p : Port) (r : RequestState) (s : State) : State :=
  s.setPort p { s.port p with request := r }

/-- R178: a frame is taken: the request is carried out, and its reply begins to be sent. -/
def takeFrame (p : Port) (f : Frame) (s : State) : State :=
  let out := judge p f s
  setRequest p (.replying (replyTo f out.1)) out.2

/-- R175: the receiver goes to HUNTING, where the gap timer does not run (R177). -/
def hunt (p : Port) (s : State) : State :=
  s.setPort p { s.port p with receiver := .hunting, gapTimer := .stopped }

/-- Write a port's holding buffer. -/
def setHeld (p : Port) (f : Option Frame) (s : State) : State :=
  s.setPort p { s.port p with held := f }

/-- R178: a complete frame is taken, held or discarded, by the request state and the buffer. -/
def handleFrame (p : Port) (f : Frame) (s : State) : State :=
  match (s.port p).request with
  | .free => takeFrame p f s
  | .replying _ =>
    match (s.port p).held with
    | none => setHeld p (some f) s
    | some _ => s

/-- R175, R183: a complete frame arrives at a port. No frame arrives while the line is held low, and
none has a body of more than 60 bytes (log entry 11). -/
def receiveFrame (p : Port) (f : Frame) (s : State) : State :=
  if (s.port p).lineLow || Config.bodyMax < f.body.length then s
  else handleFrame p f (hunt p s)

/-! ## The receiver (R174 to R177) -/

/-- The receiver holds a frame's bytes so far, and the gap timer runs from the end of the last. -/
def keepBytes (p : Port) (bytes : List Byte) (s : State) : State :=
  s.setPort p { s.port p with
    receiver := .receiving bytes, gapTimer := .running Config.gapUnits }

/-- R175: at the second check byte the frame is judged; the bytes start at LENGTH. -/
def judgeBytes (len : Nat) (bytes : List Byte) : Option Frame :=
  let covered := bytes.take (len + 1)
  if u16 (crc covered).toNat = bytes.drop (len + 1) then
    match covered with
    | _ :: kind :: tag :: body => some ⟨kind, tag, body⟩
    | _ => none
  else none

/-- R175: the frame as it grows; the bytes start at START. -/
def growFrame (p : Port) (bytes : List Byte) (s : State) : State :=
  let len := byteAt bytes 1
  if bytes.length = 2 ∧ inRange 2 62 len = false then hunt p s
  else if len + 4 ≤ bytes.length then
    match judgeBytes len (bytes.drop 1) with
    | some f => receiveFrame p f s
    | none => hunt p s
  else keepBytes p bytes s

/-- R174: a byte is received without a framing error. -/
def receiveByte (p : Port) (b : Byte) (s : State) : State :=
  if (s.port p).lineLow then s
  else
    match (s.port p).receiver with
    | .hunting => if b = startByte then keepBytes p [b] s else s
    | .receiving bytes => growFrame p (bytes ++ [b]) s

/-- BYTE_RECEIVED (R174, R175). -/
def execByteReceived (p : Port) (b : Byte) (s : State) : Answer := done (receiveByte p b s)

/-- FRAMING_ERROR (R174): a frame being received is abandoned. -/
def execFramingError (p : Port) (s : State) : Answer := done (hunt p s)

/-- GAP_TIMER_EXPIRY (R177). -/
def gapExpiry (p : Port) (s : State) : State :=
  if (s.port p).gapTimer.isRunning then hunt p s else s

def execGapTimerExpiry (p : Port) (s : State) : Answer := done (gapExpiry p s)

/-- FRAME_DISCARDED (R175): the frame being received is discarded. -/
def execFrameDiscarded (p : Port) (s : State) : Answer := done (hunt p s)

/-- FRAME_HELD (R178): a complete frame arrives. -/
def execFrameHeld (p : Port) (kind tag : Byte) (body : List Byte) (s : State) : Answer :=
  done (receiveFrame p ⟨kind, tag, body⟩ s)

/-! ## Replies (R178) -/

/-- R178: the last byte of a reply has been sent. -/
def replyDone (p : Port) (s : State) : State :=
  match (s.port p).request with
  | .free => s
  | .replying _ =>
    match (s.port p).held with
    | some f => takeFrame p f (setHeld p none s)
    | none => setRequest p .free s

/-- REPLY_SENT (R178). -/
def execReplySent (p : Port) (s : State) : Answer := done (replyDone p s)

/-! ## Port reset (R183) -/

/-- R183, R19: on a lane port the lane's sale slot is cancelled. -/
def cancelAtReset (p : Port) (s : State) : State :=
  match p with
  | .lane i => settleDrain s (cancelSlot i s)
  | .console | .site => s

/-- PORT_RESET (R183); no second reset occurs while the line stays low. -/
def portReset (p : Port) (s : State) : State :=
  if (s.port p).lineLow then s
  else
    cancelAtReset p (s.setPort p { s.port p with
      receiver := .hunting, gapTimer := .stopped, held := none, notices := [], mask := 0,
      lineLow := true })

def execPortReset (p : Port) (s : State) : Answer := done (portReset p s)

/-- RECEIVE_LINE_HIGH (R183): the port receives again. -/
def execReceiveLineHigh (p : Port) (s : State) : Answer :=
  done (s.setPort p { s.port p with lineLow := false })

end Sys2Proof.Machine
end

