-- ==== Sys2Proof/Machine/Requests.lean ====
section
/-!
DEFINITION. The request commands: each is a complete frame of its kind at a port (R175, R178, R188),
which the port takes, holds or discards. A GATE DECIDE row carries its decision in front of the rest
of the body (R189).
-/

namespace Sys2Proof.Machine

/-- A complete frame of request kind k arrives at a port. -/
def request (k : RequestKind) (p : Port) (tag : Byte) (body : List Byte) (s : State) : Answer :=
  done (receiveFrame p ⟨k.code, tag, body⟩ s)

/-- READ_STATUS (R173). -/
def execReadStatus (p : Port) (tag : Byte) (body : List Byte) (s : State) : Answer :=
  request .readStatus p tag body s

/-- TAKE_NOTICE (R186). -/
def execTakeNotice (p : Port) (tag : Byte) (body : List Byte) (s : State) : Answer :=
  request .takeNotice p tag body s

/-- SET_MASK (R187). -/
def execSetMask (p : Port) (tag : Byte) (body : List Byte) (s : State) : Answer :=
  request .setMask p tag body s

/-- READ_TICKET (R25). -/
def execReadTicket (p : Port) (tag : Byte) (body : List Byte) (s : State) : Answer :=
  request .readTicket p tag body s

/-- QUOTE (R14). -/
def execQuote (p : Port) (tag : Byte) (body : List Byte) (s : State) : Answer :=
  request .quote p tag body s

/-- PAY (R17). -/
def execPay (p : Port) (tag : Byte) (body : List Byte) (s : State) : Answer :=
  request .pay p tag body s

/-- CANCEL (R18). -/
def execCancel (p : Port) (tag : Byte) (body : List Byte) (s : State) : Answer :=
  request .cancel p tag body s

/-- TAG (R32). -/
def execTag (p : Port) (tag : Byte) (body : List Byte) (s : State) : Answer :=
  request .tag p tag body s

/-- REDEEM (R41). -/
def execRedeem (p : Port) (tag : Byte) (body : List Byte) (s : State) : Answer :=
  request .redeem p tag body s

/-- LANE_STATUS (R25). -/
def execLaneStatus (p : Port) (tag : Byte) (body : List Byte) (s : State) : Answer :=
  request .laneStatus p tag body s

/-- HALT (R149). -/
def execHalt (p : Port) (tag : Byte) (body : List Byte) (s : State) : Answer :=
  request .halt p tag body s

/-- RESUME (R150). -/
def execResume (p : Port) (tag : Byte) (body : List Byte) (s : State) : Answer :=
  request .resume p tag body s

/-- CONFIRM_ROSTER (R111). -/
def execConfirmRoster (p : Port) (tag : Byte) (body : List Byte) (s : State) : Answer :=
  request .confirmRoster p tag body s

/-- REMOVE_CAR (R108). -/
def execRemoveCar (p : Port) (tag : Byte) (body : List Byte) (s : State) : Answer :=
  request .removeCar p tag body s

/-- RETRY (R64). -/
def execRetry (p : Port) (tag : Byte) (rest : List Byte) (s : State) : Answer :=
  request .gateDecide p tag (0 :: rest) s

/-- WAVE (R65). -/
def execWave (p : Port) (tag : Byte) (rest : List Byte) (s : State) : Answer :=
  request .gateDecide p tag (1 :: rest) s

/-- SELL (R66). -/
def execSell (p : Port) (tag : Byte) (rest : List Byte) (s : State) : Answer :=
  request .gateDecide p tag (2 :: rest) s

/-- REMOVE (R67). -/
def execRemove (p : Port) (tag : Byte) (rest : List Byte) (s : State) : Answer :=
  request .gateDecide p tag (3 :: rest) s

/-- PLACE (R48). -/
def execPlace (p : Port) (tag : Byte) (body : List Byte) (s : State) : Answer :=
  request .place p tag body s

/-- JOG (R135). -/
def execJog (p : Port) (tag : Byte) (body : List Byte) (s : State) : Answer :=
  request .jog p tag body s

/-- JOG_STOP (R136). -/
def execJogStop (p : Port) (tag : Byte) (body : List Byte) (s : State) : Answer :=
  request .jogStop p tag body s

/-- READ_ROSTER (R112). -/
def execReadRoster (p : Port) (tag : Byte) (body : List Byte) (s : State) : Answer :=
  request .readRoster p tag body s

/-- READ_HALT_HISTORY (R148). -/
def execReadHaltHistory (p : Port) (tag : Byte) (body : List Byte) (s : State) : Answer :=
  request .readHaltHistory p tag body s

/-- READ_STATION (R137). -/
def execReadStation (p : Port) (tag : Byte) (body : List Byte) (s : State) : Answer :=
  request .readStation p tag body s

/-- READ_CONVEYOR (R82). -/
def execReadConveyor (p : Port) (tag : Byte) (body : List Byte) (s : State) : Answer :=
  request .readConveyor p tag body s

/-- SET_ROW (R2). -/
def execSetRow (p : Port) (tag : Byte) (body : List Byte) (s : State) : Answer :=
  request .setRow p tag body s

/-- SET_MENU (R4). -/
def execSetMenu (p : Port) (tag : Byte) (body : List Byte) (s : State) : Answer :=
  request .setMenu p tag body s

/-- SET_PERIOD (R6). -/
def execSetPeriod (p : Port) (tag : Byte) (body : List Byte) (s : State) : Answer :=
  request .setPeriod p tag body s

/-- SET_CLOCK (R5). -/
def execSetClock (p : Port) (tag : Byte) (body : List Byte) (s : State) : Answer :=
  request .setClock p tag body s

/-- SET_TIMING (R68). -/
def execSetTiming (p : Port) (tag : Byte) (body : List Byte) (s : State) : Answer :=
  request .setTiming p tag body s

/-- SET_SPEED_STEPS (R86). -/
def execSetSpeedSteps (p : Port) (tag : Byte) (body : List Byte) (s : State) : Answer :=
  request .setSpeedSteps p tag body s

/-- SET_STATION (R114). -/
def execSetStation (p : Port) (tag : Byte) (body : List Byte) (s : State) : Answer :=
  request .setStation p tag body s

/-- SET_GEOMETRY (R96). -/
def execSetGeometry (p : Port) (tag : Byte) (body : List Byte) (s : State) : Answer :=
  request .setGeometry p tag body s

/-- LOAD_MEMBER (R28). -/
def execLoadMember (p : Port) (tag : Byte) (body : List Byte) (s : State) : Answer :=
  request .loadMember p tag body s

/-- DROP_MEMBER (R30). -/
def execDropMember (p : Port) (tag : Byte) (body : List Byte) (s : State) : Answer :=
  request .dropMember p tag body s

/-- NO_MEMBER (R37). -/
def execNoMember (p : Port) (tag : Byte) (body : List Byte) (s : State) : Answer :=
  request .noMember p tag body s

/-- SET_WIRED (R27). -/
def execSetWired (p : Port) (tag : Byte) (body : List Byte) (s : State) : Answer :=
  request .setWired p tag body s

/-- READ_MEMBERS (R31). -/
def execReadMembers (p : Port) (tag : Byte) (body : List Byte) (s : State) : Answer :=
  request .readMembers p tag body s

/-- READ_CREDITS (R42). -/
def execReadCredits (p : Port) (tag : Byte) (body : List Byte) (s : State) : Answer :=
  request .readCredits p tag body s

/-- DROP_CREDIT (R42). -/
def execDropCredit (p : Port) (tag : Byte) (body : List Byte) (s : State) : Answer :=
  request .dropCredit p tag body s

/-- READ_TOTALS (R24). -/
def execReadTotals (p : Port) (tag : Byte) (body : List Byte) (s : State) : Answer :=
  request .readTotals p tag body s

/-- CLEAR_TOTALS (R24). -/
def execClearTotals (p : Port) (tag : Byte) (body : List Byte) (s : State) : Answer :=
  request .clearTotals p tag body s

/-- OPEN (R160). -/
def execOpenTunnel (p : Port) (tag : Byte) (body : List Byte) (s : State) : Answer :=
  request .openTunnel p tag body s

/-- CLOSE (R161). -/
def execClose (p : Port) (tag : Byte) (body : List Byte) (s : State) : Answer :=
  request .close p tag body s

/-- SAVE (R169). -/
def execSave (p : Port) (tag : Byte) (body : List Byte) (s : State) : Answer :=
  request .save p tag body s

/-- UNKNOWN_REQUEST_KIND (R180): a complete frame of a kind that the directory does not know. -/
def execUnknownRequestKind (p : Port) (kind tag : Byte) (body : List Byte) (s : State) : Answer :=
  done (receiveFrame p ⟨kind, tag, body⟩ s)

end Sys2Proof.Machine
end

