-- ==== Sys2Proof/Machine/Dispatch.lean ====
section
/-!
DEFINITION. The meaning of every command: one arm for each constructor of Instr.
-/

namespace Sys2Proof.Machine

/-- What a command does to everything but the queue (spec/95_what_each_step_holds.md). -/
def exec (i : Instr) (s : State) : Host.Outcome State Fault Refusal :=
  match i with
  | .readStatus p tg body => Sys2Proof.Machine.execReadStatus p tg body s
  | .takeNotice p tg body => Sys2Proof.Machine.execTakeNotice p tg body s
  | .setMask p tg body => Sys2Proof.Machine.execSetMask p tg body s
  | .readTicket p tg body => Sys2Proof.Machine.execReadTicket p tg body s
  | .quote p tg body => Sys2Proof.Machine.execQuote p tg body s
  | .pay p tg body => Sys2Proof.Machine.execPay p tg body s
  | .cancel p tg body => Sys2Proof.Machine.execCancel p tg body s
  | .tag p tg body => Sys2Proof.Machine.execTag p tg body s
  | .redeem p tg body => Sys2Proof.Machine.execRedeem p tg body s
  | .laneStatus p tg body => Sys2Proof.Machine.execLaneStatus p tg body s
  | .halt p tg body => Sys2Proof.Machine.execHalt p tg body s
  | .resume p tg body => Sys2Proof.Machine.execResume p tg body s
  | .confirmRoster p tg body => Sys2Proof.Machine.execConfirmRoster p tg body s
  | .removeCar p tg body => Sys2Proof.Machine.execRemoveCar p tg body s
  | .retry p tg rest => Sys2Proof.Machine.execRetry p tg rest s
  | .wave p tg rest => Sys2Proof.Machine.execWave p tg rest s
  | .sell p tg rest => Sys2Proof.Machine.execSell p tg rest s
  | .remove p tg rest => Sys2Proof.Machine.execRemove p tg rest s
  | .place p tg body => Sys2Proof.Machine.execPlace p tg body s
  | .jog p tg body => Sys2Proof.Machine.execJog p tg body s
  | .jogStop p tg body => Sys2Proof.Machine.execJogStop p tg body s
  | .readRoster p tg body => Sys2Proof.Machine.execReadRoster p tg body s
  | .readHaltHistory p tg body => Sys2Proof.Machine.execReadHaltHistory p tg body s
  | .readStation p tg body => Sys2Proof.Machine.execReadStation p tg body s
  | .readConveyor p tg body => Sys2Proof.Machine.execReadConveyor p tg body s
  | .setRow p tg body => Sys2Proof.Machine.execSetRow p tg body s
  | .setMenu p tg body => Sys2Proof.Machine.execSetMenu p tg body s
  | .setPeriod p tg body => Sys2Proof.Machine.execSetPeriod p tg body s
  | .setClock p tg body => Sys2Proof.Machine.execSetClock p tg body s
  | .setTiming p tg body => Sys2Proof.Machine.execSetTiming p tg body s
  | .setSpeedSteps p tg body => Sys2Proof.Machine.execSetSpeedSteps p tg body s
  | .setStation p tg body => Sys2Proof.Machine.execSetStation p tg body s
  | .setGeometry p tg body => Sys2Proof.Machine.execSetGeometry p tg body s
  | .loadMember p tg body => Sys2Proof.Machine.execLoadMember p tg body s
  | .dropMember p tg body => Sys2Proof.Machine.execDropMember p tg body s
  | .noMember p tg body => Sys2Proof.Machine.execNoMember p tg body s
  | .setWired p tg body => Sys2Proof.Machine.execSetWired p tg body s
  | .readMembers p tg body => Sys2Proof.Machine.execReadMembers p tg body s
  | .readCredits p tg body => Sys2Proof.Machine.execReadCredits p tg body s
  | .dropCredit p tg body => Sys2Proof.Machine.execDropCredit p tg body s
  | .readTotals p tg body => Sys2Proof.Machine.execReadTotals p tg body s
  | .clearTotals p tg body => Sys2Proof.Machine.execClearTotals p tg body s
  | .openTunnel p tg body => Sys2Proof.Machine.execOpenTunnel p tg body s
  | .close p tg body => Sys2Proof.Machine.execClose p tg body s
  | .save p tg body => Sys2Proof.Machine.execSave p tg body s
  | .unknownRequestKind p kind tg body => Sys2Proof.Machine.execUnknownRequestKind p kind tg body s
  | .frameHeld p kind tg body => Sys2Proof.Machine.execFrameHeld p kind tg body s
  | .frameDiscarded p => Sys2Proof.Machine.execFrameDiscarded p s
  | .framingError p => Sys2Proof.Machine.execFramingError p s
  | .gapTimerExpiry p => Sys2Proof.Machine.execGapTimerExpiry p s
  | .replySent p => Sys2Proof.Machine.execReplySent p s
  | .portReset p => Sys2Proof.Machine.execPortReset p s
  | .deviceReset => Sys2Proof.Machine.execDeviceReset s
  | .minuteTimerExpiry => Sys2Proof.Machine.execMinuteTimerExpiry s
  | .pendingTimerExpiry l => Sys2Proof.Machine.execPendingTimerExpiry l s
  | .lookupTimerExpiry l => Sys2Proof.Machine.execLookupTimerExpiry l s
  | .laneExitEyeBreak l => Sys2Proof.Machine.execLaneExitEyeBreak l s
  | .offer => Sys2Proof.Machine.execOffer s
  | .offerTimerExpiry => Sys2Proof.Machine.execOfferTimerExpiry s
  | .tireSwitchCloses => Sys2Proof.Machine.execTireSwitchCloses s
  | .rollerUpTimerExpiry => Sys2Proof.Machine.execRollerUpTimerExpiry s
  | .loadDistancePassed => Sys2Proof.Machine.execLoadDistancePassed s
  | .entryEyeBreak => Sys2Proof.Machine.execEntryEyeBreak s
  | .entryEyeRestore => Sys2Proof.Machine.execEntryEyeRestore s
  | .settleReached => Sys2Proof.Machine.execSettleReached s
  | .maxLenReached => Sys2Proof.Machine.execMaxLenReached s
  | .heightEyeBreak => Sys2Proof.Machine.execHeightEyeBreak s
  | .widthEyeBreak => Sys2Proof.Machine.execWidthEyeBreak s
  | .encoderPulse elapsed => Sys2Proof.Machine.execEncoderPulse elapsed s
  | .checkpointEyeBreak k => Sys2Proof.Machine.execCheckpointEyeBreak k s
  | .checkpointEyeRestore k => Sys2Proof.Machine.execCheckpointEyeRestore k s
  | .exitEyeBreak => Sys2Proof.Machine.execExitEyeBreak s
  | .exitEyeRestore => Sys2Proof.Machine.execExitEyeRestore s
  | .warnTimerExpiry => Sys2Proof.Machine.execWarnTimerExpiry s
  | .atRestTimerExpiry => Sys2Proof.Machine.execAtRestTimerExpiry s
  | .stallTimerExpiry => Sys2Proof.Machine.execStallTimerExpiry s
  | .parkTimerExpiry => Sys2Proof.Machine.execParkTimerExpiry s
  | .safetyChainOpens => Sys2Proof.Machine.execSafetyChainOpens s
  | .safetyChainCloses => Sys2Proof.Machine.execSafetyChainCloses s
  | .driveFaultActive => Sys2Proof.Machine.execDriveFaultActive s
  | .relayReadbackChange energised => Sys2Proof.Machine.execRelayReadbackChange energised s
  | .mismatchTimerExpiry => Sys2Proof.Machine.execMismatchTimerExpiry s
  | .drainEnd => Sys2Proof.Machine.execDrainEnd s
  | .stowedSwitchOpens c => Sys2Proof.Machine.execStowedSwitchOpens c s
  | .stowedSwitchCloses c => Sys2Proof.Machine.execStowedSwitchCloses c s
  | .advanceTimerExpiry j => Sys2Proof.Machine.execAdvanceTimerExpiry j s
  | .withdrawTimerExpiry j => Sys2Proof.Machine.execWithdrawTimerExpiry j s
  | .motorCurrentSample c counts => Sys2Proof.Machine.execMotorCurrentSample c counts s
  | .tripCountReached j => Sys2Proof.Machine.execTripCountReached j s
  | .jogTimerExpiry => Sys2Proof.Machine.execJogTimerExpiry s
  | .rowWriteComplete agrees => Sys2Proof.Machine.execRowWriteComplete agrees s
  | .byteReceived p b => Sys2Proof.Machine.execByteReceived p b s
  | .receiveLineHigh p => Sys2Proof.Machine.execReceiveLineHigh p s
  | .driveFaultInactive => Sys2Proof.Machine.execDriveFaultInactive s
  | .tireSwitchOpens => Sys2Proof.Machine.execTireSwitchOpens s
  | .heightEyeRestore => Sys2Proof.Machine.execHeightEyeRestore s
  | .widthEyeRestore => Sys2Proof.Machine.execWidthEyeRestore s

end Sys2Proof.Machine
end

