-- ==== Sys2Proof/Safety.lean ====
section
/-!
DEFINITION. The words the statements are made of: a port that takes a frame at once, a request that
is answered, the bodies of the settings requests as R189 lays them out, running several commands, and
the invariants of the part.
-/

namespace Sys2Proof.Machine

/-! ## Requests and replies -/

/-- The port takes a complete frame at once (R178), and its line is not held low (R183). -/
abbrev State.takes (s : State) (p : Port) : Prop :=
  (s.port p).request = .free ∧ (s.port p).lineLow = false

/-- A request of a kind and tag has been carried out at port p with the effects of s: the reply with
a status and results is being sent (R178, R179), and the lines follow the records. -/
def answered (p : Port) (kind tag : Byte) (st : Status) (results : List Byte) (s : State) : Answer :=
  done (setRequest p (.replying ⟨kind + 0x80, tag, u8 st.code ++ results⟩) s)

/-- The frame that a command brings to a port, if it brings one (R175, R189): a GATE DECIDE row carries
its decision in front of the rest of its body. -/
def frameOf : Instr → Option (Port × Frame)
  | .readStatus p tag body => some (p, ⟨RequestKind.readStatus.code, tag, body⟩)
  | .takeNotice p tag body => some (p, ⟨RequestKind.takeNotice.code, tag, body⟩)
  | .setMask p tag body => some (p, ⟨RequestKind.setMask.code, tag, body⟩)
  | .readTicket p tag body => some (p, ⟨RequestKind.readTicket.code, tag, body⟩)
  | .quote p tag body => some (p, ⟨RequestKind.quote.code, tag, body⟩)
  | .pay p tag body => some (p, ⟨RequestKind.pay.code, tag, body⟩)
  | .cancel p tag body => some (p, ⟨RequestKind.cancel.code, tag, body⟩)
  | .tag p tag body => some (p, ⟨RequestKind.tag.code, tag, body⟩)
  | .redeem p tag body => some (p, ⟨RequestKind.redeem.code, tag, body⟩)
  | .laneStatus p tag body => some (p, ⟨RequestKind.laneStatus.code, tag, body⟩)
  | .halt p tag body => some (p, ⟨RequestKind.halt.code, tag, body⟩)
  | .resume p tag body => some (p, ⟨RequestKind.resume.code, tag, body⟩)
  | .confirmRoster p tag body => some (p, ⟨RequestKind.confirmRoster.code, tag, body⟩)
  | .removeCar p tag body => some (p, ⟨RequestKind.removeCar.code, tag, body⟩)
  | .place p tag body => some (p, ⟨RequestKind.place.code, tag, body⟩)
  | .jog p tag body => some (p, ⟨RequestKind.jog.code, tag, body⟩)
  | .jogStop p tag body => some (p, ⟨RequestKind.jogStop.code, tag, body⟩)
  | .readRoster p tag body => some (p, ⟨RequestKind.readRoster.code, tag, body⟩)
  | .readHaltHistory p tag body => some (p, ⟨RequestKind.readHaltHistory.code, tag, body⟩)
  | .readStation p tag body => some (p, ⟨RequestKind.readStation.code, tag, body⟩)
  | .readConveyor p tag body => some (p, ⟨RequestKind.readConveyor.code, tag, body⟩)
  | .setRow p tag body => some (p, ⟨RequestKind.setRow.code, tag, body⟩)
  | .setMenu p tag body => some (p, ⟨RequestKind.setMenu.code, tag, body⟩)
  | .setPeriod p tag body => some (p, ⟨RequestKind.setPeriod.code, tag, body⟩)
  | .setClock p tag body => some (p, ⟨RequestKind.setClock.code, tag, body⟩)
  | .setTiming p tag body => some (p, ⟨RequestKind.setTiming.code, tag, body⟩)
  | .setSpeedSteps p tag body => some (p, ⟨RequestKind.setSpeedSteps.code, tag, body⟩)
  | .setStation p tag body => some (p, ⟨RequestKind.setStation.code, tag, body⟩)
  | .setGeometry p tag body => some (p, ⟨RequestKind.setGeometry.code, tag, body⟩)
  | .loadMember p tag body => some (p, ⟨RequestKind.loadMember.code, tag, body⟩)
  | .dropMember p tag body => some (p, ⟨RequestKind.dropMember.code, tag, body⟩)
  | .noMember p tag body => some (p, ⟨RequestKind.noMember.code, tag, body⟩)
  | .setWired p tag body => some (p, ⟨RequestKind.setWired.code, tag, body⟩)
  | .readMembers p tag body => some (p, ⟨RequestKind.readMembers.code, tag, body⟩)
  | .readCredits p tag body => some (p, ⟨RequestKind.readCredits.code, tag, body⟩)
  | .dropCredit p tag body => some (p, ⟨RequestKind.dropCredit.code, tag, body⟩)
  | .readTotals p tag body => some (p, ⟨RequestKind.readTotals.code, tag, body⟩)
  | .clearTotals p tag body => some (p, ⟨RequestKind.clearTotals.code, tag, body⟩)
  | .openTunnel p tag body => some (p, ⟨RequestKind.openTunnel.code, tag, body⟩)
  | .close p tag body => some (p, ⟨RequestKind.close.code, tag, body⟩)
  | .save p tag body => some (p, ⟨RequestKind.save.code, tag, body⟩)
  | .retry p tag rest => some (p, ⟨RequestKind.gateDecide.code, tag, 0 :: rest⟩)
  | .wave p tag rest => some (p, ⟨RequestKind.gateDecide.code, tag, 1 :: rest⟩)
  | .sell p tag rest => some (p, ⟨RequestKind.gateDecide.code, tag, 2 :: rest⟩)
  | .remove p tag rest => some (p, ⟨RequestKind.gateDecide.code, tag, 3 :: rest⟩)
  | .unknownRequestKind p kind tag body | .frameHeld p kind tag body =>
    some (p, ⟨kind, tag, body⟩)
  | .frameDiscarded _ | .framingError _ | .gapTimerExpiry _ | .replySent _ | .portReset _
  | .byteReceived _ _ | .receiveLineHigh _
  | .deviceReset | .minuteTimerExpiry | .pendingTimerExpiry _ | .lookupTimerExpiry _
  | .laneExitEyeBreak _ | .offer | .offerTimerExpiry | .tireSwitchCloses
  | .rollerUpTimerExpiry | .loadDistancePassed | .entryEyeBreak | .entryEyeRestore
  | .settleReached | .maxLenReached | .heightEyeBreak | .widthEyeBreak | .encoderPulse _
  | .checkpointEyeBreak _ | .checkpointEyeRestore _ | .exitEyeBreak | .exitEyeRestore
  | .warnTimerExpiry | .atRestTimerExpiry | .stallTimerExpiry | .parkTimerExpiry
  | .safetyChainOpens | .safetyChainCloses | .driveFaultActive | .relayReadbackChange _
  | .mismatchTimerExpiry | .drainEnd | .stowedSwitchOpens _ | .stowedSwitchCloses _
  | .advanceTimerExpiry _ | .withdrawTimerExpiry _ | .motorCurrentSample _ _
  | .tripCountReached _ | .jogTimerExpiry | .rowWriteComplete _ | .driveFaultInactive
  | .tireSwitchOpens | .heightEyeRestore | .widthEyeRestore => none

/-- R12: a sale at lane i has a slot to take: it keeps a pending sale's of kind PAID, or at least 5 are
free, the one it would itself cancel counting as free. -/
abbrev State.hasSlot (s : State) (i : Lane) : Prop :=
  (s.keptTicket i).isSome = true ∨
    5 ≤ s.freeSlots + (if (s.saleSlot i).ticket?.isSome then 1 else 0)

/-- R15, R34: the number of the ticket that a new sale at lane i holds: that of a pending sale of kind
PAID, which keeps its number, or else the next number once what the slot holds is cancelled. -/
def State.saleNumber (s : State) (i : Lane) : Nat :=
  match s.keptTicket i with
  | some n => n
  | none =>
    match (s.saleSlot i).ticket? with
    | some t => (freeTicket t s).nextNumber
    | none => s.nextNumber

/-- A ticket number is in the table with a record. -/
def State.holds (s : State) (t : Ticket) : Prop := s.ticket? t.number = some t

/-! ## Request bodies (R189) -/

/-- R190: the number of a catalogue row kind. -/
def RowKind.number : RowKind → Nat
  | .plan => 0 | .addon => 1 | .member => 2

/-- R190: the number of a station kind. -/
def StationKind.number : StationKind → Nat
  | .switched => 0 | .arm => 1

/-- R190: the number of a member status. -/
def MemberStatus.number : MemberStatus → Nat
  | .active => 0 | .suspended => 1

/-- The body of SET ROW (R2); the order of its fields is log entry 29. -/
def rowBody (r : Row) (row : CatRow) : List Byte :=
  u8 r.val ++ u8 row.kind.number ++ flagByte row.active ++ u16 row.price ++ setBytes row.features ++
    u16 row.cap ++ flagByte row.discountable

/-- The body of SET PERIOD (R6). -/
def periodBody (k : Fin 4) (p : Period) : List Byte :=
  u8 k.val ++ u16 p.start ++ u16 p.stop ++ u8 p.discount

/-- The body of SET SPEED STEPS (R86). -/
def stepsBody (st : SpeedSteps) : List Byte :=
  u8 st.t1 ++ u8 st.t2 ++ u8 st.t3 ++ u16 st.speeds[0] ++ u16 st.speeds[1] ++ u16 st.speeds[2] ++
    u16 st.speeds[3]

/-- The body of SET TIMING, in the order of R166. -/
def timingBody (t : Timing) : List Byte :=
  u16 t.pendingTime ++ u16 t.memberInterval ++ u8 t.lookupTime ++ u16 t.offerTime ++
    u8 t.loadDistance ++ u8 t.settle ++ u16 t.minLen ++ u16 t.maxLen ++ u16 t.minGap ++
    u8 t.waveRow.val ++ u8 t.warnTime ++ u16 t.stallTime ++ u16 t.parkTime ++
    u16 t.nominalPeriod ++ u8 t.pitch

/-- The body of SET STATION, in the order of R113. -/
def stationBody (j : StationIx) (st : StationCfg) : List Byte :=
  u8 j.val ++ flagByte st.enabled ++ u8 st.kind.number ++ u16 st.offset ++ u8 st.pre ++
    u8 st.post ++ u16 st.latency ++ u8 st.leadMax ++ u8 st.feature.val ++
    u8 (bitAt st.exclTall 0 + bitAt st.exclWide 1) ++ u8 st.firstLine.val ++
    u8 st.secondLine.val ++ u8 st.channel.val ++ u16 st.advanceTime ++ u16 st.withdrawTimeout ++
    u16 st.tripLevel ++ u8 st.tripCount

/-- The body of SET GEOMETRY (R96, R189). -/
def geometryBody (g : Geometry) : List Byte :=
  u16 g.exitPos ++ u8 g.exitTol ++ u16 g.exitGuard ++ u8 g.checkpoints.length ++
    g.checkpoints.flatMap (fun c => u16 c.position ++ u8 c.tolerance)

/-- The body of LOAD MEMBER (R28). -/
def memberBody (a : LoadArgs) : List Byte :=
  u32 a.base.toNat ++ u8 a.order ++ u8 a.row.val ++ u8 a.status.number ++ flagByte a.wired

/-! ## Running several commands -/

/-- The commands of a list, one after the other. -/
def execAll : List Instr → State → Answer
  | [], s => .next s
  | c :: cs, s =>
    match exec c s with
    | .next t => execAll cs t
    | .fault f => .fault f
    | .refused r => .refused r

/-! ## Invariants -/

/-- R164, R185, R134 and the rules of each line: the lines and the published registers are what the
records give. -/
abbrev State.linesFollow (s : State) : Prop := s.out = outputsOf s

/-- R71 to R74: a conveyor that warns or runs has run demand. -/
abbrev State.runsOnDemand (s : State) : Prop :=
  s.conv.state = .warning ∨ s.conv.state = .running → s.runDemand = true

/-- R140: in RUNNING the cause set is empty, in HOLDING it holds EXIT_BLOCKED alone. -/
abbrev State.causesFit (s : State) : Prop :=
  (s.halt.state = .running → s.halt.causes = 0) ∧
    (s.halt.state = .holding → s.halt.causes = Set16.single Cause.exitBlocked.code)

/-- R143, R146: the history holds 1 to 4 records, its head is open exactly while the halt state is
HOLDING or STOPPED, and every older record is closed. -/
abbrev State.episodesFit (s : State) : Prop :=
  s.halt.history ≠ [] ∧ s.halt.history.length ≤ Config.historyMax ∧
    (∀ ep ∈ s.halt.history.head?, ep.closing = none ↔ s.halt.state ≠ .running) ∧
    ∀ ep ∈ s.halt.history.tail, ep.closing ≠ none

/-- R184: the pending notices of every port stand in strictly rising order of their kinds, so that
no kind stands twice. -/
def State.noticesFit (s : State) : Prop :=
  ∀ p : Port, (s.port p).notices.Pairwise (fun a b => a.kind < b.kind)

/-- R38: the credit list holds up to 32 credits. -/
abbrev State.creditsFit (s : State) : Prop := s.credits.length ≤ Config.creditMax

/-- R171: while a save is in progress the marker is not CLOSED. -/
abbrev State.markerFits (s : State) : Prop :=
  s.store.save ≠ none → s.store.marker ≠ .closed

/-! ## Invariants of the ticket, roster and member records -/

/-- R10: a ticket and the place that its state names: the number, the state, and the lane of a place
at a lane. -/
abbrev Standing := Nat × TicketState × Option Lane

/-- R10: what stands in a lane's sale slot. -/
def SaleSlot.stands (i : Lane) : SaleSlot → List Standing
  | .empty => []
  | .pending n _ _ _ => [(n, .pending, some i)]
  | .lookup n _ _ => [(n, .lookup, some i)]

/-- R10: every place of the part, with the ticket that stands in it: the sale slots, the lane queues,
the merge queue, the gate and the roster. -/
def State.places (s : State) : List Standing :=
  lanes.flatMap (fun i => (s.saleSlot i).stands i) ++
    lanes.flatMap (fun i => (s.laneQueue i).map (fun n => (n, .laneQueued, some i))) ++
    s.gate.merge.map (fun n => (n, .merged, none)) ++
    s.gate.atGate.toList.map (fun n => (n, .atGate, none)) ++
    s.track.roster.map (fun c => (c.ticket, .riding, none))

/-- R10: the place that a ticket's state names; those at a lane are its origin lane's. -/
def Ticket.stands (t : Ticket) : Standing :=
  (t.number, t.state,
    match t.state with
    | .pending | .lookup | .laneQueued =>
      match t.origin with
      | .lane i => some i
      | .console => none
    | .merged | .atGate | .riding => none)

/-- R10: every live ticket stands in exactly one place, the one its state names, and every place
holds a live ticket. -/
abbrev State.ticketsStand (s : State) : Prop := (s.tickets.map Ticket.stands).Perm s.places

/-- R11: no two live tickets and credits share a number, and the number 0 is never held. -/
abbrev State.numbersFit (s : State) : Prop :=
  (s.tickets.map (fun t => t.number) ++ s.credits.map (fun c => c.code)).Nodup ∧
    (∀ t ∈ s.tickets, t.number ≠ 0) ∧ ∀ c ∈ s.credits, c.code ≠ 0

/-- R50: the gate holds a ticket AT_GATE exactly in OFFER, in LOADING and in a hold for UNPAID or
OFFER_EXPIRED. -/
abbrev State.gateFits (s : State) : Prop :=
  s.gate.atGate.isSome = true ↔ s.gate.state = .offer ∨ s.gate.state = .loading ∨
    s.gate.state = .held .unpaid ∨ s.gate.state = .held .offerExpired

/-- R43, R47: a lane queue holds at most 4 tickets, with room for the one in the lane's sale slot; the
merge queue and the gate together hold at most 12. -/
abbrev State.queuesFit (s : State) : Prop :=
  (∀ i : Lane, (s.laneQueue i).length + ((s.saleSlot i).stands i).length ≤ 4) ∧
    s.gate.merge.length + s.gate.atGate.toList.length ≤ 12

/-- R90 to R92: up to 20 cars, in the order law: of two cars, the older one's front and rear lie above
the newer one's front. The newest car's length is absent exactly while the gate measures it. While the
gate offers or loads, the roster has room and the newest car's rear lies above the datum. -/
abbrev State.rosterFits (s : State) : Prop :=
  s.track.roster.Pairwise (fun a b => b.front < a.front ∧ (b.front : Int) < a.rear) ∧
    s.track.roster.length ≤ 20 ∧
    (s.gate.state = .measuring ↔ ∃ c, s.newestCar = some c ∧ c.length = none) ∧
    (s.gate.state = .offer ∨ s.gate.state = .loading →
      s.track.roster.length < 20 ∧ ∀ c, s.newestCar = some c → 0 < c.rear)

/-- R26: two member entries cover no common tag. -/
abbrev Apart (validA validB : Bool) (baseA baseB : Word32) (orderA orderB : Nat) : Prop :=
  validA = true → validB = true →
    baseA.toNat + 2 ^ orderA ≤ baseB.toNat ∨ baseB.toNat + 2 ^ orderB ≤ baseA.toNat

/-- R26: no two valid member entries cover a common tag. -/
def State.membersFit (s : State) : Prop :=
  ∀ j k : EntryIx, j ≠ k →
    Apart (s.entry j).valid (s.entry k).valid (s.entry j).base (s.entry k).base (s.entry j).order
      (s.entry k).order

/-- R68, R26: what the store or the copy of a save keeps fits: MinGap in its range, and no two valid
entries that cover a common tag. -/
abbrev StoredSettings.fits (x : StoredSettings) : Prop :=
  (10 ≤ x.site.timing.minGap ∧ x.site.timing.minGap ≤ 500) ∧
    x.wired.Pairwise (fun a b => Apart a.valid b.valid a.base b.base a.order b.order)

/-- R68, R166, R169: MinGap lies in its range, and what the store and a save's copy hold fits. -/
abbrev State.storedFits (s : State) : Prop :=
  (10 ≤ s.settings.timing.minGap ∧ s.settings.timing.minGap ≤ 500) ∧ s.store.image.fits ∧
    ∀ j, s.store.save = some j → j.copy.fits

/-- R10, R11, R26, R43, R47, R91: the ticket, roster and member records fit together. -/
def State.recordsFit (s : State) : Prop :=
  s.ticketsStand ∧ s.numbersFit ∧ s.gateFits ∧ s.queuesFit ∧ s.rosterFits ∧ s.membersFit ∧
    s.storedFits

end Sys2Proof.Machine
end

