-- ==== Sys2Proof/Certificates/Slice0/Obligations.lean ====
section
/-!
DEFINITION. The statements for the provers: what each command does, by the numbered rules of spec/, the
frame of the commands, and the invariants that every step keeps. OBLIGATIONS.json lists them.
-/

open Sys2Proof Sys2Proof.Machine

/-! ## The step and the machine as a whole -/

/-- The form of the step is the model's choice (log entry 1): the spec calls each step whole and
indivisible, and gives the part no queue. A step takes the command at the front of the queue, and is
what that command does to the part with the rest of the queue. -/
def Obligations.StepTakesTheFrontCommand : Prop :=
  ∀ (c : Instr) (rest : List Instr) (s : State),
    step { s with pending := c :: rest } = exec c { s with pending := rest }

/-- No command stops the part. That it leaves the queue alone is log entry 1, and that it ends with
every line and every published register following the records is log entry 17: both are the model's
choice of form. What each line then is: R185, a port's attention line is asserted exactly when its
pending set holds a kind that is not in its mask. R44: a lane signal is green in OPEN and DRAINING
while the merge queue holds fewer than 10. R53, R54, R69: the GO lamp is on in OFFER under RUNNING,
and the roller-up output while its timer runs with the chain closed, both outside LOCKOUT. R155: the
safety relay is commanded while the chain is closed outside LOCKOUT. R134: a station line takes the
value of an enabled station that names it, off with none; with the chain closed and outside LOCKOUT
the SWITCHED line and the ARM motor line are on while the station is jogged, and in RUNNING while a
car is ACTIVE or the arm is in ADVANCING or ENGAGED; the ARM advance line is on in ADVANCING and
ENGAGED, with no jog, outside STOPPED. -/
def Obligations.EveryCommandAnswersANextState : Prop :=
  ∀ (c : Instr) (s : State), ∃ t, exec c s = .next t ∧ t.pending = s.pending ∧ t.out = outputsOf t ∧
    (∀ p : Port, (t.out.attention[p.index] = true ↔
      ∃ n ∈ (t.port p).notices, (t.port p).mask.getLsbD n.kind = false)) ∧
    (∀ i : Lane, (t.out.laneGreen[i] = true ↔
      t.gate.merge.length < 10 ∧ (t.mode = .openMode ∨ t.mode = .draining))) ∧
    (t.out.goLamp = true ↔
      t.gate.state = .offer ∧ t.halt.state = .running ∧ t.mode ≠ .lockout) ∧
    (t.out.rollerUp = true ↔ (∃ left, t.gate.rollerTimer = .running left) ∧
      t.inputs.chainClosed = true ∧ t.mode ≠ .lockout) ∧
    (t.out.safetyRelay = true ↔ t.inputs.chainClosed = true ∧ t.mode ≠ .lockout) ∧
    let live : Prop := t.inputs.chainClosed = true ∧ t.mode ≠ .lockout
    let jogged (j : StationIx) : Prop := ∃ g, t.stn.jog = some g ∧ g.station = j
    let out (j : StationIx) : Prop := (t.station j).kind = .arm ∧
      ((t.machine j).arm = .advancing ∨ (t.machine j).arm = .engaged)
    let spraying (j : StationIx) : Prop := (t.station j).kind = .switched ∧
      ∃ x ∈ t.track.roster, x.status j = .active
    ∀ l : Line, (t.out.stationLines[l] = true ↔ live ∧ ∃ j : StationIx,
      (t.station j).enabled = true ∧
        (((t.station j).firstLine = l ∧
            (jogged j ∨ (t.halt.state = .running ∧ (spraying j ∨ out j)))) ∨
          ((t.station j).secondLine = l ∧ ¬ jogged j ∧ t.halt.state ≠ .stopped ∧ out j)))

/-- The model's choice (log entry 2): with no command waiting, a step lets 10 µs pass. Every running
timer counts down by one unit and nothing else changes but the instant. -/
def Obligations.EmptyQueueLetsTimePass : Prop :=
  ∀ s : State, s.pending = [] → ∃ t, step s = .next t ∧
    t.now = s.now + 1 ∧
    t.sales = { s.sales with minuteTimer := s.sales.minuteTimer.elapse 1
                             saleSlots := t.sales.saleSlots } ∧
    (∀ i : Lane, t.saleSlot i = (s.saleSlot i).elapse 1) ∧
    t.gate = { s.gate with offerTimer := s.gate.offerTimer.elapse 1
                           rollerTimer := s.gate.rollerTimer.elapse 1 } ∧
    t.conv = { s.conv with warnTimer := s.conv.warnTimer.elapse 1
                           restTimer := s.conv.restTimer.elapse 1
                           stallTimer := s.conv.stallTimer.elapse 1
                           parkTimer := s.conv.parkTimer.elapse 1 } ∧
    (∀ j : StationIx, t.machine j = { s.machine j with
      advanceTimer := (s.machine j).advanceTimer.elapse 1
      withdrawTimer := (s.machine j).withdrawTimer.elapse 1 }) ∧
    t.stn.jog = s.stn.jog.map (fun g => { g with timer := g.timer.elapse 1 }) ∧
    t.halt = { s.halt with mismatchTimer := s.halt.mismatchTimer.elapse 1 } ∧
    (∀ p : Port, t.port p = { s.port p with gapTimer := (s.port p).gapTimer.elapse 1 }) ∧
    t.settings = s.settings ∧ t.memb = s.memb ∧ t.credits = s.credits ∧ t.track = s.track ∧
    t.mode = s.mode ∧ t.store = s.store ∧ t.inputs = s.inputs ∧ t.out = s.out ∧
    t.free = s.free ∧ t.pending = []

/-- The state after the power-on of a part delivered new. The rules give these values for a BLANK
marker and a closed safety chain; that the chain reads closed at power-on is the model's choice (log
entry 7). -/
def Obligations.ResetGivesTheSpecsValues : Prop :=
  let s := State.reset
  s.mode = .setup ∧ s.store.blank = true ∧ s.store.torn = false ∧ s.store.save = none ∧
  s.halt.state = .stopped ∧ s.halt.causes = Set16.single Cause.powerUp.code ∧
  s.halt.history = [⟨1, .powerUp, 0, ⟨0, 0⟩, 0, .none, none⟩] ∧ s.halt.counter = 1 ∧
  s.conv.state = .stopped ∧ s.conv.parked = false ∧ s.conv.samples = [] ∧ s.conv.mark = none ∧
  s.conv.pulseTotal = 0 ∧ s.out.avgPeriod = 5000 ∧ s.out.speedReference = 0 ∧
  s.gate.state = .idle ∧ s.gate.atGate = none ∧ s.gate.merge = [] ∧ s.gate.mergeCheck = false ∧
  (∀ i : Lane, s.laneQueue i = [] ∧ s.saleSlot i = .empty ∧ s.sales.finished[i] = [] ∧
    s.settings.menus[i] = ⟨8, 0⟩) ∧
  s.track.roster = [] ∧ s.track.moved = false ∧ s.stn.jog = none ∧
  (∀ j : StationIx, s.station j = StationCfg.default ∧ s.machine j = ⟨.stowed, .stopped, .stopped,
    0, false⟩) ∧
  s.tickets = [] ∧ s.sales.lastNumber = 0 ∧ s.credits = [] ∧
  s.sales.clock = ⟨⟨0, 0⟩, true⟩ ∧ s.sales.minuteTimer = .running 6000000 ∧
  (∀ r : Row, s.row r = ⟨.plan, false, 0, Set16.single 0, 1000, false⟩ ∧
    s.sales.totals[r] = ⟨0, 0⟩) ∧
  (∀ k : Fin 4, s.settings.periods[k] = ⟨0, 0, 0⟩) ∧
  s.settings.geometry = ⟨3000, 10, 100, []⟩ ∧
  s.settings.wired = 0 ∧ s.memb.pointer = 0 ∧ (∀ k : EntryIx, (s.memb.entries[k]).valid = false) ∧
  (∀ p : Port, (s.port p).receiver = .hunting ∧ (s.port p).request = .free ∧
    (s.port p).held = none ∧ (s.port p).mask = 0 ∧ (s.port p).notices = [.halt .powerUp 1] ∧
    s.out.attention[p.index] = true) ∧
  s.out.safetyRelay = true ∧ s.out.conveyorRun = false ∧ s.out.horn = false ∧
  s.out.rollerUp = false ∧ s.out.goLamp = false ∧
  (∀ i : Lane, s.out.laneGreen[i] = false) ∧ (∀ l : Line, s.out.stationLines[l] = false)

/-! ## The link (spec/09_link_ports_and_notices.md) -/

/-- R180: when a port takes a request, the link judges it in this order, and the first test that
fails gives the reply: the kind is known, the port's class may issue it, the body length is allowed,
and LOCKOUT answers it. A request refused there changes nothing but the receiver that delivered it;
one that passes goes to the block that serves it. The last clause is the table of the body lengths
that R189 gives the kinds. -/
def Obligations.RequestsAreJudgedInOrder : Prop :=
  (∀ (c : Instr) (p : Port) (f : Frame) (s : State),
    frameOf c = some (p, f) → f.body.length ≤ 60 → s.takes p →
    (RequestKind.ofCode f.kind = none →
      exec c s = answered p f.kind f.tag .badRequest [] (hunt p s)) ∧
    ∀ k : RequestKind, RequestKind.ofCode f.kind = some k →
      (k.permitted p.cls = false →
        exec c s = answered p f.kind f.tag .notPermitted [] (hunt p s)) ∧
      (k.permitted p.cls = true → k.lengthOk f.body.length = false →
        exec c s = answered p f.kind f.tag .badRequest [] (hunt p s)) ∧
      (k.permitted p.cls = true → k.lengthOk f.body.length = true → s.mode = .lockout →
        k.lockoutAnswers = false →
        exec c s = answered p f.kind f.tag .locked [] (hunt p s)) ∧
      (k.permitted p.cls = true → k.lengthOk f.body.length = true →
        (s.mode ≠ .lockout ∨ k.lockoutAnswers = true) →
        exec c s = done (setRequest p
          (.replying (replyTo f (serve p k f.body (hunt p s)).1))
          (serve p k f.body (hunt p s)).2))) ∧
  (∀ (k : RequestKind) (n : Nat), k.lengthOk n = true ↔
    (n = 0 ∧ k ∈ [.readStatus, .takeNotice, .cancel, .laneStatus, .halt, .resume, .confirmRoster,
      .jogStop, .readHaltHistory, .readConveyor, .clearTotals, .openTunnel, .close, .save]) ∨
    (n = 1 ∧ k ∈ [.setWired, .readMembers, .readCredits, .readTotals, .readRoster,
      .readStation]) ∨
    (n = 2 ∧ k ∈ [.setMask, .readTicket, .redeem, .removeCar, .gateDecide, .place, .jog,
      .dropCredit]) ∨
    (n = 3 ∧ k = .setMenu) ∨
    (n = 4 ∧ k ∈ [.pay, .tag, .setClock, .dropMember, .noMember]) ∨
    (n = 6 ∧ k = .setPeriod) ∨ (n = 8 ∧ k = .loadMember) ∨ (n = 10 ∧ k = .setRow) ∨
    (n = 11 ∧ k = .setSpeedSteps) ∨ (n = 22 ∧ k = .setStation) ∨ (n = 24 ∧ k = .setTiming) ∨
    (1 ≤ n ∧ n ≤ 4 ∧ k = .quote) ∨ (k = .setGeometry ∧ ∃ m, m ≤ 4 ∧ n = 6 + 3 * m))

/-- R181: the class of each port, and the requests each class may issue; any other is answered
NOT_PERMITTED and changes nothing. A frame at a lane port reaches no sale slot, lane queue or
finished list but its own lane's. -/
def Obligations.PortClassesMayIssueTheirRequests : Prop :=
  (∀ i : Lane, (Port.lane i).cls = .lane) ∧ Port.console.cls = .console ∧ Port.site.cls = .site ∧
  (∀ (k : RequestKind) (cl : PortClass), k.permitted cl = true ↔
    k ∈ [.readStatus, .takeNotice, .setMask, .readTicket, .readRoster, .readHaltHistory,
      .readStation, .readConveyor] ∨
    (cl = .lane ∧ k ∈ [.quote, .pay, .cancel, .tag, .redeem, .laneStatus]) ∨
    ((cl = .console ∨ cl = .site) ∧ k = .halt) ∨
    (cl = .console ∧ k ∈ [.resume, .confirmRoster, .removeCar, .gateDecide, .place, .jog,
      .jogStop]) ∨
    (cl = .site ∧ k ∈ [.setRow, .setMenu, .setPeriod, .setClock, .setStation, .setGeometry,
      .setTiming, .setSpeedSteps, .loadMember, .dropMember, .noMember, .setWired, .readMembers,
      .readCredits, .dropCredit, .readTotals, .clearTotals, .openTunnel, .close, .save])) ∧
  (∀ (c : Instr) (p : Port) (f : Frame) (k : RequestKind) (s : State),
    frameOf c = some (p, f) → f.body.length ≤ 60 → s.takes p →
    RequestKind.ofCode f.kind = some k → k.permitted p.cls = false →
    exec c s = answered p f.kind f.tag .notPermitted [] (hunt p s)) ∧
  (∀ (c : Instr) (i l : Lane) (f : Frame) (s t : State),
    frameOf c = some (.lane i, f) → l ≠ i → exec c s = .next t →
    t.saleSlot l = s.saleSlot l ∧ t.laneQueue l = s.laneQueue l ∧
      t.sales.finished[l] = s.sales.finished[l])

/-- R182: in LOCKOUT the link answers READ STATUS, TAKE NOTICE, SET MASK and the reads as in any
other mode, and every other request that passes its first three tests LOCKED, changing nothing; so
too a request that was held across the entry to LOCKOUT, when it is taken. -/
def Obligations.LockoutAnswersTheReadsAlone : Prop :=
  let answers : List RequestKind := [.readStatus, .takeNotice, .setMask, .readTicket, .readRoster,
    .readHaltHistory, .readStation, .readConveyor, .laneStatus, .readMembers, .readCredits,
    .readTotals]
  (∀ (c : Instr) (p : Port) (f : Frame) (k : RequestKind) (s : State),
    frameOf c = some (p, f) → s.takes p → s.mode = .lockout →
    RequestKind.ofCode f.kind = some k → k.permitted p.cls = true →
    k.lengthOk f.body.length = true →
    (k ∈ answers → exec c s = done (setRequest p
      (.replying (replyTo f (serve p k f.body (hunt p s)).1)) (serve p k f.body (hunt p s)).2)) ∧
    (k ∉ answers → exec c s = answered p f.kind f.tag .locked [] (hunt p s))) ∧
  (∀ (p : Port) (r f : Frame) (k : RequestKind) (s : State),
    s.mode = .lockout → (s.port p).request = .replying r → (s.port p).held = some f →
    RequestKind.ofCode f.kind = some k → k.permitted p.cls = true →
    k.lengthOk f.body.length = true → k ∉ answers →
    exec (.replySent p) s = answered p f.kind f.tag .locked [] (setHeld p none s))

/-- R178: a complete frame at a port that is REPLYING is held when the holding buffer is empty and
discarded when it is not. When the last byte of a reply has been sent, the held frame leaves the
buffer and is taken, judged against the part as it is then, and with an empty buffer the port
becomes FREE. -/
def Obligations.FramesAreHeldWhileReplying : Prop :=
  (∀ (c : Instr) (p : Port) (f r : Frame) (s : State),
    frameOf c = some (p, f) → f.body.length ≤ 60 → (s.port p).lineLow = false →
    (s.port p).request = .replying r →
    ((s.port p).held = none → exec c s = done (s.setPort p { s.port p with
      receiver := .hunting, gapTimer := .stopped, held := some f })) ∧
    (∀ g, (s.port p).held = some g → exec c s = done (s.setPort p { s.port p with
      receiver := .hunting, gapTimer := .stopped }))) ∧
  (∀ (p : Port) (r f : Frame) (s : State),
    (s.port p).request = .replying r → (s.port p).held = some f →
    let u := s.setPort p { s.port p with held := none }
    exec (.replySent p) s =
      done (setRequest p (.replying (replyTo f (judge p f u).1)) (judge p f u).2)) ∧
  (∀ (p : Port) (r : Frame) (s : State),
    (s.port p).request = .replying r → (s.port p).held = none →
    exec (.replySent p) s = done (s.setPort p { s.port p with request := .free }))

/-- R174, R175, R177: in HUNTING the byte 0xC3 starts a frame and any other byte is discarded. In
RECEIVING a byte joins the frame and the gap timer starts again from 20 ms; a LENGTH outside 2 to 62
ends it at once; at the second check byte the frame is complete when the check agrees and discarded
when it does not. A port whose line is held low takes no bytes. A byte with a framing error, the gap
timer's expiry and a bad frame leave the receiver HUNTING. -/
def Obligations.ReceiverBuildsFrames : Prop :=
  ∀ (p : Port) (b : Byte) (s : State),
    exec (.framingError p) s = done (hunt p s) ∧
    exec (.frameDiscarded p) s = done (hunt p s) ∧
    (∀ n, (s.port p).gapTimer = .running n → exec (.gapTimerExpiry p) s = done (hunt p s)) ∧
    hunt p s = s.setPort p { s.port p with receiver := .hunting, gapTimer := .stopped } ∧
    ((s.port p).lineLow = true → exec (.byteReceived p b) s = done s) ∧
    ((s.port p).lineLow = false → (s.port p).receiver = .hunting →
      (b = 0xC3 → exec (.byteReceived p b) s = done (s.setPort p { s.port p with
        receiver := .receiving [b], gapTimer := .running 2000 })) ∧
      (b ≠ 0xC3 → exec (.byteReceived p b) s = done s)) ∧
    (∀ bytes : List Byte, (s.port p).lineLow = false → (s.port p).receiver = .receiving bytes →
      bytes.length = 1 →
      ((2 ≤ b.toNat ∧ b.toNat ≤ 62) → exec (.byteReceived p b) s = done (s.setPort p { s.port p with
        receiver := .receiving (bytes ++ [b]), gapTimer := .running 2000 })) ∧
      (¬ (2 ≤ b.toNat ∧ b.toNat ≤ 62) → exec (.byteReceived p b) s = done (hunt p s))) ∧
    (∀ (len : Byte) (rest : List Byte), (s.port p).lineLow = false →
      (s.port p).receiver = .receiving (0xC3 :: len :: rest) → 2 ≤ len.toNat → len.toNat ≤ 62 →
      (rest.length + 1 < len.toNat + 2 → exec (.byteReceived p b) s = done (s.setPort p
        { s.port p with
          receiver := .receiving (0xC3 :: len :: rest ++ [b]), gapTimer := .running 2000 })) ∧
      (∀ kind tag body hi lo, rest ++ [b] = kind :: tag :: (body ++ [hi, lo]) →
        body.length + 2 = len.toNat →
        ([hi, lo] = u16 (crc (len :: kind :: tag :: body)).toNat →
          exec (.byteReceived p b) s = done (receiveFrame p ⟨kind, tag, body⟩ s)) ∧
        ([hi, lo] ≠ u16 (crc (len :: kind :: tag :: body)).toNat →
          exec (.byteReceived p b) s = done (hunt p s))))

/-- R175, R176, R188: the bytes of a frame of up to 60 body bytes, received one after the other at a
port that is HUNTING, do exactly what the arrival of the frame does: no bit of the layout or the
check is dropped on the way. The bytes are the start byte 0xC3, LENGTH, KIND, TAG, BODY and the
check over LENGTH to BODY, most significant byte first. R176: the check starts at 0xFFFF; for each
bit of a byte, the most significant first, the register is shifted up, and combined with 0x1021 by
exclusive-or when its top bit and the bit differed; over the bytes 0x31 to 0x39 it is 0x29B1. -/
def Obligations.BytesOnTheLineMakeTheFrame : Prop :=
  (∀ (p : Port) (f : Frame) (s : State),
    f.body.length ≤ 60 → (s.port p).receiver = .hunting → (s.port p).lineLow = false →
    s.linesFollow →
    execAll (f.wire.map (Instr.byteReceived p)) s = done (receiveFrame p f s)) ∧
  (∀ f : Frame,
    let covered : List Byte :=
      BitVec.ofNat 8 (f.body.length + 2) :: f.kind :: f.tag :: f.body
    f.wire = 0xC3 :: (covered ++ u16 (crc covered).toNat)) ∧
  crc [] = 0xFFFF ∧
  (∀ (bytes : List Byte) (x : Byte),
    let shift (r : BitVec 16) (k : Nat) : BitVec 16 :=
      if r.getLsbD 15 = x.getLsbD k then r <<< 1 else (r <<< 1) ^^^ 0x1021
    crc (bytes ++ [x]) = [7, 6, 5, 4, 3, 2, 1, 0].foldl shift (crc bytes)) ∧
  crc [0x31, 0x32, 0x33, 0x34, 0x35, 0x36, 0x37, 0x38, 0x39] = 0x29B1

/-- R183, R19: a port reset drops the partial and the held frame, empties the pending set and the
mask and so releases the attention line, and on a lane port cancels the lane's sale slot, whose
ticket leaves the table. A reply being sent goes on. While the line stays low no second reset
occurs; when it goes high the port receives again. -/
def Obligations.PortResetClearsThePort : Prop :=
  (∀ (p : Port) (s : State), (s.port p).lineLow = false →
    let x : PortState := { s.port p with receiver := .hunting, gapTimer := .stopped, held := none
                                         notices := [], mask := 0, lineLow := true }
    (p = .console ∨ p = .site → exec (.portReset p) s = done (s.setPort p x)) ∧
    (∀ i : Lane, p = .lane i → s.mode ≠ .draining → exec (.portReset p) s =
      done (match (s.saleSlot i).ticket? with
        | none => s.setPort p x
        | some n => setSaleSlot i .empty (freeTicket n (s.setPort p x)))) ∧
    (∀ i : Lane, p = .lane i → ∃ t, exec (.portReset p) s = .next t ∧ t.port p = x ∧
      t.out.attention[p.index] = false ∧
      (∀ n, (s.saleSlot i).ticket? = some n → t.saleSlot i = .empty ∧ t.ticket? n = none) ∧
      t.gate = s.gate ∧ t.sales.finished = s.sales.finished ∧ t.settings = s.settings ∧
      t.halt = s.halt ∧ t.store = s.store)) ∧
  (∀ (p : Port) (s : State), (s.port p).lineLow = true → exec (.portReset p) s = done s) ∧
  (∀ (p : Port) (s : State),
    exec (.receiveLineHigh p) s = done (s.setPort p { s.port p with lineLow := false }))

/-- R186: TAKE NOTICE takes the unmasked pending notice of the lowest priority number: it leaves the
pending set, and the reply is OK with the kind, its data and the number of unmasked kinds left; the
attention line stays asserted exactly when that number is above 0. With none the reply is OK with
kind NONE, no data and a count of 0, and nothing leaves the set. R184: a notice raised to a port
joins its pending set; a kind that is pending already stays once and takes the new data; every other
pending notice stays, and so does every other port. A notice for all ports does so at each. -/
def Obligations.NoticesAreRaisedAndTaken : Prop :=
  (∀ (p : Port) (tag : Byte) (s : State), s.takes p → s.noticesFit →
     ((s.port p).unmasked = [] →
       exec (.takeNotice p tag []) s = answered p 0x02 tag .ok (u8 0 ++ u8 0) (hunt p s)) ∧
     (∀ n ∈ (s.port p).unmasked, (∀ m ∈ (s.port p).unmasked, n.kind ≤ m.kind) →
       let u := (hunt p s).setPort p { (hunt p s).port p with
         notices := (s.port p).notices.filter (fun m => m.kind ≠ n.kind) }
       exec (.takeNotice p tag []) s = answered p 0x02 tag .ok
         (u8 n.kind ++ n.data ++ u8 ((s.port p).unmasked.length - 1)) u ∧
       ∀ t, exec (.takeNotice p tag []) s = .next t →
         (t.out.attention[p.index] = true ↔ 1 < (s.port p).unmasked.length))) ∧
  ((∀ (p : Port) (n : Notice) (s : State), s.noticesFit →
     (∀ m, m ∈ ((raiseTo p n s).port p).notices ↔
       m = n ∨ (m ∈ (s.port p).notices ∧ m.kind ≠ n.kind)) ∧
     (∀ q, q ≠ p → (raiseTo p n s).port q = s.port q) ∧
     (raiseTo p n s).noticesFit) ∧
   (∀ (n : Notice) (s : State) (p : Port), s.noticesFit →
     ∀ m, m ∈ ((raiseAll n s).port p).notices ↔
       m = n ∨ (m ∈ (s.port p).notices ∧ m.kind ≠ n.kind)))

/-- R187: SET MASK makes a set of known kinds (1 to 12) the port's mask, and answers OK with the
mask stored and the pending set, masked kinds included; a set that names another kind is refused
OUT_OF_RANGE and the mask stays. The attention line follows at once. At a port reset and at device
reset the mask is empty. -/
def Obligations.SetMaskReplacesTheMask : Prop :=
  (∀ (p : Port) (tag : Byte) (m : Set16) (s : State), s.takes p →
    ((∀ k, m.getLsbD k = true → 1 ≤ k ∧ k ≤ 12) →
      exec (.setMask p tag (setBytes m)) s = answered p 0x03 tag .ok
        (setBytes m ++ setBytes (s.port p).pendingSet)
        ((hunt p s).setPort p { (hunt p s).port p with mask := m }) ∧
      ∀ t, exec (.setMask p tag (setBytes m)) s = .next t →
        (t.out.attention[p.index] = true ↔
          ∃ n ∈ (s.port p).notices, m.getLsbD n.kind = false)) ∧
    ((∃ k, m.getLsbD k = true ∧ ¬ (1 ≤ k ∧ k ≤ 12)) →
      exec (.setMask p tag (setBytes m)) s = answered p 0x03 tag .outOfRange [] (hunt p s))) ∧
  (∀ (p : Port) (s : State) (k : Fin 16),
    (s.port p).pendingSet.getLsbD k.val = true ↔ ∃ n ∈ (s.port p).notices, n.kind = k.val) ∧
  (∀ (p : Port) (s t : State), (s.port p).lineLow = false → exec (.portReset p) s = .next t →
    (t.port p).mask = 0) ∧
  (∀ (p : Port) (s t : State), exec .deviceReset s = .next t → (t.port p).mask = 0)

/-! ## Reads and the layout of the records (spec/10_formats_and_codes.md) -/

/-- R173, R25, R112, R82, R148, R137, R31, R42, R24: what the reads answer, in any mode, LOCKOUT
included: READ STATUS, READ TICKET, READ ROSTER, READ CONVEYOR, READ HALT HISTORY and READ STATION
at any port, READ MEMBERS, READ CREDITS and READ TOTALS at the site port, LANE STATUS at a lane
port, in the layouts of R189 and R193 to R196. They change nothing but the receiver that delivered
them. An index beyond its table is refused. Three points are the model's own: the byte layout of
READ STATUS, the count byte of READ TOTALS and the line byte of a disabled station are log entry 23,
and the rounding of a timer's milliseconds in the record of a station is log entry 16. -/
def Obligations.ReadsAnswerTheRecords : Prop :=
  (∀ (p : Port) (tag : Byte) (s : State), s.takes p →
    exec (.readStatus p tag []) s = answered p 0x01 tag .ok
      (u8 s.mode.code ++ u8 s.halt.state.code ++ u8 s.conv.state.code ++ flagByte s.track.moved ++
        flagByte s.store.torn ++ flagByte s.store.blank ++ flagByte s.store.save.isSome ++
        u16 s.sales.clock.stamp.day ++ u16 s.sales.clock.stamp.minute ++
        flagByte s.sales.clock.unset ++
        (if s.mode = .draining then u8 s.drainFailing.length ++ s.drainFailing.flatMap u8
         else u8 0)) (hunt p s) ∧
    (∀ n : Nat, n < 65536 →
      (∀ t, s.ticket? n = some t → exec (.readTicket p tag (u16 n)) s =
        answered p 0x04 tag .ok (ticketBytes t) (hunt p s)) ∧
      (s.ticket? n = none → exec (.readTicket p tag (u16 n)) s =
        answered p 0x04 tag .notFound [] (hunt p s))) ∧
    (∀ k : Nat, k < 256 →
      (∀ c, s.track.roster[k]? = some c → exec (.readRoster p tag (u8 k)) s =
        answered p 0x30 tag .ok (u8 s.track.roster.length ++ u8 k ++ carBytes c) (hunt p s)) ∧
      (s.track.roster.length ≤ k → exec (.readRoster p tag (u8 k)) s =
        answered p 0x30 tag .notFound [] (hunt p s))) ∧
    exec (.readConveyor p tag []) s = answered p 0x33 tag .ok
      (u8 s.conv.state.code ++ flagByte s.conv.parked ++ u8 s.conv.samples.length ++
        s.conv.samples.flatMap u16 ++ u16 s.avgPeriod ++
        u32 (if s.conv.state = .stopped then 0
             else s.settings.timing.pitch * 100000 / s.avgPeriod) ++
        u32 s.conv.pulseTotal.toNat ++ u8 s.depth ++ u8 s.speedStep.val ++ u16 s.speedReference)
      (hunt p s) ∧
    exec (.readHaltHistory p tag []) s = answered p 0x31 tag .ok
      (u8 (s.halt.state.code + (s.halt.history.length - 1) * 4 + bitAt s.track.moved 4 +
          bitAt s.inputs.chainClosed 5 + bitAt s.relayCommand 6 + bitAt s.inputs.readback 7) ++
        setBytes s.halt.causes ++ s.halt.history.flatMap episodeBytes) (hunt p s)) ∧
  (∀ (p : Port) (tag : Byte) (k : Nat) (s : State), s.takes p → k < 256 →
    (∀ j : StationIx, j.val = k → exec (.readStation p tag (u8 k)) s =
      answered p 0x32 tag .ok (stationBytes j s) (hunt p s)) ∧
    (24 ≤ k → exec (.readStation p tag (u8 k)) s =
      answered p 0x32 tag .outOfRange [] (hunt p s))) ∧
  (∀ (tag : Byte) (k : Nat) (s : State), s.takes .site → k < 256 →
    (k < 48 → exec (.readMembers .site tag (u8 k)) s = answered .site 0x54 tag .ok
      (u8 s.settings.wired ++ u8 s.memb.pointer.val ++ u8 k ++ u8 (min 4 (48 - k)) ++
        ((entryIxs.drop k).take 4).flatMap (fun j => entryBytes j (s.entry j))) (hunt .site s)) ∧
    (48 ≤ k → exec (.readMembers .site tag (u8 k)) s =
      answered .site 0x54 tag .outOfRange [] (hunt .site s)) ∧
    (k < 32 → exec (.readCredits .site tag (u8 k)) s = answered .site 0x58 tag .ok
      (u8 s.credits.length ++ u8 k ++ u8 (min 4 (s.credits.length - k)) ++
        ((s.credits.drop k).take 4).flatMap (creditBytes s)) (hunt .site s)) ∧
    (32 ≤ k → exec (.readCredits .site tag (u8 k)) s =
      answered .site 0x58 tag .outOfRange [] (hunt .site s)) ∧
    (k < 32 → exec (.readTotals .site tag (u8 k)) s = answered .site 0x5C tag .ok
      (u8 k ++ u8 (min 8 (32 - k)) ++ ((s.sales.totals.toList.drop k).take 8).flatMap
        (fun t => u16 t.count ++ u32 t.value)) (hunt .site s)) ∧
    (32 ≤ k → exec (.readTotals .site tag (u8 k)) s =
      answered .site 0x5C tag .outOfRange [] (hunt .site s))) ∧
  (∀ (i : Lane) (tag : Byte) (s : State), s.takes (.lane i) →
    exec (.laneStatus (.lane i) tag []) s = answered (.lane i) 0x15 tag .ok
      (saleSlotBytes s (s.saleSlot i) ++ u8 (s.laneQueue i).length ++ (s.laneQueue i).flatMap u16 ++
        u8 (s.sales.finished[i]).length ++ (s.sales.finished[i]).flatMap finishedBytes)
      (hunt (.lane i) s))

/-- R193 to R196: the length of every record, and where every field of it lies, absent fields
reading as the rules say. The station record shows at byte 25 the output of a SWITCHED station, at
word 29 the remaining time of an ARM station's advance timer, or of its withdraw timer while the
advance timer is stopped, running or paused, and at word 33 that of a jog of the station; the sale
slot of LANE STATUS takes 6 bytes, all 0 when it is empty. That remaining times are whole
milliseconds rounded down is log entry 16, and that the output of a disabled SWITCHED station reads
0 is log entry 23: both are the model's choice. R191: the number and the data of every notice, the
store result of STORE_DONE among them (0 OK, 1 FAULT). R190: the numbers of the status codes, the
causes and the enumerations; those of the sale slots stand in the sale slot's bytes, those of the
subject kinds, the eyes and the episode ends in the episode record, and those of the gate decisions
in front of the rest of a GATE DECIDE body. -/
def Obligations.RecordsHaveTheirLayout : Prop :=
  let bit (b : Bool) (k : Nat) : Nat := if b = true then 2 ^ k else 0
  let stamp (b : List Byte) (i : Nat) (x : Option Stamp) : Prop :=
    match x with
    | none => wordAt b i = 65535 ∧ wordAt b (i + 2) = 65535
    | some m => m.day < 65536 → m.minute < 65536 → wordAt b i = m.day ∧ wordAt b (i + 2) = m.minute
  let rowOf (r : Option Row) : Nat := (r.getD 0).val
  let ms (x : Timer) : Nat := match x with
    | .running n => n / 100
    | .paused n => n / 100
    | .stopped => 0
  (∀ t : Ticket, t.number < 65536 → t.price < 65536 → t.cap < 65536 → t.addOns.length ≤ 3 →
    t.credit.getD 0 < 65536 → let b := ticketBytes t
    b.length = 27 ∧ wordAt b 0 = t.number ∧
    byteAt b 2 = t.kind.code ∧ byteAt b 3 = t.state.code ∧
    byteAt b 4 = bit t.baseRow.isSome 0 + bit t.receipt.isSome 1 + bit t.tag.isSome 2 +
      bit t.credit.isSome 3 ∧
    byteAt b 5 = rowOf t.baseRow ∧ byteAt b 6 = t.addOns.length ∧
    (∀ k, k < 3 → byteAt b (7 + k) = rowOf t.addOns[k]?) ∧
    wordAt b 10 = t.features.toNat ∧ wordAt b 12 = t.cap ∧
    wordAt b 14 = t.price ∧ byteAt b 16 = t.origin.code ∧ longAt b 17 = t.receipt.getD 0 ∧
    longAt b 21 = t.tag.getD 0 ∧ wordAt b 25 = t.credit.getD 0) ∧
  (∀ e : Finished, e.ticket < 65536 → e.credit.getD 0 < 65536 → let b := finishedBytes e
    b.length = 10 ∧ wordAt b 0 = e.ticket ∧ byteAt b 2 = e.result.code ∧
    byteAt b 3 = bit e.receipt.isSome 1 + bit e.credit.isSome 3 ∧
    longAt b 4 = e.receipt.getD 0 ∧ wordAt b 8 = e.credit.getD 0) ∧
  (∀ c : Car, c.ticket < 65536 → c.front < 16384 → (∀ l, c.length = some l → l ≤ 600) →
    let b := carBytes c
    b.length = 22 ∧ wordAt b 0 = c.ticket ∧ wordAt b 2 = c.front ∧
    wordAt b 4 = c.length.getD 0 ∧ (BitVec.ofNat 16 (wordAt b 6)).toInt = c.rear ∧
    byteAt b 8 = bit c.flags.tall 0 + bit c.flags.wide 1 + bit c.flags.short 2 ∧
    byteAt b 9 = bit c.marks[0] 0 + bit c.marks[1] 1 + bit c.marks[2] 2 + bit c.marks[3] 3 +
      bit c.exitMark 4 ∧
    ∀ (k : Fin 12) (i j : StationIx), i.val = 2 * k.val → j.val = 2 * k.val + 1 →
      byteAt b (10 + k.val) = (c.status i).code * 16 + (c.status j).code) ∧
  (∀ (j : StationIx) (s : State), let st := s.station j; let b := stationBytes j s
    st.offset + st.post < 65536 → st.pre < 256 → st.post < 256 → st.latency < 65536 → st.leadMax < 256 →
    st.advanceTime < 65536 → st.withdrawTimeout < 65536 → st.tripLevel < 65536 →
    st.tripCount < 256 →
    b.length = 35 ∧ byteAt b 0 = j.val ∧
    byteAt b 1 = bit st.enabled 0 + bit (st.kind == .arm) 1 + bit st.exclTall 2 +
      bit st.exclWide 3 + bit (s.stn.jog.any (fun g => g.station == j)) 4 +
      bit (st.kind == .arm && s.inputs.stowed[st.channel]) 5 ∧
    wordAt b 2 = st.offset ∧ byteAt b 4 = st.pre ∧ byteAt b 5 = st.post ∧
    wordAt b 6 = st.latency ∧ byteAt b 8 = st.leadMax ∧ byteAt b 9 = st.feature.val ∧
    byteAt b 10 = st.firstLine.val ∧ byteAt b 11 = st.secondLine.val ∧
    byteAt b 12 = st.channel.val ∧ wordAt b 13 = st.advanceTime ∧
    wordAt b 15 = st.withdrawTimeout ∧ wordAt b 17 = st.tripLevel ∧ byteAt b 19 = st.tripCount ∧
    byteAt b 20 = leadOf st s.avgPeriod ∧
    wordAt b 21 = onPointOf st s.avgPeriod ∧ wordAt b 23 = offPointOf st s.avgPeriod ∧
    let served := (s.track.roster.filter (fun c => c.status j == .active)).map (fun c => c.ticket)
    (served.headD 0 < 65536 → wordAt b 26 = served.headD 0) ∧
    (∀ g, s.stn.jog = some g → g.station = j → ms g.timer < 65536 → wordAt b 33 = ms g.timer) ∧
    ((∀ g, s.stn.jog = some g → g.station ≠ j) → wordAt b 33 = 0) ∧
    (st.kind = .arm → byteAt b 25 = (s.machine j).arm.code ∧
      ((s.machine j).trip < 256 → byteAt b 28 = (s.machine j).trip) ∧
      (let left := if (s.machine j).advanceTimer = .stopped then ms (s.machine j).withdrawTimer
          else ms (s.machine j).advanceTimer
       left < 65536 → wordAt b 29 = left) ∧
      (s.inputs.motorCurrent[st.channel] < 65536 →
        wordAt b 31 = s.inputs.motorCurrent[st.channel])) ∧
    (st.kind = .switched →
      byteAt b 25 = (if st.enabled = true ∧ s.inputs.chainClosed = true ∧ s.mode ≠ .lockout ∧
        ((∃ g, s.stn.jog = some g ∧ g.station = j) ∨ (s.halt.state = .running ∧ served ≠ []))
        then 1 else 0) ∧
      (served.length < 256 → byteAt b 28 = served.length) ∧
      wordAt b 29 = 0 ∧ wordAt b 31 = 0)) ∧
  (∀ (s : State) (x : SaleSlot), let b := saleSlotBytes s x
    let shows (code n : Nat) : Prop := b.length = 6 ∧ byteAt b 0 = code ∧ wordAt b 1 = n ∧
      ∀ t, s.ticket? n = some t → t.price < 65536 →
        byteAt b 3 = t.kind.code ∧ wordAt b 4 = t.price
    (x = .empty → b = [0, 0, 0, 0, 0, 0]) ∧
    (∀ n lines left named, x = .pending n lines left named → n < 65536 → shows 1 n) ∧
    (∀ n g left, x = .lookup n g left → n < 65536 → shows 2 n)) ∧
  (∀ (k : EntryIx) (e : MemberEntry), let b := entryBytes k e
    b.length = 12 ∧ byteAt b 0 = k.val ∧
    byteAt b 1 = bit e.valid 0 + bit (e.status == .suspended) 1 ∧
    (e.order < 256 → byteAt b 2 = e.order) ∧ longAt b 3 = e.base ∧ byteAt b 7 = e.row.val ∧
    stamp b 8 e.stamp) ∧
  (∀ (s : State) (c : Credit), c.code < 65536 → c.cap < 65536 → let b := creditBytes s c
    b.length = 14 ∧ wordAt b 0 = c.code ∧ byteAt b 2 = rowOf c.baseRow ∧
    wordAt b 3 = c.features.toNat ∧ wordAt b 5 = c.cap ∧ byteAt b 7 = c.reason.code ∧
    stamp b 8 (some c.stamp) ∧ byteAt b 12 = c.origin.code ∧
    ((∃ i : Lane, (s.saleSlot i).names? = some c.code) → byteAt b 13 = 1) ∧
    ((∀ i : Lane, (s.saleSlot i).names? ≠ some c.code) → byteAt b 13 = 0)) ∧
  (∀ e : Episode, e.number < 256 → (∀ n, e.subject = .ticket n → n < 65536) →
    let b := episodeBytes e
    let count (x : Stamp) : Nat := x.day * 1440 + x.minute
    b.length = 14 ∧ byteAt b 0 = e.number ∧
    byteAt b 1 = e.first.code +
      16 * (match e.subject with | .none => 0 | .ticket _ => 1 | .station _ => 2 | .eye _ => 3) +
      64 * (match e.closing with | none => 0 | some (_, .console) => 1 | some (_, .auto) => 2) ∧
    wordAt b 2 = e.further.toNat ∧
    wordAt b 4 = (match e.subject with
      | .none => 0 | .ticket n => n | .station j => j.val
      | .eye .entry => 0 | .eye (.checkpoint k) => k.val + 1 | .eye .exit => 5) ∧
    stamp b 6 (some e.start) ∧ wordAt b 10 = e.pulseTotal.toNat % 65536 ∧
    wordAt b 12 = (match e.closing with
      | none => 65535
      | some (x, _) => if count x < count e.start then 65534
        else min 65533 (count x - count e.start))) ∧
  (let is (n : Notice) (kind : Nat) (data : List Byte) : Prop := n.kind = kind ∧ n.data = data
   is .lockout 1 [] ∧ (∀ c n, is (.halt c n) 2 (u8 c.code ++ u8 n)) ∧
   (∀ n, is (.resumed n) 3 (u8 n)) ∧ (∀ r n, is (.gateHold r n) 4 (u8 r.code ++ u16 n)) ∧
   (∀ i r, is (.mergeOverrun i r) 5 (u8 i.val ++ u8 r.code)) ∧
   (∀ i g, is (.memberMiss i g) 6 (u8 i.val ++ u32 g.toNat)) ∧
   (∀ x n, is (.tagResult x n) 7 (u8 x.code ++ u16 n)) ∧ (∀ n, is (.saleLapsed n) 8 (u16 n)) ∧
   (∀ e, is (.saleDone e) 9 (finishedBytes e)) ∧ is .closeDone 10 [] ∧
   is (.storeDone true) 11 (u8 0) ∧ is (.storeDone false) 11 (u8 1) ∧
   ∀ n, is (.creditDropped n) 12 (u16 n)) ∧
  [Status.ok, .taken, .notPermitted, .badRequest, .outOfRange, .busy, .full, .notFound, .wrongState,
    .closed, .overlap, .locked, .notSellable, .suspended, .tooSoon, .unconfirmed,
    .causePresent].map Status.code = List.range 17 ∧
  [Cause.safetyChain, .driveFault, .consoleStop, .siteStop, .powerUp, .conveyorStall, .slip, .ghost,
    .crowding, .rosterMoved, .tailgate, .loadMiss, .entryIntrusion, .armOverload, .armStuck,
    .exitBlocked].map Cause.code = List.range 16 ∧
  [Mode.setup, .closed, .openMode, .draining, .lockout].map Mode.code = List.range 5 ∧
  [HaltState.running, .holding, .stopped].map HaltState.code = List.range 3 ∧
  [ConvState.stopped, .warning, .running, .stopping].map ConvState.code = List.range 4 ∧
  [RowKind.plan, .addon, .member].map RowKind.number = List.range 3 ∧
  [TicketKind.paid, .member, .rewash, .unpaid, .waved, .consoleSold].map TicketKind.code =
    List.range 6 ∧
  [TicketState.pending, .lookup, .laneQueued, .merged, .atGate, .riding].map TicketState.code =
    List.range 6 ∧
  [Origin.lane 0, .lane 1, .lane 2, .console].map Origin.code = List.range 4 ∧
  [Result.full, .partialWash, .removed].map Result.code = List.range 3 ∧
  [Progress.pending, .active, .done, .skipped, .missed, .interrupted].map Progress.code =
    List.range 6 ∧
  [StationKind.switched, .arm].map StationKind.number = List.range 2 ∧
  [ArmState.stowed, .advancing, .engaged, .withdrawing, .fault].map ArmState.code = List.range 5 ∧
  [MemberStatus.active, .suspended].map MemberStatus.number = List.range 2 ∧
  [HoldReason.unpaid, .offerExpired, .mergeCheck].map HoldReason.code = List.range 3 ∧
  [OverrunReason.mergeFull, .noSlot].map OverrunReason.code = List.range 2 ∧
  ∀ (p : Port) (tag : Byte) (rest : List Byte) (s : State),
    let decision (c : Instr) (k : Byte) : Prop :=
      frameOf c = some (p, ⟨0x24, tag, k :: rest⟩) ∧
      exec c s = exec (.frameHeld p 0x24 tag (k :: rest)) s
    decision (.retry p tag rest) 0 ∧ decision (.wave p tag rest) 1 ∧
    decision (.sell p tag rest) 2 ∧ decision (.remove p tag rest) 3

/-! ## Plan sales (spec/01_plan_sales.md) -/

/-- R8: the price of a sale from one base row and its add-on rows at the discount in force: the
discount amount, the total and its clamp at 50,000, the line amounts with the excess taken from the
last add-on first, the union of the feature sets, the least speed cap and the percent reported. -/
def Obligations.PricesAreComputed : Prop :=
  ∀ (base : CatRow) (adds : List CatRow) (inForce : Nat), base.price ≤ 50000 → inForce ≤ 50 →
    let d := if base.discountable = true then inForce else 0
    let disc := (base.price * d + 50) / 100
    let raw := (base.price - disc) + (adds.map (fun r => r.price)).sum
    let q := priceOf base adds inForce
    disc ≤ base.price ∧ q.percent = d ∧ q.total = min raw 50000 ∧
    q.lines.length = adds.length + 1 ∧ q.lines.sum = q.total ∧
    q.lines.head? = some (base.price - disc) ∧
    (raw ≤ 50000 → q.lines = (base.price - disc) :: adds.map (fun r => r.price)) ∧
    (∀ (k : Nat) (r : CatRow), adds[k]? = some r → ∃ a, q.lines[k + 1]? = some a ∧ a ≤ r.price ∧
      (a < r.price → ∀ m, k < m → m < adds.length → q.lines[m + 1]? = some 0)) ∧
    (∀ f : Nat, q.features.getLsbD f = true ↔
      base.features.getLsbD f = true ∨ ∃ r ∈ adds, r.features.getLsbD f = true) ∧
    q.cap ≤ base.cap ∧ (∀ r ∈ adds, q.cap ≤ r.cap) ∧ (q.cap = base.cap ∨ ∃ r ∈ adds, q.cap = r.cap)

/-- R6, R7: the discount in force is 0 while the clock is unset; otherwise it is that of the
lowest-indexed period that matches the clock's minute, and 0 when none does. R5: SET CLOCK sets the
day and the minute, clears CLOCK_UNSET and restarts the minute timer, and refuses a minute above
1,439. Each expiry of the minute timer advances the minute by one: minute 1,439 is followed by
minute 0 of the next day, and day 65,535 by day 0. -/
def Obligations.TheClockSetsTheDiscount : Prop :=
  (∀ s : State,
     let m := s.sales.clock.stamp.minute
     let hit (p : Period) : Prop := (p.start < p.stop ∧ p.start ≤ m ∧ m < p.stop) ∨
       (p.stop < p.start ∧ (p.start ≤ m ∨ m < p.stop))
     (s.sales.clock.unset = true → s.discount = 0) ∧
     (s.sales.clock.unset = false →
       (∀ k : Fin 4, hit (s.settings.periods[k]) → (∀ j : Fin 4, j < k → ¬ hit (s.settings.periods[j])) →
         s.discount = (s.settings.periods[k]).discount) ∧
       ((∀ k : Fin 4, ¬ hit (s.settings.periods[k])) → s.discount = 0))) ∧
  ((∀ (tag : Byte) (day minute : Nat) (s : State), s.takes .site → s.mode ≠ .lockout →
     day < 65536 → minute < 65536 →
     (minute ≤ 1439 → exec (.setClock .site tag (u16 day ++ u16 minute)) s =
       answered .site 0x43 tag .ok [] { hunt .site s with sales := { s.sales with
         clock := ⟨⟨day, minute⟩, false⟩, minuteTimer := .running 6000000 } }) ∧
     (1439 < minute → exec (.setClock .site tag (u16 day ++ u16 minute)) s =
       answered .site 0x43 tag .outOfRange [] (hunt .site s))) ∧
   (∀ (left day minute : Nat) (s : State), s.sales.minuteTimer = .running left →
     s.sales.clock.stamp = ⟨day, minute⟩ → day ≤ 65535 → minute ≤ 1439 →
     let next : Stamp := if minute = 1439 then ⟨if day = 65535 then 0 else day + 1, 0⟩
       else ⟨day, minute + 1⟩
     exec .minuteTimerExpiry s = done { s with sales := { s.sales with
       clock := { s.sales.clock with stamp := next }, minuteTimer := .running 6000000 } }))

/-- R11: a new ticket's number is the first after the last one given, counting from 65,535 round to
1, that no live ticket and no credit holds; it is never 0. -/
def Obligations.NewNumbersAreFree : Prop :=
  ∀ s : State, s.creditsFit →
    s.nextNumber ≠ 0 ∧ s.nextNumber ≤ 65535 ∧
    (∀ t ∈ s.tickets, t.number ≠ s.nextNumber) ∧ (∀ c ∈ s.credits, c.code ≠ s.nextNumber) ∧
    (takeNumber s).2.sales.lastNumber = s.nextNumber ∧
    (∀ n : Nat, 1 ≤ n → n ≤ 65535 →
      (s.sales.lastNumber < s.nextNumber ∧ s.sales.lastNumber < n ∧ n < s.nextNumber ∨
        s.nextNumber ≤ s.sales.lastNumber ∧ (s.sales.lastNumber < n ∨ n < s.nextNumber)) →
      s.numberTaken n = true)

/-- R3, R14, R15, R12: a button b of a lane's kiosk names catalogue row base + b of the lane's menu
window when b is below the window's size, and no row otherwise. A QUOTE at an OPEN tunnel whose
buttons name active rows, a PLAN with ADDONs, with room in the lane queue and a slot to take, puts a
pending sale in the lane's sale slot: the ticket is PAID and PENDING with the rows and the price of
R8, its number is kept over a pending sale of kind PAID and otherwise new, the pending timer starts
from PendingTime, and the reply is OK with the number, the price and the percent. What else the slot
held leaves the table; every other ticket stays. The refusals come in their order and leave the sale
slot as it was. -/
def Obligations.QuoteOpensAPendingSale : Prop :=
  (∀ (m : Menu) (b : Nat),
     (b < m.size → ∀ r : Row, r.val = m.base + b → m.rowOf b = some r) ∧
     (m.size ≤ b → m.rowOf b = none)) ∧
  (∀ (i : Lane) (tag : Byte) (b : List Byte) (base : Row) (adds : List Row) (s : State),
     s.takes (.lane i) → s.creditsFit → s.mode = .openMode → 1 ≤ b.length → b.length ≤ 4 →
     b.map (fun x => (s.settings.menus[i]).rowOf x.toNat) = some base :: adds.map some →
     (s.row base).active = true → (s.row base).kind = .plan →
     (∀ r ∈ adds, (s.row r).active = true ∧ (s.row r).kind = .addon) →
     (s.laneQueue i).length < 4 →
     s.hasSlot i →
     let pr := priceOf (s.row base) (adds.map s.row) s.discount
     let n := s.saleNumber i
     ∃ t, exec (.quote (.lane i) tag b) s = .next t ∧
       (t.port (.lane i)).request =
         .replying ⟨0x90, tag, u8 0 ++ (u16 n ++ u16 pr.total ++ u8 pr.percent)⟩ ∧
       t.saleSlot i = .pending n pr.lines (.running (s.settings.timing.pendingTime * 100000)) none ∧
       t.ticket? n = some { number := n, kind := .paid, state := .pending, baseRow := some base
                            addOns := adds, features := pr.features, cap := pr.cap
                            price := pr.total, origin := .lane i, receipt := none, tag := none
                            credit := none } ∧
       (∀ m, m ≠ n → (s.saleSlot i).ticket? ≠ some m → t.ticket? m = s.ticket? m) ∧
       (∀ m, (s.saleSlot i).ticket? = some m → m ≠ n → t.ticket? m = none) ∧
       t.gate = s.gate ∧ t.credits = s.credits ∧ t.memb = s.memb ∧ t.track = s.track ∧
       t.halt = s.halt ∧ t.sales.totals = s.sales.totals ∧ t.settings = s.settings) ∧
  (∀ (i : Lane) (tag : Byte) (b : List Byte) (s : State),
     s.takes (.lane i) → s.mode ≠ .lockout → 1 ≤ b.length → b.length ≤ 4 →
     let rows := b.map (fun x => (s.settings.menus[i]).rowOf x.toNat)
     let no (st : Status) := exec (.quote (.lane i) tag b) s =
       answered (.lane i) 0x10 tag st [] (hunt (.lane i) s)
     (s.mode ≠ .openMode → no .closed) ∧
     (s.mode = .openMode → none ∈ rows → no .outOfRange) ∧
     (∀ (base : Row) (adds : List Row), s.mode = .openMode → rows = some base :: adds.map some →
       ((s.row base).active = false ∨ (s.row base).kind ≠ .plan ∨
         (∃ r ∈ adds, (s.row r).active = false ∨ (s.row r).kind ≠ .addon) → no .notSellable) ∧
       ((s.row base).active = true → (s.row base).kind = .plan →
         (∀ r ∈ adds, (s.row r).active = true ∧ (s.row r).kind = .addon) →
         (4 ≤ (s.laneQueue i).length ∨ ¬ s.hasSlot i → no .full))))

/-- R17, R23, R41: a PAY in OPEN or DRAINING queues the ticket of the lane's pending sale at the
tail of the lane queue and empties the sale slot. A PAID ticket keeps the receipt and each of its
rows is counted with its line amount; for a REWASH ticket no receipt is stored, its base row is
counted with 0 and the credit the sale names leaves the list. R18, R16: CANCEL ends whatever the
lane's sale slot holds, and the expiry of a running pending timer ends a pending sale with
SALE_LAPSED: the slot is empty, its ticket leaves the table, and a drain tests its conditions. An
empty slot refuses CANCEL with NOT_FOUND, a slot without a pending sale refuses PAY so, SETUP and
CLOSED refuse PAY with CLOSED, and no other expiry has an effect. -/
def Obligations.SalesArePaidOrEnd : Prop :=
  (∀ (i : Lane) (tag : Byte) (receipt : Word32) (n : Nat) (lines : List Nat) (tm : Timer)
     (names : Option Nat) (tk : Ticket) (s : State),
     s.takes (.lane i) → (s.mode = .openMode ∨ s.mode = .draining) →
     s.saleSlot i = .pending n lines tm names → s.ticket? n = some tk →
     (tk.kind = .paid ∨ tk.kind = .rewash) →
     ∃ t, exec (.pay (.lane i) tag (u32 receipt.toNat)) s = .next t ∧
       (t.port (.lane i)).request = .replying ⟨0x91, tag, u8 0 ++ u16 n⟩ ∧
       t.saleSlot i = .empty ∧ t.laneQueue i = s.laneQueue i ++ [n] ∧
       (∀ l, l ≠ i → t.laneQueue l = s.laneQueue l ∧ t.saleSlot l = s.saleSlot l) ∧
       (∀ m, m ≠ n → t.ticket? m = s.ticket? m) ∧
       (tk.kind = .paid →
         t.ticket? n = some { tk with state := .laneQueued, receipt := some receipt } ∧
         t.credits = s.credits ∧
         t.sales.totals = (((tk.baseRow.toList ++ tk.addOns).zip lines).foldl
           (fun s x => countRow x.1 x.2 s) s).sales.totals) ∧
       (tk.kind = .rewash →
         t.ticket? n = some { tk with state := .laneQueued } ∧
         t.credits = s.credits.filter (fun c => some c.code ≠ names) ∧
         t.sales.totals = (tk.baseRow.toList.foldl (fun s r => countRow r 0 s) s).sales.totals) ∧
       t.track = s.track ∧ t.halt = s.halt ∧ t.memb = s.memb ∧ t.settings = s.settings) ∧
  (∀ (i : Lane) (s : State),
     (∀ (tag : Byte), s.takes (.lane i) → s.mode ≠ .lockout →
       (∀ n, (s.saleSlot i).ticket? = some n → exec (.cancel (.lane i) tag []) s =
         answered (.lane i) 0x12 tag .ok (u16 n) (settleDrain (hunt (.lane i) s)
           (setSaleSlot i .empty (freeTicket n (hunt (.lane i) s))))) ∧
       (s.saleSlot i = .empty → exec (.cancel (.lane i) tag []) s =
         answered (.lane i) 0x12 tag .notFound [] (hunt (.lane i) s))) ∧
     (∀ (tag : Byte) (receipt : Word32), s.takes (.lane i) →
       let no (st : Status) := exec (.pay (.lane i) tag (u32 receipt.toNat)) s =
         answered (.lane i) 0x11 tag st [] (hunt (.lane i) s)
       (s.mode = .setup ∨ s.mode = .closed → no .closed) ∧
       (s.mode = .openMode ∨ s.mode = .draining →
         (∀ n lines tm names, s.saleSlot i ≠ .pending n lines tm names) → no .notFound)) ∧
     (∀ n lines left names, s.saleSlot i = .pending n lines (.running left) names →
       exec (.pendingTimerExpiry i) s = done (settleDrain s (raiseTo (.lane i) (.saleLapsed n)
         (setSaleSlot i .empty (freeTicket n s))))) ∧
     ((∀ n lines left names, s.saleSlot i ≠ .pending n lines (.running left) names) →
       exec (.pendingTimerExpiry i) s = done s) ∧
     (∀ n, (freeTicket n s).ticket? n = none ∧
       ∀ m, m ≠ n → (freeTicket n s).ticket? m = s.ticket? m))

/-- R23: a counted row gains 1 in its count, which saturates at 65,535, and an amount in its value,
which saturates at 4,294,967,295; no other row's totals change. R24: CLEAR TOTALS sets them all to
0. -/
def Obligations.TotalsCountAndClear : Prop :=
  (∀ (r : Row) (a : Nat) (s : State),
    (countRow r a s).sales.totals[r] =
      ⟨min ((s.sales.totals[r]).count + 1) 65535, min ((s.sales.totals[r]).value + a) 4294967295⟩ ∧
    ∀ q : Row, q ≠ r → (countRow r a s).sales.totals[q] = s.sales.totals[q]) ∧
  (∀ (tag : Byte) (s : State), s.takes .site → s.mode ≠ .lockout →
    exec (.clearTotals .site tag []) s = answered .site 0x5D tag .ok []
      { hunt .site s with sales := { s.sales with totals := Vector.replicate 32 ⟨0, 0⟩ } })

/-- R2: SET ROW writes all six fields of a row, with feature 0 added for the kinds PLAN and MEMBER;
the order of the fields in its body is log entry 29, the model's reading. R4, R6: SET MENU writes
one lane's window when it is in range and the lane's sale slot is empty; SET PERIOD writes one
period when it is in range. Each is accepted in every mode but LOCKOUT, refused OUT_OF_RANGE out of
range, a lane above 2 and an index above 3 included, and BUSY while a save is in progress. -/
def Obligations.RowsMenusAndPeriodsAreWritten : Prop :=
  (∀ (tag : Byte) (s : State), s.takes .site → s.mode ≠ .lockout →
     (∀ (r : Row) (row : CatRow), row.price ≤ 50000 → 100 ≤ row.cap → row.cap ≤ 1000 →
       (s.store.save = none → exec (.setRow .site tag (rowBody r row)) s =
         answered .site 0x40 tag .ok [] { hunt .site s with settings := { s.settings with
           catalogue := vset s.settings.catalogue r { row with
             features := if row.kind = .addon then row.features else row.features ||| 1 } } }) ∧
       (s.store.save ≠ none → exec (.setRow .site tag (rowBody r row)) s =
         answered .site 0x40 tag .busy [] (hunt .site s))) ∧
     (∀ b : List Byte, b.length = 10 →
       (31 < byteAt b 0 ∨ 2 < byteAt b 1 ∨ 1 < byteAt b 2 ∨ 50000 < wordAt b 3 ∨ wordAt b 7 < 100 ∨
         1000 < wordAt b 7 ∨ 1 < byteAt b 9) →
       exec (.setRow .site tag b) s = answered .site 0x40 tag .outOfRange [] (hunt .site s))) ∧
  (∀ (tag : Byte) (s : State), s.takes .site → s.mode ≠ .lockout →
     (∀ (i : Lane) (m : Menu), m.size < 256 → m.base < 256 →
       let body := u8 i.val ++ u8 m.size ++ u8 m.base
       let fits := (m.size = 4 ∨ m.size = 8 ∨ m.size = 16) ∧ m.base % m.size = 0 ∧ m.base + m.size ≤ 32
       (fits → s.store.save = none → s.saleSlot i = .empty → exec (.setMenu .site tag body) s =
         answered .site 0x41 tag .ok [] { hunt .site s with settings := { s.settings with
           menus := vset s.settings.menus i m } }) ∧
       (fits → (s.store.save ≠ none ∨ s.saleSlot i ≠ .empty) → exec (.setMenu .site tag body) s =
         answered .site 0x41 tag .busy [] (hunt .site s)) ∧
       (¬ fits → exec (.setMenu .site tag body) s =
         answered .site 0x41 tag .outOfRange [] (hunt .site s))) ∧
     (∀ b : List Byte, b.length = 3 → 2 < byteAt b 0 → exec (.setMenu .site tag b) s =
       answered .site 0x41 tag .outOfRange [] (hunt .site s)) ∧
     (∀ b : List Byte, b.length = 6 → 3 < byteAt b 0 → exec (.setPeriod .site tag b) s =
       answered .site 0x42 tag .outOfRange [] (hunt .site s)) ∧
     (∀ (k : Fin 4) (x : Period), x.start < 65536 → x.stop < 65536 → x.discount < 256 →
       let fits := x.start ≤ 1439 ∧ x.stop ≤ 1439 ∧ x.discount ≤ 50
       (fits → s.store.save = none → exec (.setPeriod .site tag (periodBody k x)) s =
         answered .site 0x42 tag .ok [] { hunt .site s with settings := { s.settings with
           periods := vset s.settings.periods k x } }) ∧
       (fits → s.store.save ≠ none → exec (.setPeriod .site tag (periodBody k x)) s =
         answered .site 0x42 tag .busy [] (hunt .site s)) ∧
       (¬ fits → exec (.setPeriod .site tag (periodBody k x)) s =
         answered .site 0x42 tag .outOfRange [] (hunt .site s))))

/-- R22, R20, R21, R39, R40: a ticket that leaves the table with a result. A PARTIAL or REMOVED one
of kind PAID, REWASH or CONSOLE_SOLD leaves a credit under its number at the tail of the credit
list, which first drops its oldest when it is full; one of kind MEMBER clears the last wash stamp of
the entries that cover its tag. A pending sale that names the dropped code keeps its slot, its
timer and its ticket and names no credit from then on; no other sale slot changes. The ticket leaves
the table, and a lane ticket's entry goes to the head of its lane's finished list, which keeps 4,
with SALE_DONE at the lane's port. -/
def Obligations.TicketsRetireWithTheirResult : Prop :=
  ∀ (n : Nat) (r : Result) (t : Ticket) (s : State), s.ticket? n = some t →
    let u := retireTicket n r s
    let earns := r ≠ .full ∧ (t.kind = .paid ∨ t.kind = .rewash ∨ t.kind = .consoleSold)
    let dropped (code : Nat) : Prop := earns ∧ 32 ≤ s.credits.length ∧
      ∃ c, s.credits.head? = some c ∧ c.code = code
    u.ticket? n = none ∧ (∀ m, m ≠ n → u.ticket? m = s.ticket? m) ∧
    (¬ earns → u.credits = s.credits) ∧
    (earns → u.credits =
      (if 32 ≤ s.credits.length then s.credits.drop 1 else s.credits) ++
        [{ code := t.number, baseRow := t.baseRow, features := t.features, cap := t.cap
           reason := r, stamp := s.sales.clock.stamp, origin := t.origin }]) ∧
    (∀ c, earns → 32 ≤ s.credits.length → s.credits.head? = some c →
      .creditDropped c.code ∈ (u.port .site).notices) ∧
    (∀ (i : Lane) (m : Nat) (lines : List Nat) (x : Timer) (code : Nat),
      s.saleSlot i = .pending m lines x (some code) → dropped code →
      u.saleSlot i = .pending m lines x none) ∧
    (∀ i : Lane, (∀ code, (s.saleSlot i).names? = some code → ¬ dropped code) →
      u.saleSlot i = s.saleSlot i) ∧
    (∀ k : EntryIx, u.entry k =
      if r ≠ .full ∧ t.kind = .member ∧ (∃ tg, t.tag = some tg ∧ (s.entry k).covers tg = true) then
        { s.entry k with stamp := none }
      else s.entry k) ∧
    (∀ i : Lane, t.origin = .lane i →
      (earns → u.sales.finished[i] = ((⟨n, t.receipt, r, some n⟩ : Finished) ::
        s.sales.finished[i]).take 4 ∧
        .saleDone ⟨n, t.receipt, r, some n⟩ ∈ (u.port (.lane i)).notices) ∧
      (¬ earns → u.sales.finished[i] = ((⟨n, t.receipt, r, none⟩ : Finished) ::
        s.sales.finished[i]).take 4 ∧
        .saleDone ⟨n, t.receipt, r, none⟩ ∈ (u.port (.lane i)).notices)) ∧
    (∀ i : Lane, t.origin ≠ .lane i → u.sales.finished[i] = s.sales.finished[i])

/-! ## Members and credits (spec/02_members_and_credits.md) -/

/-- R32 to R35: a TAG at an OPEN tunnel with room in the lane queue and a slot to take. A tag that a
valid entry covers is a hit: it is refused SUSPENDED, NOT_SELLABLE or TOO_SOON, in that order, or
else the car is queued on the entry's member row, the entry's stamp is set to now and the sale is
counted with 0. A tag that no entry covers is answered TAKEN: the lane's slot holds a lookup wait
with a LOOKUP ticket, and MEMBER_MISS is raised to the site port. Before that, a TAG in SETUP,
CLOSED and DRAINING is refused CLOSED, and in OPEN one without room or without a slot to take is
refused FULL, either leaving the slot, its timer and the entry as they were. -/
def Obligations.TagsAreLookedUp : Prop :=
  (∀ (i : Lane) (tag : Byte) (tg : Word32) (s : State),
    s.takes (.lane i) → s.creditsFit → s.mode = .openMode → (s.laneQueue i).length < 4 →
    s.hasSlot i →
    let c : Instr := .tag (.lane i) tag (u32 tg.toNat)
    let n := s.saleNumber i
    let no (st : Status) := exec c s = answered (.lane i) 0x13 tag st [] (hunt (.lane i) s)
    (∀ k : EntryIx, (s.entry k).valid = true → (s.entry k).base.toNat ≤ tg.toNat →
      tg.toNat < (s.entry k).base.toNat + 2 ^ (s.entry k).order →
      (∀ j : EntryIx, j < k → (s.entry j).covers tg = false) →
      let e := s.entry k
      let row := s.row e.row
      let sellable := row.active = true ∧ row.kind = .member
      let soon := s.settings.timing.memberInterval ≠ 0 ∧ s.sales.clock.unset = false ∧
        ∃ st, e.stamp = some st ∧ st.count ≤ s.stamp.count ∧
          s.stamp.count - st.count < s.settings.timing.memberInterval
      (e.status = .suspended → no .suspended) ∧
      (e.status = .active → ¬ sellable → no .notSellable) ∧
      (e.status = .active → sellable → soon → no .tooSoon) ∧
      (e.status = .active → sellable → ¬ soon → ∃ t, exec c s = .next t ∧
        (t.port (.lane i)).request = .replying ⟨0x93, tag, u8 0 ++ u16 n⟩ ∧
        t.saleSlot i = .empty ∧ t.laneQueue i = s.laneQueue i ++ [n] ∧
        t.ticket? n = some { number := n, kind := .member, state := .laneQueued
                             baseRow := some e.row, addOns := [], features := row.features
                             cap := row.cap, price := 0, origin := .lane i, receipt := none
                             tag := some tg, credit := none } ∧
        t.entry k = { e with stamp := some s.stamp } ∧
        (∀ j : EntryIx, j ≠ k → t.entry j = s.entry j) ∧
        t.sales.totals = (countRow e.row 0 s).sales.totals ∧
        (∀ m, m ≠ n → (s.saleSlot i).ticket? ≠ some m → t.ticket? m = s.ticket? m) ∧
        t.credits = s.credits ∧ t.track = s.track ∧ t.halt = s.halt ∧ t.gate.merge = s.gate.merge)) ∧
    ((∀ k : EntryIx, (s.entry k).covers tg = false) → ∃ t, exec c s = .next t ∧
      (t.port (.lane i)).request = .replying ⟨0x93, tag, u8 1⟩ ∧
      t.saleSlot i = .lookup n tg (.running (s.settings.timing.lookupTime * 100000)) ∧
      t.ticket? n = some { number := n, kind := .member, state := .lookup, baseRow := none
                           addOns := [], features := 0, cap := 1000, price := 0, origin := .lane i
                           receipt := none, tag := some tg, credit := none } ∧
      .memberMiss i tg ∈ (t.port .site).notices ∧
      (∀ m, m ≠ n → (s.saleSlot i).ticket? ≠ some m → t.ticket? m = s.ticket? m) ∧
      t.gate = s.gate ∧ t.memb = s.memb ∧ t.credits = s.credits ∧ t.sales.totals = s.sales.totals)) ∧
  (∀ (i : Lane) (tag : Byte) (tg : Word32) (s : State), s.takes (.lane i) → s.mode ≠ .lockout →
    let no (st : Status) := exec (.tag (.lane i) tag (u32 tg.toNat)) s =
      answered (.lane i) 0x13 tag st [] (hunt (.lane i) s)
    (s.mode ≠ .openMode → no .closed) ∧
    (s.mode = .openMode → (4 ≤ (s.laneQueue i).length ∨ ¬ s.hasSlot i) → no .full))

/-- R37: NO MEMBER ends every lane's wait for exactly its tag, and the expiry of a running lookup
timer ends its lane's wait: the ticket leaves the table, the slot is empty and TAG_RESULT NOT_FOUND
is raised to the lane. With no such wait NO MEMBER is refused NOT_FOUND. R36: after a load into
entry k the waits it covers complete, lane 0 first, each against the entry as it then stands: a wait
that passes the tests of a hit becomes a queued member ticket under its own number, with the stamp
set to now, the sale counted and TAG_RESULT OK; one that fails loses its ticket and gets TAG_RESULT
with the status. Any other slot stays. -/
def Obligations.LookupWaitsEnd : Prop :=
  ((∀ (tag : Byte) (tg : Word32) (s : State), s.takes .site → s.mode ≠ .lockout →
     let waits (i : Lane) (n : Nat) : Prop := ∃ tm, s.saleSlot i = .lookup n tg tm
     ((∃ i n, waits i n) → ∃ t, exec (.noMember .site tag (u32 tg.toNat)) s = .next t ∧
       (t.port .site).request = .replying ⟨0xD2, tag, u8 0⟩ ∧
       (∀ i n, waits i n → t.saleSlot i = .empty ∧ t.ticket? n = none ∧
         .tagResult .notFound 0 ∈ (t.port (.lane i)).notices) ∧
       (∀ i, (∀ n, ¬ waits i n) → t.saleSlot i = s.saleSlot i ∧
         t.port (.lane i) = s.port (.lane i)) ∧
       (∀ m, (∀ i, ¬ waits i m) → t.ticket? m = s.ticket? m) ∧
       t.memb = s.memb ∧ t.gate = s.gate ∧ t.settings = s.settings) ∧
     ((∀ i n, ¬ waits i n) → exec (.noMember .site tag (u32 tg.toNat)) s =
       answered .site 0x52 tag .notFound [] (hunt .site s))) ∧
   (∀ (i : Lane) (n : Nat) (tg : Word32) (left : Nat) (s : State),
     s.saleSlot i = .lookup n tg (.running left) →
     exec (.lookupTimerExpiry i) s = done (settleDrain s (raiseTo (.lane i) (.tagResult .notFound 0)
       (setSaleSlot i .empty (freeTicket n s))))) ∧
   (∀ (i : Lane) (s : State), (∀ n tg left, s.saleSlot i ≠ .lookup n tg (.running left)) →
     exec (.lookupTimerExpiry i) s = done s)) ∧
  ((∀ (k : EntryIx) (s : State),
     completeWaits k s = completeWait k (completeWait k (completeWait k s 0) 1) 2) ∧
   (∀ (k : EntryIx) (i : Lane) (n : Nat) (tg : Word32) (tm : Timer) (tk : Ticket) (s : State),
     s.saleSlot i = .lookup n tg tm → s.ticket? n = some tk →
     let t := completeWait k s i
     let e := s.entry k
     (e.covers tg = false → t = s) ∧
     (e.covers tg = true → s.hitRefusal e = none →
       t.saleSlot i = .empty ∧ t.laneQueue i = s.laneQueue i ++ [n] ∧
       t.ticket? n = some { number := n, kind := .member, state := .laneQueued, baseRow := some e.row
                            addOns := [], features := (s.row e.row).features, cap := (s.row e.row).cap
                            price := 0, origin := .lane i, receipt := none, tag := some tg
                            credit := none } ∧
       t.entry k = { e with stamp := some s.stamp } ∧
       t.sales.totals = (countRow e.row 0 s).sales.totals ∧
       .tagResult .ok n ∈ (t.port (.lane i)).notices) ∧
     (∀ st, e.covers tg = true → s.hitRefusal e = some st →
       t.saleSlot i = .empty ∧ t.ticket? n = none ∧ t.entry k = e ∧ t.laneQueue i = s.laneQueue i ∧
       .tagResult st 0 ∈ (t.port (.lane i)).notices)) ∧
   (∀ (k : EntryIx) (i : Lane) (s : State), (∀ n tg tm, s.saleSlot i ≠ .lookup n tg tm) →
     completeWait k s i = s))

/-- R28, R29: a LOAD MEMBER of a range in its form whose row is of kind MEMBER. An entry with
exactly the base and order is updated in place; a range that overlaps a valid entry is refused
OVERLAP; a wired load goes to the lowest invalid index below W, or is refused FULL; an unwired one
goes to the lowest invalid index from W, or over the entry at the pointer, which then advances by
one and from 47 wraps to W. Every success answers OK with the index and completes the waits it
covers. A wired load is refused BUSY while a save is in progress, and a row of another kind
NOT_SELLABLE. Before those, an order other than 0, 4, 8 and 12, a base that is no multiple of the
range size, a row above 31, a status above 1 or a flag above 1 is refused OUT_OF_RANGE. -/
def Obligations.LoadsPlaceMemberEntries : Prop :=
  (∀ (tag : Byte) (a : LoadArgs) (s : State), s.takes .site → s.mode ≠ .lockout →
    (a.order = 0 ∨ a.order = 4 ∨ a.order = 8 ∨ a.order = 12) → a.base.toNat % 2 ^ a.order = 0 →
    s.settings.wired ≤ 40 →
    let c : Instr := .loadMember .site tag (memberBody a)
    let h := hunt .site s
    let no (st : Status) := exec c s = answered .site 0x50 tag st [] h
    let yes (k : EntryIx) (u : State) := exec c s =
      answered .site 0x50 tag .ok (u8 k.val) (settleDrain h (completeWaits k u))
    let placed : MemberEntry := ⟨true, a.base, a.order, a.row, a.status, none⟩
    let same (k : EntryIx) : Prop :=
      (s.entry k).valid = true ∧ (s.entry k).base = a.base ∧ (s.entry k).order = a.order
    let clear (k : EntryIx) : Prop := (s.entry k).valid = true →
      (s.entry k).base.toNat + 2 ^ (s.entry k).order ≤ a.base.toNat ∨
        a.base.toNat + 2 ^ a.order ≤ (s.entry k).base.toNat
    let lowest (k : EntryIx) (ok : EntryIx → Prop) : Prop := ok k ∧ ∀ j, j < k → ¬ ok j
    (a.wired = true → s.store.save ≠ none → no .busy) ∧
    ((a.wired = false ∨ s.store.save = none) →
      ((s.row a.row).kind ≠ .member → no .notSellable) ∧
      ((s.row a.row).kind = .member →
        (∀ k, lowest k same → yes k (setEntry k { s.entry k with row := a.row, status := a.status } h)) ∧
        ((∀ k, ¬ same k) → (∃ k, ¬ clear k) → no .overlap) ∧
        ((∀ k, clear k) →
          (a.wired = true →
            (∀ k, lowest k (fun j => j.val < s.settings.wired ∧ (s.entry j).valid = false) →
              yes k (setEntry k placed h)) ∧
            ((∀ k, k.val < s.settings.wired → (s.entry k).valid = true) → no .full)) ∧
          (a.wired = false →
            (∀ k, lowest k (fun j => s.settings.wired ≤ j.val ∧ (s.entry j).valid = false) →
              yes k (setEntry k placed h)) ∧
            ((∀ k, s.settings.wired ≤ k.val → (s.entry k).valid = true) →
              ∃ next : EntryIx, next.val = (if s.memb.pointer.val = 47 then s.settings.wired
                  else s.memb.pointer.val + 1) ∧
                yes s.memb.pointer { setEntry s.memb.pointer placed h with
                  memb := { (setEntry s.memb.pointer placed h).memb with pointer := next } })))))) ∧
  (∀ (tag : Byte) (b : List Byte) (s : State), s.takes .site → s.mode ≠ .lockout → b.length = 8 →
    ((byteAt b 4 ≠ 0 ∧ byteAt b 4 ≠ 4 ∧ byteAt b 4 ≠ 8 ∧ byteAt b 4 ≠ 12) ∨
      (longAt b 0).toNat % 2 ^ byteAt b 4 ≠ 0 ∨ 31 < byteAt b 5 ∨ 1 < byteAt b 6 ∨
      1 < byteAt b 7) →
    exec (.loadMember .site tag b) s = answered .site 0x50 tag .outOfRange [] (hunt .site s))

/-- R30, R27, R42: DROP MEMBER makes the valid entry with the tag base invalid, SET WIRED stores at
most 40 and sets the pointer to the new W, and DROP CREDIT takes a credit that no pending sale names
out of the list; each with its refusals. -/
def Obligations.MemberTableAndCreditsAreEdited : Prop :=
  ∀ (tag : Byte) (s : State), s.takes .site → s.mode ≠ .lockout →
    let h := hunt .site s
    (∀ base : Word32,
      let has (k : EntryIx) : Prop := (s.entry k).valid = true ∧ (s.entry k).base = base
      let c : Instr := .dropMember .site tag (u32 base.toNat)
      ((∀ k, ¬ has k) → exec c s = answered .site 0x51 tag .notFound [] h) ∧
      (∀ k, has k → (∀ j, j < k → ¬ has j) →
        (k.val < s.settings.wired → s.store.save ≠ none →
          exec c s = answered .site 0x51 tag .busy [] h) ∧
        (s.settings.wired ≤ k.val ∨ s.store.save = none → exec c s =
          answered .site 0x51 tag .ok (u8 k.val) (setEntry k { s.entry k with valid := false } h)))) ∧
    (∀ w : Nat, w < 256 →
      (s.store.save ≠ none →
        exec (.setWired .site tag (u8 w)) s = answered .site 0x53 tag .busy [] h) ∧
      (s.store.save = none → ∃ k : EntryIx, k.val = min w 40 ∧ exec (.setWired .site tag (u8 w)) s =
        answered .site 0x53 tag .ok (u8 (min w 40)) { h with
          settings := { s.settings with wired := min w 40 }
          memb := { s.memb with pointer := k } })) ∧
    (∀ code : Nat, code < 65536 →
      let named : Prop := ∃ i : Lane, (s.saleSlot i).names? = some code
      let c : Instr := .dropCredit .site tag (u16 code)
      ((∀ x ∈ s.credits, x.code ≠ code) → exec c s = answered .site 0x59 tag .notFound [] h) ∧
      ((∃ x ∈ s.credits, x.code = code) →
        (named → exec c s = answered .site 0x59 tag .busy [] h) ∧
        (¬ named → exec c s = answered .site 0x59 tag .ok []
          { h with credits := s.credits.filter (fun x => x.code ≠ code) })))

/-- R41: a REDEEM at an OPEN tunnel of a credit in the list that no other lane's pending sale names,
with room in the lane queue and a slot to take, puts a pending REWASH sale of price 0 in the lane's
slot, on the credit's row, features and cap; the credit stays in the list until the PAY. Its
refusals come in order. -/
def Obligations.RedeemOpensARewash : Prop :=
  ∀ (i : Lane) (tag : Byte) (code : Nat) (s : State),
    s.takes (.lane i) → s.creditsFit → code < 65536 → s.mode ≠ .lockout →
    let c : Instr := .redeem (.lane i) tag (u16 code)
    let n := s.saleNumber i
    let no (st : Status) := exec c s = answered (.lane i) 0x14 tag st [] (hunt (.lane i) s)
    let namedElsewhere : Prop := ∃ l : Lane, l ≠ i ∧ (s.saleSlot l).names? = some code
    (s.mode ≠ .openMode → no .closed) ∧
    (s.mode = .openMode →
      ((∀ x ∈ s.credits, x.code ≠ code) → no .notFound) ∧
      (∀ x, s.credit? code = some x →
        (namedElsewhere → no .busy) ∧
        (¬ namedElsewhere → 4 ≤ (s.laneQueue i).length ∨ ¬ s.hasSlot i → no .full) ∧
        (¬ namedElsewhere → (s.laneQueue i).length < 4 → s.hasSlot i → ∃ t, exec c s = .next t ∧
          (t.port (.lane i)).request = .replying ⟨0x94, tag, u8 0 ++ (u16 n ++ u16 0 ++ u8 0)⟩ ∧
          t.saleSlot i = .pending n [0] (.running (s.settings.timing.pendingTime * 100000))
            (some code) ∧
          t.ticket? n = some { number := n, kind := .rewash, state := .pending, baseRow := x.baseRow
                               addOns := [], features := x.features, cap := x.cap, price := 0
                               origin := .lane i, receipt := none, tag := none
                               credit := some code } ∧
          (∀ m, m ≠ n → (s.saleSlot i).ticket? ≠ some m → t.ticket? m = s.ticket? m) ∧
          t.credits = s.credits ∧ t.gate = s.gate ∧ t.memb = s.memb ∧
          t.sales.totals = s.sales.totals)))

/-! ## Lanes, merge and the entry gate (spec/03_lanes_merge_and_the_entry_gate.md) -/

/-- R45, R46, R49: a break of a lane exit eye moves the head of the lane's queue to the tail of the
merge queue; with an empty queue a placeholder of kind UNPAID joins there under a new number. With a
full merge, or no free slot for a placeholder, the merge-check flag is set and MERGE_OVERRUN is
raised to the console. The event ends with the gate's and the drain's tests, which leave a gate
alone that is not IDLE. -/
def Obligations.LaneBreaksFeedTheMerge : Prop :=
  ∀ (i : Lane) (s : State),
    let c : Instr := .laneExitEyeBreak i
    let full : Prop := 12 ≤ s.gate.merge.length + (if s.gate.atGate.isSome then 1 else 0)
    let overrun (r : OverrunReason) : State :=
      raiseTo .console (.mergeOverrun i r) { s with gate := { s.gate with mergeCheck := true } }
    (∀ n rest, s.laneQueue i = n :: rest → ¬ full →
      let u := updateTicket n (fun t => { t with state := .merged }) s
      exec c s = done (settle s { u with gate := { s.gate with
        laneQueues := vset s.gate.laneQueues i rest, merge := s.gate.merge ++ [n] } })) ∧
    (full → exec c s = done (settle s (overrun .mergeFull))) ∧
    (s.laneQueue i = [] → ¬ full → s.freeSlots = 0 → exec c s = done (settle s (overrun .noSlot))) ∧
    (s.laneQueue i = [] → ¬ full → s.freeSlots ≠ 0 →
      let n := s.nextNumber
      let u := addTicket { number := n, kind := .unpaid, state := .merged, baseRow := none, addOns := []
                           features := 0, cap := 1000, price := 0, origin := .lane i
                           receipt := none, tag := none, credit := none }
        { s with sales := { s.sales with lastNumber := n } }
      exec c s = done (settle s (joinMergeTail n u))) ∧
    (∀ u : State, s.gate.state ≠ .idle → u.gate.state ≠ .idle → settle s u = u)

/-- R51, R52, R54, R72, R77, R78: GATE's tests in IDLE, as OFFER makes them. With the merge-check
flag set the gate is HELD for MERGE_CHECK; an UNPAID head becomes AT_GATE and the gate is HELD for
UNPAID; each hold raises GATE_HOLD. With conditions 1 to 5 and the conveyor RUNNING the head becomes
AT_GATE and the offer timer starts, or the load begins at once when the tire switch is closed. When
the conveyor is parked instead, it is unparked: while it is STOPPING it goes on to rest; from
STOPPED it warns, and with WarnTime 0 it passes to RUNNING, where the offer is made in the same
event; with the chain open it stays STOPPED. With none of these nothing happens, nor in another
state. -/
def Obligations.OfferTestsTheIdleGate : Prop :=
  ∀ s : State,
    let unpaid (n : Nat) : Prop := ∃ t, s.ticket? n = some t ∧ t.kind = .unpaid
    let gap : Prop := s.track.roster = [] ∨ ∃ c l, s.track.roster.getLast? = some c ∧
      c.length = some l ∧ (s.settings.timing.minGap : Int) ≤ (c.front : Int) - (l : Int)
    let wanted : Prop := (s.mode = .openMode ∨ s.mode = .draining) ∧ s.halt.state = .running ∧
      s.track.roster.length < 20 ∧ (∃ n rest, s.gate.merge = n :: rest ∧ ¬ unpaid n) ∧ gap
    let park : Timer := if s.conv.state = .running ∧ s.track.roster = [] then .stopped
      else s.conv.parkTimer
    let offered (n : Nat) (rest : List Nat) : Gate :=
      if s.inputs.tireClosed = true then
        { s.gate with state := .loading, merge := rest, atGate := some n, offerTimer := .stopped
                      rollerTimer := .running 50000, loadCount := 0 }
      else
        { s.gate with state := .offer, merge := rest, atGate := some n
                      offerTimer := .running (s.settings.timing.offerTime * 100000) }
    (s.gate.state ≠ .idle → exec .offer s = done s) ∧
    (s.gate.state = .idle → s.gate.mergeCheck = true →
      exec .offer s = done (raiseTo .console (.gateHold .mergeCheck (s.gate.merge.headD 0)) { s with
        gate := { s.gate with state := .held .mergeCheck }
        conv := { s.conv with parkTimer := park } })) ∧
    (s.gate.state = .idle → s.gate.mergeCheck = false →
      (∀ n rest, s.gate.merge = n :: rest → unpaid n →
        let u := updateTicket n (fun t => { t with state := .atGate }) s
        exec .offer s = done (raiseTo .console (.gateHold .unpaid n) { u with
          gate := { s.gate with state := .held .unpaid, merge := rest, atGate := some n }
          conv := { s.conv with parkTimer := park } })) ∧
      (∀ n rest, s.gate.merge = n :: rest → wanted → s.conv.state = .running →
        let u := updateTicket n (fun t => { t with state := .atGate }) s
        exec .offer s = done { u with
          gate := offered n rest, conv := { s.conv with parkTimer := park } }) ∧
      (wanted → s.conv.parked = true → s.conv.state = .stopping →
        exec .offer s = done { s with conv := { s.conv with parked := false } }) ∧
      (wanted → s.conv.parked = true → s.conv.state = .stopped → s.inputs.chainClosed = true →
        s.settings.timing.warnTime ≠ 0 →
        exec .offer s = done { s with conv := { s.conv with
          parked := false, state := .warning
          warnTimer := .running (s.settings.timing.warnTime * 100000) } }) ∧
      (∀ n rest, s.gate.merge = n :: rest → wanted → s.conv.parked = true →
        s.conv.state = .stopped → s.inputs.chainClosed = true → s.settings.timing.warnTime = 0 →
        let u := updateTicket n (fun t => { t with state := .atGate }) s
        exec .offer s = done { u with
          gate := offered n rest
          conv := { s.conv with
            parked := false, state := .running, warnTimer := .stopped
            stallTimer := .running (s.settings.timing.stallTime * 100) } }) ∧
      (wanted → s.conv.parked = true → s.conv.state = .stopped → s.inputs.chainClosed = false →
        exec .offer s = done { s with conv := { s.conv with parked := false } }) ∧
      (wanted → s.conv.parked = false → s.conv.state ≠ .running → exec .offer s = done s) ∧
      (¬ wanted → (∀ n rest, s.gate.merge = n :: rest → ¬ unpaid n) → exec .offer s = done s))

/-- R53, R54, R55: what happens at an offer and during a load. The expiry of a running offer timer
holds the gate for OFFER_EXPIRED, with GATE_HOLD; the tire switch closing in OFFER under RUNNING
starts the load, with the roller up for 500 ms; the roller-up timer's expiry takes the roller down.
When the load distance counter has passed LoadDistance, LOAD_MISS stops the tunnel and the gate is
in OFFER again with the same ticket, its timer restarted and paused. -/
def Obligations.OffersExpireLoadOrMiss : Prop :=
  ∀ s : State,
    (∀ n left, s.gate.state = .offer → s.gate.atGate = some n → s.gate.offerTimer = .running left →
      exec .offerTimerExpiry s = done (raiseTo .console (.gateHold .offerExpired n) { s with
        gate := { s.gate with state := .held .offerExpired, offerTimer := .stopped } })) ∧
    ((s.gate.state ≠ .offer ∨ ∀ left, s.gate.offerTimer ≠ .running left) →
      exec .offerTimerExpiry s = done s) ∧
    (let u : State := { s with inputs := { s.inputs with tireClosed := true } }
     (s.gate.state = .offer → s.halt.state = .running → exec .tireSwitchCloses s = done { u with
       gate := { s.gate with state := .loading, offerTimer := .stopped, rollerTimer := .running 50000
                             loadCount := 0 } }) ∧
     (s.gate.state ≠ .offer ∨ s.halt.state ≠ .running → exec .tireSwitchCloses s = done u)) ∧
    exec .tireSwitchOpens s = done { s with inputs := { s.inputs with tireClosed := false } } ∧
    (∀ left, s.gate.rollerTimer = .running left → exec .rollerUpTimerExpiry s =
      done { s with gate := { s.gate with rollerTimer := .stopped } }) ∧
    (∀ n, s.causesFit → s.gate.state = .loading → s.gate.atGate = some n →
      s.settings.timing.loadDistance < s.gate.loadCount →
      ∃ t, exec .loadDistancePassed s = .next t ∧ t.halt.state = .stopped ∧
        t.hasCause .loadMiss = true ∧ t.gate.state = .offer ∧ t.gate.atGate = some n ∧
        t.gate.offerTimer = .paused (s.settings.timing.offerTime * 100000) ∧ t.out.goLamp = false ∧
        (s.halt.state = .running → ∃ ep older, t.halt.history = ep :: older ∧
          ep.first = .loadMiss ∧ ep.subject = .ticket n ∧ ep.closing = none)) ∧
    ((s.gate.state ≠ .loading ∨ s.gate.loadCount ≤ s.settings.timing.loadDistance) →
      exec .loadDistancePassed s = done s)

/-- R56, R57, R60, R92, R110: a break of the entry eye. In LOADING it appends the ticket AT_GATE to
the roster as a new car, RIDING, with the flags of the eyes already broken, and the gate measures
it. In MEASURING the settle count joins the measuring count, whatever the settle count is (log entry
26, the model's reading), past MaxLen with TAILGATE, and after a TAILGATE it joins nothing. In IDLE,
OFFER, SPACING and HELD it is an intrusion, which stops the tunnel and leaves the gate as it was. A
restore notes the measuring count and starts the settle count. At rest under HOLDING or STOPPED
either change sets the moved flag, and under HOLDING it stops the tunnel with ROSTER_MOVED. -/
def Obligations.EntryEyeMeasuresTheCar : Prop :=
  ∀ s : State,
    let resting : Prop := s.conv.state = .stopped ∧ s.halt.state ≠ .running
    (∀ n tk, s.gate.state = .loading → s.gate.atGate = some n → s.ticket? n = some tk →
      ∃ t, exec .entryEyeBreak s = .next t ∧ t.inputs.entryEye = true ∧
        t.track.roster.map (fun c => (c.ticket, c.front, c.length, c.flags, c.marks, c.exitMark)) =
          s.track.roster.map (fun c => (c.ticket, c.front, c.length, c.flags, c.marks, c.exitMark)) ++
          [(n, 0, none, ⟨s.inputs.heightEye, s.inputs.widthEye, false⟩, Vector.replicate 4 false,
            false)] ∧
        t.ticket? n = some { tk with state := .riding } ∧
        (∀ m, m ≠ n → t.ticket? m = s.ticket? m) ∧
        t.gate = { s.gate with state := .measuring, atGate := none, measCount := 0, restoreCount := 0
                               settleCount := 0, tailgated := false }) ∧
    (s.gate.state = .measuring → s.gate.tailgated = false →
      s.gate.measCount + s.gate.settleCount ≤ s.settings.timing.maxLen →
      ∃ t, exec .entryEyeBreak s = .next t ∧ t.gate = { s.gate with
        measCount := s.gate.measCount + s.gate.settleCount, settleCount := 0 } ∧
        t.inputs.entryEye = true) ∧
    (s.causesFit → s.gate.state = .measuring → s.gate.tailgated = false →
      s.settings.timing.maxLen < s.gate.measCount + s.gate.settleCount →
      ∃ t, exec .entryEyeBreak s = .next t ∧ t.halt.state = .stopped ∧
        t.hasCause .tailgate = true ∧ t.gate = { s.gate with
          measCount := s.settings.timing.maxLen + 1, settleCount := 0, tailgated := true }) ∧
    (s.gate.state = .measuring → s.gate.tailgated = true →
      ∃ t, exec .entryEyeBreak s = .next t ∧ t.gate = { s.gate with settleCount := 0 }) ∧
    (s.causesFit → (s.gate.state = .offer ∨ s.gate.state = .spacing ∨ ∃ r, s.gate.state = .held r) →
      ∃ t, exec .entryEyeBreak s = .next t ∧ t.halt.state = .stopped ∧
        t.hasCause .entryIntrusion = true ∧ t.gate.state = s.gate.state ∧
        t.gate.atGate = s.gate.atGate ∧ t.gate.merge = s.gate.merge) ∧
    (s.causesFit → s.gate.state = .idle →
      ∃ t, exec .entryEyeBreak s = .next t ∧ t.halt.state = .stopped ∧
        t.hasCause .entryIntrusion = true ∧
        (s.gate.mergeCheck = false → (∀ n rest tk, s.gate.merge = n :: rest →
          s.ticket? n = some tk → tk.kind ≠ .unpaid) → t.gate = s.gate)) ∧
    ((s.conv.state ≠ .stopped ∨ s.halt.state ≠ .holding) →
      exec .entryEyeRestore s = done { s with
        inputs := { s.inputs with entryEye := false }
        track := { s.track with moved :=
          if s.conv.state = .stopped ∧ s.halt.state = .stopped then true else s.track.moved }
        gate := if s.gate.state = .measuring then
            { s.gate with restoreCount := s.gate.measCount, settleCount := 0 }
          else s.gate }) ∧
    (resting → s.causesFit →
      (∃ t, exec .entryEyeBreak s = .next t ∧ t.track.moved = true ∧ t.halt.state = .stopped ∧
        (s.halt.state = .holding → t.hasCause .rosterMoved = true)) ∧
      ∃ t, exec .entryEyeRestore s = .next t ∧ t.inputs.entryEye = false ∧ t.track.moved = true ∧
        t.halt.state = .stopped ∧ (s.halt.state = .holding → t.hasCause .rosterMoved = true) ∧
        (s.gate.state = .measuring →
          t.gate = { s.gate with restoreCount := s.gate.measCount, settleCount := 0 }))

/-- R57 to R60: the settle count at Settle fixes the newest car's length at the count at restore, or
at MinLen with the flag SHORT, and the gate waits in SPACING; a measuring count past MaxLen raises
TAILGATE and stands at MaxLen + 1, and the RESUME that ends that stop fixes the length at MaxLen
without SHORT. R62: on a pulse that opens the gap SPACING becomes IDLE, and otherwise it stays.
While the gate is MEASURING with the entry eye broken, a break of the height eye adds TALL to the
newest car and one of the width eye adds WIDE; otherwise, and at the restores, only the level
changes. -/
def Obligations.MeasuringFixesLengthAndFlags : Prop :=
  ∀ s : State,
    let view (r : List Car) := r.map (fun c => (c.ticket, c.front, c.length, c.flags))
    (∀ older c, s.track.roster = older ++ [c] → s.gate.state = .measuring → s.gate.tailgated = false →
      s.inputs.entryEye = false → s.settings.timing.settle ≤ s.gate.settleCount →
      let short := decide (s.gate.restoreCount < s.settings.timing.minLen)
      let len := if short then s.settings.timing.minLen else s.gate.restoreCount
      (c.front : Int) - (len : Int) < s.settings.timing.minGap →
      ∃ t, exec .settleReached s = .next t ∧ t.gate.state = .spacing ∧
        view t.track.roster = view older ++
          [(c.ticket, c.front, some len, { c.flags with short := c.flags.short || short })]) ∧
    (s.causesFit → s.gate.state = .measuring → s.gate.tailgated = false →
      s.settings.timing.maxLen + 1 ≤ s.gate.measCount →
      ∃ t, exec .maxLenReached s = .next t ∧ t.halt.state = .stopped ∧ t.hasCause .tailgate = true ∧
        t.gate = { s.gate with measCount := s.settings.timing.maxLen + 1, tailgated := true } ∧
        (∀ older c, s.track.roster = older ++ [c] → s.halt.state = .running → ∃ ep rest,
          t.halt.history = ep :: rest ∧ ep.first = .tailgate ∧ ep.subject = .ticket c.ticket)) ∧
    (∀ tag older c, s.takes .console → s.mode ≠ .lockout → s.halt.state = .stopped →
      s.track.moved = false → s.inputs.chainClosed = true → s.inputs.driveFault = false →
      s.hasCause .armStuck = false → s.track.roster = older ++ [c] → s.gate.state = .measuring →
      s.gate.tailgated = true →
      (c.front : Int) - (s.settings.timing.maxLen : Int) < s.settings.timing.minGap →
      ∃ t, exec (.resume .console tag []) s = .next t ∧ t.gate.state = .spacing ∧
        t.gate.tailgated = false ∧ view t.track.roster = view older ++
          [(c.ticket, c.front, some s.settings.timing.maxLen, c.flags)]) ∧
    (∀ elapsed older c l, s.gate.state = .spacing → s.track.roster = older ++ [c] →
      c.length = some l → s.inputs.exitEye = true → (∀ x ∈ s.track.roster, x.front < 16383) →
      ∃ t, exec (.encoderPulse elapsed) s = .next t ∧
        ((c.front : Int) + 1 - (l : Int) < s.settings.timing.minGap → t.gate.state = .spacing) ∧
        ((s.settings.timing.minGap : Int) ≤ (c.front : Int) + 1 - (l : Int) →
          t.gate.state ≠ .spacing ∧
          (s.gate.merge = [] → s.gate.mergeCheck = false → t.gate.state = .idle))) ∧
    (∀ older c, s.track.roster = older ++ [c] → s.gate.state = .measuring →
      s.inputs.entryEye = true →
      (∃ t, exec .heightEyeBreak s = .next t ∧ t.inputs.heightEye = true ∧ view t.track.roster =
        view older ++ [(c.ticket, c.front, c.length, { c.flags with
          tall := true, wide := c.flags.wide || s.inputs.widthEye })]) ∧
      (∃ t, exec .widthEyeBreak s = .next t ∧ t.inputs.widthEye = true ∧ view t.track.roster =
        view older ++ [(c.ticket, c.front, c.length, { c.flags with
          wide := true, tall := c.flags.tall || s.inputs.heightEye })])) ∧
    ((s.gate.state ≠ .measuring ∨ s.inputs.entryEye = false) →
      exec .heightEyeBreak s = done { s with inputs := { s.inputs with heightEye := true } } ∧
      exec .widthEyeBreak s = done { s with inputs := { s.inputs with widthEye := true } }) ∧
    exec .heightEyeRestore s = done { s with inputs := { s.inputs with heightEye := false } } ∧
    exec .widthEyeRestore s = done { s with inputs := { s.inputs with widthEye := false } }

/-- R48, R63 to R67: PLACE moves a LANE_QUEUED ticket to the tail of the merge queue. A decision
allowed for the hold is carried out and the gate is IDLE, where its tests apply at once: RETRY
returns the ticket AT_GATE to the head of the merge queue, MERGED, or clears the flag; WAVE returns
it there as a free one of row WaveRow; SELL puts a new CONSOLE_SOLD ticket with the price of R8,
counted, in its slot and at the head of the merge queue; REMOVE takes the ticket out with result
REMOVED. Any other decision is WRONG_STATE, and a decision code above 3 OUT_OF_RANGE in every state
of the gate: no row of the table brings such a frame but FRAME_HELD, which a FREE port takes (log
entry 11). -/
def Obligations.TheConsoleDecides : Prop :=
  ∀ (tag row : Byte) (s : State), s.takes .console → s.mode ≠ .lockout →
    let h := hunt .console s
    let reply (results : List Byte) (u : State) : Answer :=
      answered .console 0x24 tag .ok results
        (settle h { u with gate := { u.gate with state := .idle } })
    let wrong : Answer := answered .console 0x24 tag .wrongState [] h
    let atHead (n : Nat) : Gate := { s.gate with merge := n :: s.gate.merge, atGate := none }
    (∀ n : Nat, n < 65536 →
      (∀ t, s.ticket? n = some t → t.state = .laneQueued →
        (12 ≤ s.gate.merge.length + (if s.gate.atGate.isSome then 1 else 0) →
          exec (.place .console tag (u16 n)) s = answered .console 0x25 tag .full [] h) ∧
        (s.gate.merge.length + (if s.gate.atGate.isSome then 1 else 0) < 12 →
          exec (.place .console tag (u16 n)) s = answered .console 0x25 tag .ok (u16 n)
            (settle h { updateTicket n (fun t => { t with state := .merged }) h with
              gate := { s.gate with
                laneQueues := s.gate.laneQueues.map (fun q => q.filter (fun x => x ≠ n))
                merge := s.gate.merge ++ [n] } }))) ∧
      ((∀ t, s.ticket? n = some t → t.state ≠ .laneQueued) →
        exec (.place .console tag (u16 n)) s = answered .console 0x25 tag .notFound [] h)) ∧
    (∀ n, s.gate.state = .held .offerExpired → s.gate.atGate = some n →
      exec (.retry .console tag [row]) s = reply (u16 n)
        { updateTicket n (fun t => { t with state := .merged }) h with gate := atHead n } ∧
      exec (.wave .console tag [row]) s = wrong ∧ exec (.sell .console tag [row]) s = wrong ∧
      exec (.remove .console tag [row]) s = reply (u16 n)
        (retireTicket n .removed { h with gate := { s.gate with atGate := none } })) ∧
    (s.gate.state = .held .mergeCheck →
      exec (.retry .console tag [row]) s = reply (u16 (s.gate.merge.headD 0))
        { h with gate := { s.gate with mergeCheck := false } } ∧
      exec (.wave .console tag [row]) s = wrong ∧ exec (.sell .console tag [row]) s = wrong ∧
      (∀ n rest, s.gate.merge = n :: rest → exec (.remove .console tag [row]) s = reply (u16 n)
        (retireTicket n .removed { h with gate := { s.gate with
          merge := rest, mergeCheck := false } })) ∧
      (s.gate.merge = [] → exec (.remove .console tag [row]) s =
        answered .console 0x24 tag .notFound [] h)) ∧
    (∀ n, s.gate.state = .held .unpaid → s.gate.atGate = some n →
      let w := s.settings.timing.waveRow
      exec (.retry .console tag [row]) s = wrong ∧
      exec (.wave .console tag [row]) s = reply (u16 n)
        { updateTicket n (fun t => { t with
            kind := .waved, state := .merged, baseRow := some w, features := (s.row w).features
            cap := (s.row w).cap, price := 0 }) h with gate := atHead n } ∧
      (31 < row.toNat → exec (.sell .console tag [row]) s =
        answered .console 0x24 tag .outOfRange [] h) ∧
      (∀ r : Row, r.val = row.toNat →
        ((s.row r).active = false ∨ (s.row r).kind ≠ .plan → exec (.sell .console tag [row]) s =
          answered .console 0x24 tag .notSellable [] h) ∧
        ((s.row r).active = true → (s.row r).kind = .plan → s.creditsFit →
          let pr := priceOf (s.row r) [] s.discount
          let m := (freeTicket n s).nextNumber
          let sold : Ticket := { number := m, kind := .consoleSold, state := .merged
                                 baseRow := some r, addOns := [], features := pr.features
                                 cap := pr.cap, price := pr.total, origin := .console
                                 receipt := none, tag := none, credit := none }
          exec (.sell .console tag [row]) s = reply (u16 m ++ u16 pr.total ++ u8 pr.percent)
            { h with
              gate := atHead m
              sales := { s.sales with
                lastNumber := m
                slots := s.sales.slots.map (fun o => o.map (fun x =>
                  if x.number = n then sold else x))
                totals := (countRow r (pr.lines.headD 0) s).sales.totals } })) ∧
      exec (.remove .console tag [row]) s = reply (u16 n)
        (retireTicket n .removed { h with gate := { s.gate with atGate := none } })) ∧
    ((∀ r, s.gate.state ≠ .held r) →
      exec (.retry .console tag [row]) s = wrong ∧ exec (.wave .console tag [row]) s = wrong ∧
      exec (.sell .console tag [row]) s = wrong ∧ exec (.remove .console tag [row]) s = wrong) ∧
    (∀ d : Byte, 3 < d.toNat → exec (.frameHeld .console 0x24 tag [d, row]) s =
      answered .console 0x24 tag .outOfRange [] h)

/-! ## The roster (spec/05_the_roster.md) -/

/-- R79, R80, R94, R95, R55, R57: an encoder pulse, elapsed units after the command before it (that
the pulse carries this time is log entry 2, and that CONV, TRACK, STN and GATE act in this order,
with one evaluation at the new averaged period, is log entry 5: both are the model's choice), with
no car at the position limit and none overdue at an open exit eye: the pulse total grows by one,
every car's front advances by one, the interval is recorded in RUNNING and STOPPING and the gate's
counter of its state grows by one. R103: a car whose advanced front passes the exit window, or the
window of a used checkpoint, with that mark UNSEEN raises SLIP, which stops the tunnel, and has the
mark SEEN from then on. R118, R75, R76, R62: a pulse that brings no slip, with the exit eye unbroken
and the gate neither LOADING nor MEASURING, records the interval outside STOPPED, WARNING included,
restarts the stall timer in RUNNING and the at-rest timer in STOPPING, then evaluates every station
on the advanced cars, then tests the gate's spacing. R95, R61: a car at the position limit leaves
the roster under SLIP, with the exit eye broken or restored, and the gate abandons its measurement.
R105: while the exit eye is restored, every car whose rear has passed the exit window leaves it. -/
def Obligations.PulsesAdvanceEveryCar : Prop :=
  (∀ (elapsed : Nat) (s : State),
    (∀ c ∈ s.track.roster, c.front < 16383) →
    (s.inputs.exitEye = true ∨ ∀ c ∈ s.track.roster, ∀ l, c.length = some l →
      (c.front : Int) + 1 - (l : Int) ≤ s.settings.geometry.exitPos + s.settings.geometry.exitTol) →
    ∃ t, exec (.encoderPulse elapsed) s = .next t ∧
      t.now = s.now + elapsed ∧ t.conv.pulseTotal = s.conv.pulseTotal + 1 ∧
      t.track.roster.map (fun c => (c.ticket, c.front)) =
        s.track.roster.map (fun c => (c.ticket, c.front + 1)) ∧
      (s.conv.state = .running ∨ s.conv.state = .stopping →
        t.conv.mark = some (s.now + elapsed) ∧
        (∀ m, s.conv.mark = some m → t.conv.samples =
          (max 50 (min 65535 (s.now + elapsed - m)) :: s.conv.samples).take 4) ∧
        (s.conv.mark = none → t.conv.samples = s.conv.samples)) ∧
      (s.gate.state = .loading → s.gate.loadCount + 1 ≤ s.settings.timing.loadDistance →
        t.gate.state = .loading ∧ t.gate.loadCount = s.gate.loadCount + 1) ∧
      (s.gate.state = .measuring → s.gate.tailgated = false → s.inputs.entryEye = true →
        s.gate.measCount + 1 ≤ s.settings.timing.maxLen →
        t.gate.state = .measuring ∧ t.gate.measCount = s.gate.measCount + 1) ∧
      (s.gate.state = .measuring → s.gate.tailgated = false → s.inputs.entryEye = false →
        s.gate.measCount ≤ s.settings.timing.maxLen →
        s.gate.settleCount + 1 < s.settings.timing.settle →
        t.gate.state = .measuring ∧ t.gate.settleCount = s.gate.settleCount + 1)) ∧
  (∀ (elapsed : Nat) (s : State), ∃ t, exec (.encoderPulse elapsed) s = .next t ∧
    ∀ c ∈ s.track.roster,
      let slipped (seen : Car → Prop) : Prop :=
        t.hasCause .slip = true ∧ (s.causesFit → t.halt.state = .stopped) ∧
        ((s.track.roster.map (fun x => x.ticket)).Nodup →
          ∀ d ∈ t.track.roster, d.ticket = c.ticket → seen d)
      (c.exitMark = false →
        s.settings.geometry.exitPos + s.settings.geometry.exitTol < c.front + 1 →
        slipped (fun d => d.exitMark = true)) ∧
      ∀ (k : Checkpoint) (g : CheckpointCfg), s.settings.geometry.checkpoints[k.val]? = some g →
        c.marks[k] = false → g.position + g.tolerance < c.front + 1 →
        slipped (fun d => d.marks[k] = true)) ∧
  (∀ (elapsed : Nat) (s : State),
    s.inputs.exitEye = false → s.gate.state ≠ .loading → s.gate.state ≠ .measuring →
    (∀ c ∈ s.track.roster, c.front < 16383 ∧
      (c.exitMark = false →
        c.front + 1 ≤ s.settings.geometry.exitPos + s.settings.geometry.exitTol) ∧
      (∀ (k : Checkpoint) (g : CheckpointCfg), s.settings.geometry.checkpoints[k.val]? = some g →
        c.marks[k] = false → c.front + 1 ≤ g.position + g.tolerance) ∧
      (∀ l, c.length = some l → (c.front : Int) + 1 - (l : Int) ≤
        s.settings.geometry.exitPos + s.settings.geometry.exitTol)) →
    let a := advance elapsed s
    let u : State := { a with
      conv := { a.conv with
        pulseTotal := s.conv.pulseTotal + 1
        mark := if s.conv.state = .stopped then s.conv.mark else some (s.now + elapsed)
        samples := (match s.conv.mark with
          | none => s.conv.samples
          | some m => if s.conv.state = .stopped then s.conv.samples
            else (max 50 (min 65535 (s.now + elapsed - m)) :: s.conv.samples).take 4)
        stallTimer := if s.conv.state = .running then
            .running (s.settings.timing.stallTime * 100)
          else a.conv.stallTimer
        restTimer := if s.conv.state = .stopping then .running 100000 else a.conv.restTimer }
      track := { s.track with
        roster := s.track.roster.map (fun c => { c with front := c.front + 1 }) } }
    exec (.encoderPulse elapsed) s = done (settle s
      (if s.gate.state = .spacing then testSpacing (evaluate u) else evaluate u))) ∧
  (∀ (elapsed : Nat) (c : Car) (rest : List Car) (tk : Ticket) (s : State),
    s.track.roster = c :: rest → c.front = 16383 → (∀ d ∈ rest, d.front < 16383) →
    (s.track.roster.map (fun x => x.ticket)).Nodup → s.ticket? c.ticket = some tk →
    s.causesFit →
    (s.inputs.exitEye = true ∨ ∀ d ∈ rest, ∀ l, d.length = some l →
      (d.front : Int) + 1 - (l : Int) ≤ s.settings.geometry.exitPos + s.settings.geometry.exitTol) →
    ∃ t, exec (.encoderPulse elapsed) s = .next t ∧
      t.track.roster.map (fun x => (x.ticket, x.front)) =
        rest.map (fun x => (x.ticket, x.front + 1)) ∧
      t.ticket? c.ticket = none ∧ t.hasCause .slip = true ∧ t.halt.state = .stopped ∧
      (s.gate.state = .measuring → c.length = none → t.gate.state ≠ .measuring ∧
        t.gate.measCount = 0 ∧ t.gate.restoreCount = 0 ∧ t.gate.settleCount = 0)) ∧
  (∀ (elapsed : Nat) (s : State), s.inputs.exitEye = false →
    (∀ c ∈ s.track.roster, c.front < 16383) → (s.track.roster.map (fun x => x.ticket)).Nodup →
    let overdue (c : Car) : Bool := match c.length with
      | none => false
      | some l => decide ((s.settings.geometry.exitPos : Int) + s.settings.geometry.exitTol <
          (c.front : Int) + 1 - (l : Int))
    ∃ t, exec (.encoderPulse elapsed) s = .next t ∧
      t.track.roster.map (fun c => (c.ticket, c.front)) =
        (s.track.roster.filter (fun c => !overdue c)).map (fun c => (c.ticket, c.front + 1)) ∧
      ∀ c ∈ s.track.roster, overdue c = true → t.ticket? c.ticket = none)

/-- R98 to R101, R110: a break of a checkpoint eye. An unused eye is ignored. Outside STOPPED the
oldest car in the window with its mark UNSEEN becomes SEEN, and its front is set to the eye's
position when that keeps the order law, else CROWDING stops the tunnel. With no candidate a seen car
that spans the eye accounts for the break, else GHOST stops the tunnel. At rest a break, and so a
restore, sets the moved flag under STOPPED and has no effect under RUNNING; under HOLDING it sets
the flag and stops the tunnel with ROSTER_MOVED, which joins the further causes of the open
episode. -/
def Obligations.CheckpointBreaksAreVerified : Prop :=
  ∀ (k : Checkpoint) (s : State),
    let view (c : Car) := (c.ticket, c.front, c.marks, c.exitMark, c.length)
    let seen (c : Car) : Car := { c with marks := vset c.marks k true }
    let u (b : Bool) : State := { s with inputs := { s.inputs with
      checkpointEyes := vset s.inputs.checkpointEyes k b } }
    let moved (x : State) : State := { x with track := { x.track with moved := true } }
    (s.settings.geometry.checkpoints.length ≤ k.val →
      exec (.checkpointEyeBreak k) s = done (u true) ∧
      exec (.checkpointEyeRestore k) s = done (u false)) ∧
    (∀ g, s.settings.geometry.checkpoints[k.val]? = some g →
      let inWindow (c : Car) : Prop := c.marks[k] = false ∧ g.position ≤ c.front + g.tolerance ∧
        c.front ≤ g.position + g.tolerance
      let spans (c : Car) : Prop := c.marks[k] = true ∧
        (g.position : Int) - g.tolerance ≤ c.front ∧ c.rear ≤ (g.position : Int) + g.tolerance
      (s.conv.state ≠ .stopped →
        (∀ older c newer, s.track.roster = older ++ c :: newer → (∀ o ∈ older, ¬ inWindow o) →
          inWindow c →
          let keeps : Prop := (∀ o, older.getLast? = some o → (g.position : Int) < o.rear) ∧
            (∀ l, c.length = some l →
              (∀ n, newer.head? = some n → (n.front : Int) < (g.position : Int) - l) ∧
              (newer = [] → (0 : Int) < (g.position : Int) - l))
          (keeps → ∃ t, exec (.checkpointEyeBreak k) s = .next t ∧
            t.track.roster.map view =
              (older ++ { seen c with front := g.position } :: newer).map view) ∧
          (¬ keeps → s.causesFit → ∃ t, exec (.checkpointEyeBreak k) s = .next t ∧
            t.track.roster.map view = (older ++ seen c :: newer).map view ∧
            t.halt.state = .stopped ∧ t.hasCause .crowding = true)) ∧
        ((∀ c ∈ s.track.roster, ¬ inWindow c) →
          ((∃ c ∈ s.track.roster, spans c) →
            exec (.checkpointEyeBreak k) s = done (settle s (u true))) ∧
          ((∀ c ∈ s.track.roster, ¬ spans c) → s.causesFit →
            ∃ t, exec (.checkpointEyeBreak k) s = .next t ∧ t.halt.state = .stopped ∧
              t.hasCause .ghost = true ∧ t.track.roster.map view = s.track.roster.map view)) ∧
        exec (.checkpointEyeRestore k) s = done (u false)) ∧
      (s.conv.state = .stopped → s.halt.state = .stopped →
        exec (.checkpointEyeBreak k) s = done (settle s (moved (u true))) ∧
        exec (.checkpointEyeRestore k) s = done (moved (u false))) ∧
      (s.conv.state = .stopped → s.halt.state = .running →
        exec (.checkpointEyeBreak k) s = done (settle s (u true)) ∧
        exec (.checkpointEyeRestore k) s = done (u false)) ∧
      (s.conv.state = .stopped → s.halt.state = .holding → s.causesFit →
        let stops (c : Instr) : Prop := ∃ t, exec c s = .next t ∧ t.track.moved = true ∧
          t.halt.state = .stopped ∧ t.hasCause .rosterMoved = true ∧
          t.track.roster.map view = s.track.roster.map view ∧
          ∀ ep older, s.halt.history = ep :: older → ep.closing = none → ep.first ≠ .rosterMoved →
            t.halt.history = { ep with further :=
              ep.further ||| BitVec.ofNat 16 (2 ^ Cause.rosterMoved.code) } :: older
        stops (.checkpointEyeBreak k) ∧ stops (.checkpointEyeRestore k)))

/-- R98, R101, R102, R104, R107, R109, R110, R142: a verified break of the exit eye marks the oldest
candidate SEEN, or raises GHOST when no candidate and no seen car accounts for it. A restore removes
the cleared cars, oldest first, and takes EXIT_BLOCKED out of the cause set: from HOLDING the tunnel
runs again, and the episode closes, ended by AUTO; at rest this is so when the restore removes a
car, and the moved flag stays; one that removes none stops a held tunnel with ROSTER_MOVED, as a
break at rest does. The removed car's result is PARTIAL when a status is MISSED or PENDING, and else
FULL. On a pulse with the exit eye broken, no seen car in it and an unseen one at the guard line,
the tunnel is held under EXIT_BLOCKED with that car as subject. -/
def Obligations.ExitBreaksAndRestores : Prop :=
  (∀ s : State,
    let x := s.settings.geometry.exitPos
    let tx := s.settings.geometry.exitTol
    let view (c : Car) := (c.ticket, c.front, c.marks, c.exitMark, c.length)
    let inWindow (c : Car) : Prop := c.exitMark = false ∧ x ≤ c.front + tx ∧ c.front ≤ x + tx
    let spans (c : Car) : Prop :=
      c.exitMark = true ∧ (x : Int) - tx ≤ c.front ∧ c.rear ≤ (x : Int) + tx
    let cleared (c : Car) : Prop := c.exitMark = true ∧ (x : Int) - tx ≤ c.rear
    (s.conv.state ≠ .stopped → ∃ t, exec .exitEyeBreak s = .next t ∧ t.inputs.exitEye = true ∧
      (∀ older c newer, s.track.roster = older ++ c :: newer → (∀ o ∈ older, ¬ inWindow o) →
        inWindow c → t.track.roster.map view =
          (older ++ { c with exitMark := true } :: newer).map view) ∧
      ((∀ c ∈ s.track.roster, ¬ inWindow c) → t.track.roster.map view = s.track.roster.map view ∧
        ((∀ c ∈ s.track.roster, ¬ spans c) → s.causesFit →
          t.halt.state = .stopped ∧ t.hasCause .ghost = true))) ∧
    ((s.track.roster.map (fun c => c.ticket)).Nodup → ∃ t, exec .exitEyeRestore s = .next t ∧
      t.inputs.exitEye = false ∧ t.hasCause .exitBlocked = false ∧
      t.track.roster.map view = (s.track.roster.dropWhile (fun c => c.exitMark &&
        decide ((x : Int) - tx ≤ c.rear))).map view ∧
      (s.conv.state ≠ .stopped → s.halt.state = .holding → s.causesFit → s.episodesFit →
        t.halt.state = .running ∧ ∃ ep older, t.halt.history = ep :: older ∧
          ep.closing = some (s.stamp, .auto)) ∧
      (∀ c rest tk, s.track.roster = c :: rest → cleared c → s.ticket? c.ticket = some tk →
        t.ticket? c.ticket = none ∧
        (s.conv.state = .stopped → t.track.moved = s.track.moved) ∧
        (s.halt.state = .holding → s.causesFit → s.episodesFit →
          t.halt.state = .running ∧ ∃ ep older, t.halt.history = ep :: older ∧
            ep.closing = some (s.stamp, .auto)) ∧
        ((∀ d newer, rest = d :: newer → ¬ cleared d) →
          let r : Result := if ∃ j : StationIx, c.status j = .missed ∨ c.status j = .pending then
            .partialWash else .full
          t.credits = (retireTicket c.ticket r s).credits ∧
          t.sales.finished = (retireTicket c.ticket r s).sales.finished ∧
          t.memb = (retireTicket c.ticket r s).memb)) ∧
      ((∀ c rest, s.track.roster = c :: rest → ¬ cleared c) → s.conv.state = .stopped →
        s.halt.state ≠ .running → s.causesFit → t.track.moved = true ∧ t.halt.state = .stopped ∧
        (s.halt.state = .holding → t.hasCause .rosterMoved = true))) ∧
    (s.conv.state = .stopped → s.halt.state ≠ .running → s.causesFit →
      ∃ t, exec .exitEyeBreak s = .next t ∧ t.inputs.exitEye = true ∧ t.track.moved = true ∧
        t.halt.state = .stopped ∧ (s.halt.state = .holding → t.hasCause .rosterMoved = true))) ∧
  (∀ (elapsed : Nat) (older newer : List Car) (c : Car) (s : State),
    let x := s.settings.geometry.exitPos
    let tx := s.settings.geometry.exitTol
    s.inputs.exitEye = true → s.halt.state = .running → s.causesFit → s.gate.state ≠ .loading →
    s.gate.state ≠ .measuring → s.track.roster = older ++ c :: newer →
    (∀ d ∈ older, d.exitMark = true) → c.exitMark = false →
    x ≤ c.front + 1 + s.settings.geometry.exitGuard →
    (∀ d ∈ s.track.roster, d.front < 16383 ∧ (d.exitMark = false → d.front + 1 ≤ x + tx) ∧
      (d.exitMark = true → (d.front : Int) + 1 < (x : Int) - tx ∨
        ∃ l, d.length = some l ∧ (x : Int) + tx < (d.front : Int) + 1 - (l : Int)) ∧
      ∀ (k : Checkpoint) (g : CheckpointCfg), s.settings.geometry.checkpoints[k.val]? = some g →
        d.marks[k] = false → d.front + 1 ≤ g.position + g.tolerance) →
    ∃ t, exec (.encoderPulse elapsed) s = .next t ∧ t.halt.state = .holding ∧
      t.hasCause .exitBlocked = true ∧ t.conv.state ≠ .warning ∧ t.conv.state ≠ .running ∧
      ∃ ep past, t.halt.history = ep :: past ∧ ep.first = .exitBlocked ∧
        ep.subject = .ticket c.ticket ∧ ep.closing = none)

/-- R111: CONFIRM ROSTER, in STOPPED, clears the moved flag, whether it was set or not, and
replies OK; in any other halt state it is refused WRONG_STATE, and in LOCKOUT answered LOCKED. It
changes no roster entry, mark or position. -/
def Obligations.ConfirmRosterClearsTheMovedFlag : Prop :=
  ∀ (tag : Byte) (s : State), s.takes .console →
    (s.mode ≠ .lockout → s.halt.state = .stopped → exec (.confirmRoster .console tag []) s =
      answered .console 0x22 tag .ok []
        { hunt .console s with track := { s.track with moved := false } }) ∧
    (s.mode ≠ .lockout → s.halt.state ≠ .stopped → exec (.confirmRoster .console tag []) s =
      answered .console 0x22 tag .wrongState [] (hunt .console s)) ∧
    (s.mode = .lockout → exec (.confirmRoster .console tag []) s =
      answered .console 0x22 tag .locked [] (hunt .console s))

/-- R108, R106: REMOVE CAR in STOPPED takes any car of the roster out with result REMOVED: its
entry goes and those behind keep their order, its ticket leaves the table, and the reply is OK
with the number. In another halt state it is refused WRONG_STATE, and a number that no entry holds
NOT_FOUND. R61: the removal of the car that the gate is measuring takes the gate to IDLE with its
counts at 0; IDLE holds at once for a set merge-check flag or an UNPAID head (R51), and a TAILGATE
stays in the cause set. -/
def Obligations.RemoveCarTakesACarOut : Prop :=
  ∀ (tag : Byte) (n : Nat) (s : State), s.takes .console → s.mode ≠ .lockout → n < 65536 →
    let c : Instr := .removeCar .console tag (u16 n)
    (s.halt.state ≠ .stopped →
      exec c s = answered .console 0x23 tag .wrongState [] (hunt .console s)) ∧
    (s.halt.state = .stopped → (∀ x ∈ s.track.roster, x.ticket ≠ n) →
      exec c s = answered .console 0x23 tag .notFound [] (hunt .console s)) ∧
    (s.halt.state = .stopped → (∃ x ∈ s.track.roster, x.ticket = n) → ∃ t, exec c s = .next t ∧
      (t.port .console).request = .replying ⟨0xA3, tag, u8 0 ++ u16 n⟩ ∧
      t.track.roster.map (fun x => (x.ticket, x.front, x.marks, x.exitMark, x.length)) =
        (s.track.roster.filter (fun x => x.ticket ≠ n)).map
          (fun x => (x.ticket, x.front, x.marks, x.exitMark, x.length)) ∧
      t.ticket? n = none ∧ t.credits = (retireTicket n .removed s).credits ∧
      t.sales.finished = (retireTicket n .removed s).sales.finished ∧
      t.memb = (retireTicket n .removed s).memb ∧ t.track.moved = s.track.moved ∧
      (s.gate.state = .measuring → (∃ x ∈ s.track.roster, x.ticket = n ∧ x.length = none) →
        (t.gate.measCount = 0 ∧ t.gate.restoreCount = 0 ∧ t.gate.settleCount = 0 ∧
          t.gate.tailgated = false) ∧
        (s.hasCause .tailgate = true → t.hasCause .tailgate = true) ∧
        (s.gate.mergeCheck = true → t.gate.state = .held .mergeCheck) ∧
        (∀ m rest x, s.gate.mergeCheck = false → s.gate.merge = m :: rest → m ≠ n →
          s.ticket? m = some x → x.kind = .unpaid →
          t.gate.state = .held .unpaid ∧ t.gate.atGate = some m) ∧
        (s.gate.mergeCheck = false → (∀ m rest x, s.gate.merge = m :: rest → s.ticket? m = some x →
          x.kind ≠ .unpaid) → t.gate = { s.gate with state := .idle, measCount := 0
                                                     restoreCount := 0, settleCount := 0
                                                     tailgated := false })))

/-- R96: SET GEOMETRY in SETUP or CLOSED writes a geometry whose values lie in their ranges and
agree with one another, with MaxLen and with every station; in OPEN and DRAINING it is refused
WRONG_STATE, and a count other than that of the pairs in the body is OUT_OF_RANGE. R68, R86, R87,
R97: SET TIMING writes all the timing settings when each lies in its range, WaveRow 0 to 31
included, MinLen is at most MaxLen and MaxLen is clear of every checkpoint; a NominalPeriod that
moves the averaged period evaluates the stations. That a new MinGap makes no test of the gate in the
same event, although R52 tests whenever a condition changes, is log entry 13, the model's choice.
SET SPEED STEPS writes the thresholds and the speeds when they are in range and the thresholds rise.
Each is refused OUT_OF_RANGE otherwise, and BUSY while a save is in progress. -/
def Obligations.GeometryTimingAndStepsAreWritten : Prop :=
  (∀ (tag : Byte) (g : Geometry) (s : State), s.takes .site → g.checkpoints.length ≤ 4 →
     g.exitPos < 65536 → g.exitTol < 256 → g.exitGuard < 65536 →
     (∀ x ∈ g.checkpoints, x.position < 65536 ∧ x.tolerance < 256) →
     let c : Instr := .setGeometry .site tag (geometryBody g)
     let fits : Prop := 200 ≤ g.exitPos ∧ g.exitPos ≤ 8000 ∧ 2 ≤ g.exitTol ∧ g.exitTol ≤ 50 ∧
       10 ≤ g.exitGuard ∧ g.exitGuard ≤ 500 ∧
       (∀ x ∈ g.checkpoints, 2 ≤ x.tolerance ∧ x.tolerance ≤ 50 ∧
         s.settings.timing.maxLen + x.tolerance < x.position ∧
         x.position + x.tolerance + g.exitTol < g.exitPos) ∧
       g.checkpoints.Pairwise (fun a b => a.position < b.position) ∧
       (∀ j : StationIx, (s.station j).offset + (s.station j).post ≤ g.exitPos)
     ((s.mode = .openMode ∨ s.mode = .draining) →
       exec c s = answered .site 0x47 tag .wrongState [] (hunt .site s)) ∧
     (s.mode = .setup ∨ s.mode = .closed →
       (¬ fits → exec c s = answered .site 0x47 tag .outOfRange [] (hunt .site s)) ∧
       (fits → s.store.save ≠ none → exec c s = answered .site 0x47 tag .busy [] (hunt .site s)) ∧
       (fits → s.store.save = none → exec c s = answered .site 0x47 tag .ok []
         { hunt .site s with settings := { s.settings with geometry := g } }))) ∧
  (∀ (tag : Byte) (b : List Byte) (m : Nat) (s : State), s.takes .site →
     s.mode = .setup ∨ s.mode = .closed → m ≤ 4 → b.length = 6 + 3 * m → byteAt b 5 ≠ m →
     exec (.setGeometry .site tag b) s = answered .site 0x47 tag .outOfRange [] (hunt .site s)) ∧
  (∀ (tag : Byte) (s : State), s.takes .site → s.mode ≠ .lockout →
     let h := hunt .site s
     (∀ b : List Byte, b.length = 24 → 31 < byteAt b 15 →
       exec (.setTiming .site tag b) s = answered .site 0x44 tag .outOfRange [] h) ∧
     (∀ x : Timing, x.pendingTime < 65536 → x.memberInterval < 65536 → x.lookupTime < 256 →
       x.offerTime < 65536 → x.loadDistance < 256 → x.settle < 256 → x.minLen < 65536 →
       x.maxLen < 65536 → x.minGap < 65536 → x.warnTime < 256 → x.stallTime < 65536 →
       x.parkTime < 65536 → x.nominalPeriod < 65536 → x.pitch < 256 →
       let fits : Prop := 30 ≤ x.pendingTime ∧ x.pendingTime ≤ 600 ∧ x.memberInterval ≤ 1440 ∧
         1 ≤ x.lookupTime ∧ x.lookupTime ≤ 30 ∧ 10 ≤ x.offerTime ∧ x.offerTime ≤ 300 ∧
         10 ≤ x.loadDistance ∧ x.loadDistance ≤ 200 ∧ 1 ≤ x.settle ∧ x.settle ≤ 32 ∧
         50 ≤ x.minLen ∧ x.minLen ≤ 300 ∧ 150 ≤ x.maxLen ∧ x.maxLen ≤ 600 ∧ 10 ≤ x.minGap ∧
         x.minGap ≤ 500 ∧ x.warnTime ≤ 10 ∧ 500 ≤ x.stallTime ∧ x.stallTime ≤ 5000 ∧
         x.parkTime ≤ 600 ∧ 500 ≤ x.nominalPeriod ∧ 5 ≤ x.pitch ∧ x.pitch ≤ 100 ∧
         x.minLen ≤ x.maxLen ∧
         (∀ g ∈ s.settings.geometry.checkpoints, x.maxLen + g.tolerance < g.position)
       let c : Instr := .setTiming .site tag (timingBody x)
       let u : State := { h with settings := { s.settings with timing := x } }
       (¬ fits → exec c s = answered .site 0x44 tag .outOfRange [] h) ∧
       (fits → s.store.save ≠ none → exec c s = answered .site 0x44 tag .busy [] h) ∧
       (fits → s.store.save = none → (s.conv.samples ≠ [] ∨
         x.nominalPeriod = s.settings.timing.nominalPeriod) →
         exec c s = answered .site 0x44 tag .ok [] u) ∧
       (fits → s.store.save = none → s.conv.samples = [] →
         x.nominalPeriod ≠ s.settings.timing.nominalPeriod →
         exec c s = answered .site 0x44 tag .ok [] (settleDrain h (evaluate u)))) ∧
     (∀ x : SpeedSteps, x.t1 < 256 → x.t2 < 256 → x.t3 < 256 → (∀ k : Fin 4, x.speeds[k] < 65536) →
       let fits : Prop := 1 ≤ x.t1 ∧ x.t1 < x.t2 ∧ x.t2 < x.t3 ∧ x.t3 ≤ 24 ∧
         ∀ k : Fin 4, 100 ≤ x.speeds[k] ∧ x.speeds[k] ≤ 1000
       let c : Instr := .setSpeedSteps .site tag (stepsBody x)
       (¬ fits → exec c s = answered .site 0x45 tag .outOfRange [] h) ∧
       (fits → s.store.save ≠ none → exec c s = answered .site 0x45 tag .busy [] h) ∧
       (fits → s.store.save = none → exec c s = answered .site 0x45 tag .ok []
         { h with settings := { s.settings with steps := x } })))

/-! ## The conveyor and its pace (spec/04_conveyor_and_pace.md) -/

/-- R71 to R78: run demand, and the expiries of the conveyor's timers. The first clause says what
run demand and a wanted offer are (R71, R52); the second what the test of run demand does in each
conveyor state: with demand a STOPPED conveyor warns for WarnTime, and with WarnTime 0 goes on to
RUNNING at once with the horn silent; without it a WARNING one returns to STOPPED and a RUNNING one
goes to STOPPING. The warn timer's expiry takes WARNING to RUNNING with the stall timer started; the
at-rest timer's takes STOPPING to STOPPED with the samples gone, and on to a fresh start when run
demand is present, in OPEN and in a DRAINING that is not at its end; the stall timer's raises
CONVEYOR_STALL, which stops the tunnel and the conveyor; the park timer's parks the conveyor, which
goes to STOPPING when the gate wants no offer. A parked conveyor comes to rest parked, unless the
gate wants an offer: then it is unparked there and starts, and stays at rest with the chain open;
with WarnTime 0 the offer is made in the same event. The park timer starts from ParkTime at the end
of the event in which RUNNING, an empty roster and an IDLE gate first hold together, never with
ParkTime 0, and stops when one fails (that it does so at the end of the event is log entry 12). -/
def Obligations.ConveyorTimersExpire : Prop :=
  (∀ s : State,
    let unpaid (n : Nat) : Prop := ∃ tk, s.ticket? n = some tk ∧ tk.kind = .unpaid
    let gap : Prop := s.track.roster = [] ∨ ∃ c l, s.track.roster.getLast? = some c ∧
      c.length = some l ∧ (s.settings.timing.minGap : Int) ≤ (c.front : Int) - (l : Int)
    (s.runDemand = true ↔ (s.mode = .openMode ∨ s.mode = .draining) ∧ s.halt.state = .running ∧
      s.inputs.chainClosed = true ∧ s.conv.parked = false) ∧
    (s.offerWanted = true ↔ (s.mode = .openMode ∨ s.mode = .draining) ∧ s.halt.state = .running ∧
      s.track.roster.length < 20 ∧ (∃ n rest, s.gate.merge = n :: rest ∧ ¬ unpaid n) ∧ gap)) ∧
  (∀ s : State,
    (s.runDemand = true →
      (s.conv.state ≠ .stopped → testDemand s = s) ∧
      (s.conv.state = .stopped → s.settings.timing.warnTime ≠ 0 → testDemand s =
        { s with conv := { s.conv with
            state := .warning, warnTimer := .running (s.settings.timing.warnTime * 100000) } }) ∧
      (s.conv.state = .stopped → s.settings.timing.warnTime = 0 → testDemand s =
        { s with conv := { s.conv with
            state := .running, warnTimer := .stopped
            stallTimer := .running (s.settings.timing.stallTime * 100) } })) ∧
    (s.runDemand = false →
      (s.conv.state = .stopped ∨ s.conv.state = .stopping → testDemand s = s) ∧
      (s.conv.state = .warning → testDemand s =
        { s with conv := { s.conv with
            state := .stopped, warnTimer := .stopped, restTimer := .stopped
            samples := [], mark := none } }) ∧
      (s.conv.state = .running → testDemand s =
        { s with conv := { s.conv with
            state := .stopping, stallTimer := .stopped, parkTimer := .stopped
            restTimer := .running 100000 } }))) ∧
  (∀ (left : Nat) (s : State),
    let started (t : State) : Prop :=
      (s.settings.timing.warnTime ≠ 0 → t.conv.state = .warning ∧ t.out.horn = true ∧
        t.out.conveyorRun = false ∧
        t.conv.warnTimer = .running (s.settings.timing.warnTime * 100000)) ∧
      (s.settings.timing.warnTime = 0 → t.conv.state = .running ∧ t.out.horn = false ∧
        t.out.conveyorRun = true ∧ t.conv.warnTimer = .stopped ∧
        t.conv.stallTimer = .running (s.settings.timing.stallTime * 100))
    let undrained : Prop := (∃ i : Lane, s.saleSlot i ≠ .empty ∨ s.laneQueue i ≠ []) ∨
      s.gate.merge ≠ [] ∨ s.gate.state ≠ .idle ∨ s.track.roster ≠ [] ∨
      ∃ j : StationIx, s.isArm j = true ∧
        ((s.machine j).arm = .withdrawing ∨ (s.machine j).arm = .fault)
    (s.conv.state = .warning → s.conv.warnTimer = .running left →
      exec .warnTimerExpiry s = done (settle s { s with conv := { s.conv with
        state := .running, warnTimer := .stopped
        stallTimer := .running (s.settings.timing.stallTime * 100) } })) ∧
    (s.conv.state = .stopping → s.conv.restTimer = .running left → s.runDemand = false →
      s.conv.parked = false →
      ∃ t, exec .atRestTimerExpiry s = .next t ∧ t.conv.state = .stopped ∧ t.conv.samples = [] ∧
        t.conv.mark = none ∧ t.conv.restTimer = .stopped ∧ t.out.horn = false) ∧
    (s.conv.state = .stopping → s.conv.restTimer = .running left → s.conv.parked = true →
      s.offerWanted = false ∨ s.gate.state ≠ .idle ∨ s.gate.mergeCheck = true →
      ∃ t, exec .atRestTimerExpiry s = .next t ∧ t.conv.state = .stopped ∧ t.conv.parked = true ∧
        t.conv.samples = [] ∧ t.conv.mark = none ∧ t.out.horn = false) ∧
    (s.conv.state = .stopping → s.conv.restTimer = .running left → s.conv.parked = true →
      s.gate.state = .idle → s.gate.mergeCheck = false → s.offerWanted = true →
      ∃ t, exec .atRestTimerExpiry s = .next t ∧ t.conv.parked = false ∧ t.conv.samples = [] ∧
        (s.inputs.chainClosed = false → t.conv.state = .stopped ∧ t.out.horn = false) ∧
        (s.inputs.chainClosed = true → started t) ∧
        (s.inputs.chainClosed = true → s.settings.timing.warnTime = 0 →
          t.gate.atGate = s.gate.merge.head? ∧
          t.gate.state = if s.inputs.tireClosed = true then .loading else .offer)) ∧
    (s.conv.state = .stopping → s.conv.restTimer = .running left → s.runDemand = true →
      (s.mode = .draining → undrained) →
      ∃ t, exec .atRestTimerExpiry s = .next t ∧ t.conv.samples = [] ∧ t.conv.mark = none ∧
        started t) ∧
    (s.conv.state = .running → s.conv.stallTimer = .running left → s.causesFit →
      s.halt.state ≠ .stopped →
      ∃ t, exec .stallTimerExpiry s = .next t ∧ t.halt.state = .stopped ∧
        t.hasCause .conveyorStall = true ∧ t.conv.state = .stopping ∧
        t.conv.stallTimer = .stopped ∧ t.out.conveyorRun = false) ∧
    (s.conv.state = .running → s.conv.parkTimer = .running left → s.offerWanted = false →
      ∃ t, exec .parkTimerExpiry s = .next t ∧ t.conv.parked = true ∧ t.conv.state = .stopping ∧
        t.conv.restTimer = .running 100000 ∧ t.out.conveyorRun = false ∧ t.out.speedReference = 0) ∧
    (s.conv.state = .warning → s.conv.warnTimer = .running left → s.mode = .openMode →
      s.track.roster = [] → s.gate.state = .idle → s.gate.merge = [] → s.gate.mergeCheck = false →
      ∃ t, exec .warnTimerExpiry s = .next t ∧ t.conv.state = .running ∧ t.conv.parkTimer =
        if s.settings.timing.parkTime = 0 then s.conv.parkTimer
        else .running (s.settings.timing.parkTime * 100000))) ∧
  (∀ before s : State,
    let holds (x : State) : Prop :=
      x.conv.state = .running ∧ x.track.roster = [] ∧ x.gate.state = .idle
    (holds s → holds before → testPark before s = s) ∧
    (holds s → ¬ holds before → s.settings.timing.parkTime = 0 → testPark before s = s) ∧
    (holds s → ¬ holds before → s.settings.timing.parkTime ≠ 0 → testPark before s =
      { s with conv := { s.conv with
          parkTimer := .running (s.settings.timing.parkTime * 100000) } }) ∧
    (¬ holds s → holds before → testPark before s =
      { s with conv := { s.conv with parkTimer := .stopped } }) ∧
    (¬ holds s → ¬ holds before → testPark before s = s) ∧
    settleDrain before s = testPark before (testDrain s) ∧
    settle before s = settleDrain before (testIdle s))

/-- R81, R83, R84, R70: after every command, the published averaged period is the floored mean of
the samples held, or NominalPeriod with none; the depth counts the queued and merged tickets and
gives the step by the thresholds; the speed reference is 0 unless the conveyor is RUNNING, and then
the lesser of the step's speed and the lowest cap of the roster and gate tickets, clamped to 100 to
1,000; run output and horn follow the state. -/
def Obligations.PaceFollowsTheRecords : Prop :=
  ∀ (c : Instr) (s t : State), exec c s = .next t → t.mode ≠ .lockout →
    let caps := ((t.track.roster.map (fun x => x.ticket) ++ t.gate.atGate.toList).filterMap
      t.ticket?).map (fun x => x.cap)
    let st := t.settings.steps
    let depth := t.gate.merge.length + (t.laneQueue 0).length + (t.laneQueue 1).length +
      (t.laneQueue 2).length
    (t.conv.samples = [] → t.out.avgPeriod = t.settings.timing.nominalPeriod) ∧
    (t.conv.samples ≠ [] → t.out.avgPeriod = t.conv.samples.sum / t.conv.samples.length) ∧
    t.out.depth = depth ∧
    (depth < st.t1 → t.out.step = 0) ∧ (st.t1 ≤ depth → depth < st.t2 → t.out.step = 1) ∧
    (st.t1 ≤ depth → st.t2 ≤ depth → depth < st.t3 → t.out.step = 2) ∧
    (st.t1 ≤ depth → st.t2 ≤ depth → st.t3 ≤ depth → t.out.step = 3) ∧
    (t.conv.state ≠ .running → t.out.speedReference = 0) ∧
    (t.conv.state = .running → ∃ (k : Fin 4) (low : Nat), k.val = t.out.step ∧
      (low = 1000 ∨ low ∈ caps) ∧ low ≤ 1000 ∧ (∀ x ∈ caps, low ≤ x) ∧
      t.out.speedReference = max 100 (min 1000 (min (st.speeds[k]) low))) ∧
    t.out.conveyorRun = (t.conv.state == .running) ∧ t.out.horn = (t.conv.state == .warning)

/-! ## The wash stations (spec/06_wash_stations.md) -/

/-- R115, R116: the lead is the lesser of ceil(100 × latency / P̄) and LeadMax; the on-point is
max(0, O − Pre − lead) and the off-point max(0, O + Post − lead); a car reaches the station when its
front is at or beyond the on-point, and its window is open while its rear is below the off-point. -/
def Obligations.LeadAndPointsFollowThePace : Prop :=
  (∀ (st : StationCfg) (avg : Nat), 0 < avg →
    ∃ q, 100 * st.latency ≤ q * avg ∧ (∀ r, 100 * st.latency ≤ r * avg → q ≤ r) ∧
      leadOf st avg = min q st.leadMax ∧
      (onPointOf st avg : Int) = max 0 ((st.offset : Int) - st.pre - leadOf st avg) ∧
      (offPointOf st avg : Int) = max 0 ((st.offset : Int) + st.post - leadOf st avg)) ∧
  (∀ (s : State) (j : StationIx) (c : Car),
    (s.reached j c = true ↔ onPointOf (s.station j) s.avgPeriod ≤ c.front) ∧
    (s.windowOpen j c = true ↔ c.rear < (offPointOf (s.station j) s.avgPeriod : Int)))

/-- R118, R119, R120: the evaluation of a SWITCHED station in RUNNING: a PENDING car that has
reached it and fails the test is SKIPPED; an ACTIVE car whose window has closed is DONE; a due car
is MISSED when its window is closed and ACTIVE when it is open; every other status, and every other
station's, stays. In HOLDING no status changes, and in STOPPED and in LOCKOUT a station of either
kind only skips and misses. An evaluation makes that of each station, and nothing else: every car's
status at a station and the station's machine are then what the evaluation of that station alone
gives. -/
def Obligations.SwitchedStationsServeDueCars : Prop :=
  (∀ (j : StationIx) (s : State),
    ((s.station j).kind = .switched → s.halt.state = .running → s.mode ≠ .lockout →
      (evalStation j s).track.roster = s.track.roster.map (fun c =>
        if c.status j = .pending ∧ s.reached j c = true ∧ s.qualifies j c = false then
          c.setStatus j .skipped
        else if c.status j = .active ∧ s.windowOpen j c = false then c.setStatus j .done
        else if c.status j = .pending ∧ s.reached j c = true ∧ s.windowOpen j c = false then
          c.setStatus j .missed
        else if c.status j = .pending ∧ s.reached j c = true then c.setStatus j .active
        else c)) ∧
    (s.halt.state = .holding → s.mode ≠ .lockout → evalStation j s = s) ∧
    (s.halt.state = .stopped ∨ s.mode = .lockout → evalStation j s =
      { s with track := { s.track with roster := s.track.roster.map (fun c =>
        if c.status j = .pending ∧ s.reached j c = true ∧ s.qualifies j c = false then
          c.setStatus j .skipped
        else if c.status j = .pending ∧ s.reached j c = true ∧ s.windowOpen j c = false then
          c.setStatus j .missed
        else c) } }) ∧
    (∀ c : Car, s.qualifies j c = true ↔ (s.station j).enabled = true ∧
      (∃ t, s.ticket? c.ticket = some t ∧ t.features.getLsbD (s.station j).feature.val = true) ∧
      ¬ (c.flags.tall = true ∧ (s.station j).exclTall = true) ∧
      ¬ (c.flags.wide = true ∧ (s.station j).exclWide = true))) ∧
  (∀ s : State,
    evaluate s = { s with
      track := { s.track with roster := (evaluate s).track.roster }
      stn := { s.stn with machines := (evaluate s).stn.machines } } ∧
    (evaluate s).track.roster.map (fun c => { c with progress := Vector.replicate 24 .pending }) =
      s.track.roster.map (fun c => { c with progress := Vector.replicate 24 .pending }) ∧
    ∀ j : StationIx, (evaluate s).machine j = (evalStation j s).machine j ∧
      (evaluate s).track.roster.map (fun c => c.status j) =
        (evalStation j s).track.roster.map (fun c => c.status j))

/-- R118, R119, R121 to R124, R126, R127, R129: the evaluation of an ARM station in RUNNING. A
PENDING car that reaches it is SKIPPED when it fails the test, MISSED when its window is closed, and
else waits. A STOWED arm takes the oldest waiting car and goes to ADVANCING. With no served car left
whose window is open, an ENGAGED arm makes those it served DONE and hands over to the oldest waiting
car, older or newer than the served one, or withdraws; an ADVANCING one makes them MISSED and
withdraws, and takes the oldest waiting car when its switch stows it at once. An arm that works on a
car with an open window, and one in WITHDRAWING or FAULT, serves no other. R118: the events that
evaluate every station, here with the exit eye unbroken: a car appended, a flag written, a length
fixed, a front corrected, a car removed, and the averaged period changed as the belt comes to rest.
A pulse, a change of the halt state, LOCKOUT, a new NominalPeriod and an arm that stows have it in
their own statements. The model's choices: eyes already broken give an appended car its flags before
the evaluation (log entry 15), the measuring counts stay once the length is fixed (log entry 20),
and a removal evaluates once for the removal and once for the roster's change (log entry 6). -/
def Obligations.ArmsServeOneCarAtATime : Prop :=
  (∀ (j : StationIx) (s : State), (s.station j).kind = .arm → s.halt.state = .running →
    s.mode ≠ .lockout →
    let m := s.machine j
    let reaches (c : Car) : Prop := c.status j = .pending ∧ s.reached j c = true
    let waiting (c : Car) : Prop :=
      reaches c ∧ s.qualifies j c = true ∧ s.windowOpen j c = true
    let served (c : Car) : Prop := c.status j = .active ∧ s.windowOpen j c = true
    let judged (c : Car) : Car :=
      if c.status j = .pending ∧ s.reached j c = true then
        if s.qualifies j c = true then
          if s.windowOpen j c = true then c else c.setStatus j .missed
        else c.setStatus j .skipped
      else c
    let ended (p : Progress) (c : Car) : Car :=
      if c.status j = .active then c.setStatus j p else judged c
    let cars (x : State) (r : List Car) : Prop := x.track.roster = r
    let back (x : State) : Prop := x.machine j = { m with
      arm := if s.inputs.stowed[(s.station j).channel] = true then .stowed else .withdrawing
      advanceTimer := .stopped
      withdrawTimer := if s.inputs.stowed[(s.station j).channel] = true then .stopped
        else .running ((s.station j).withdrawTimeout * 100) }
    let x := evalStation j s
    let onlyJudges : Prop :=
      x = { s with track := { s.track with roster := s.track.roster.map judged } }
    (m.arm = .withdrawing ∨ m.arm = .fault → onlyJudges) ∧
    ((∃ c ∈ s.track.roster, served c) → m.arm = .engaged ∨ m.arm = .advancing → onlyJudges) ∧
    (m.arm = .stowed → (∀ c ∈ s.track.roster, ¬ waiting c) → onlyJudges) ∧
    (∀ older c newer, s.track.roster = older ++ c :: newer → (∀ o ∈ older, ¬ waiting o) → waiting c →
      (m.arm = .stowed →
        cars x (older.map judged ++ c.setStatus j .active :: newer.map judged) ∧
        x.machine j = { m with
          arm := .advancing, opened := false
          advanceTimer := .running ((s.station j).advanceTime * 100) }) ∧
      ((∀ o ∈ s.track.roster, ¬ served o) → m.arm = .engaged →
        cars x (older.map (ended .done) ++ c.setStatus j .active :: newer.map (ended .done)) ∧
        x.machine j = m) ∧
      ((∀ o ∈ s.track.roster, ¬ served o) → m.arm = .advancing →
        (s.inputs.stowed[(s.station j).channel] = false →
          cars x (s.track.roster.map (ended .missed)) ∧ back x) ∧
        (s.inputs.stowed[(s.station j).channel] = true →
          cars x (older.map (ended .missed) ++ c.setStatus j .active :: newer.map (ended .missed)) ∧
          x.machine j = { m with
            arm := .advancing, opened := false, withdrawTimer := .stopped
            advanceTimer := .running ((s.station j).advanceTime * 100) }))) ∧
    ((∀ c ∈ s.track.roster, ¬ served c ∧ ¬ waiting c) →
      (m.arm = .engaged → cars x (s.track.roster.map (ended .done)) ∧ back x) ∧
      (m.arm = .advancing → cars x (s.track.roster.map (ended .missed)) ∧ back x))) ∧
  (∀ s : State, s.inputs.exitEye = false →
    let cars (r : List Car) (x : State) : State := { x with track := { x.track with roster := r } }
    (∀ n, s.gate.state = .loading → s.gate.atGate = some n →
      (s.conv.state ≠ .stopped ∨ s.halt.state = .running) →
      exec .entryEyeBreak s = done (evaluate (cars (s.track.roster ++
          [⟨n, 0, none, ⟨s.inputs.heightEye, s.inputs.widthEye, false⟩, Vector.replicate 4 false,
            false, Vector.replicate 24 .pending⟩])
        { updateTicket n (fun t => { t with state := .riding }) s with
          inputs := { s.inputs with entryEye := true }
          gate := { s.gate with state := .measuring, atGate := none, measCount := 0
                                restoreCount := 0, settleCount := 0, tailgated := false } }))) ∧
    (∀ older c, s.track.roster = older ++ [c] → s.gate.state = .measuring →
      (s.inputs.entryEye = true →
        exec .heightEyeBreak s = done (evaluate (cars (older ++ [{ c with flags := { c.flags with
            tall := true, wide := c.flags.wide || s.inputs.widthEye } }])
          { s with inputs := { s.inputs with heightEye := true } })) ∧
        exec .widthEyeBreak s = done (evaluate (cars (older ++ [{ c with flags := { c.flags with
            wide := true, tall := c.flags.tall || s.inputs.heightEye } }])
          { s with inputs := { s.inputs with widthEye := true } }))) ∧
      (s.inputs.entryEye = false → s.gate.tailgated = false →
        s.settings.timing.settle ≤ s.gate.settleCount →
        s.settings.timing.minLen ≤ s.gate.restoreCount →
        (c.front : Int) - (s.gate.restoreCount : Int) < s.settings.timing.minGap →
        exec .settleReached s = done (settle s (evaluate (cars
          (older ++ [{ c with length := some s.gate.restoreCount }])
          { s with gate := { s.gate with state := .spacing, tailgated := false } }))))) ∧
    (∀ (k : Checkpoint) (g : CheckpointCfg) (c : Car), s.track.roster = [c] → c.length = none →
      s.settings.geometry.checkpoints[k.val]? = some g → s.conv.state ≠ .stopped →
      c.marks[k] = false → g.position ≤ c.front + g.tolerance →
      c.front ≤ g.position + g.tolerance →
      exec (.checkpointEyeBreak k) s = done (settle s (testSpacing (evaluate (cars
        [{ c with marks := vset c.marks k true, front := g.position }]
        { s with inputs := { s.inputs with
            checkpointEyes := vset s.inputs.checkpointEyes k true } }))))) ∧
    (∀ (tag : Byte) (n : Nat), s.takes .console → s.mode ≠ .lockout → s.halt.state = .stopped →
      n < 65536 → (∃ x ∈ s.track.roster, x.ticket = n) → s.gate.state ≠ .measuring →
      let h := hunt .console s
      exec (.removeCar .console tag (u16 n)) s = answered .console 0x23 tag .ok (u16 n)
        (settle h (testSpacing (evaluate (evaluate (retireTicket n .removed
          (cars (s.track.roster.filter (fun x => x.ticket ≠ n)) h))))))) ∧
    (∀ left, s.conv.state = .stopping → s.conv.restTimer = .running left →
      s.avgPeriod ≠ s.settings.timing.nominalPeriod →
      exec .atRestTimerExpiry s = done (settle s (testDemand (evaluate { s with
        conv := { s.conv with
          state := .stopped, warnTimer := .stopped, restTimer := .stopped, samples := []
          mark := none } })))))

/-- R122, R123, R126, R128: the movements of an enabled arm outside the evaluation. Its stowed
switch opening faults a STOWED arm, with ARM_STUCK, and is noted in ADVANCING; closing, it takes a
WITHDRAWING arm to its stop, and an arm out of FAULT to STOWED, where the evaluation of its arrival
may send it out again in RUNNING alone: ARM_STUCK leaves the causes when no other enabled arm is in
FAULT, and stays while one is. The advance timer's expiry engages an arm whose switch has opened and
faults one whose switch has not, its served car MISSED; the withdraw timer's expiry faults the arm.
R136: a fault of the jogged arm ends the jog. R121: a switch of a channel that no enabled ARM
station has moves nothing. -/
def Obligations.ArmsMoveAndFault : Prop :=
  (∀ (ch : Channel) (s : State), s.armOf ch = none →
    let u (b : Bool) : State :=
      { s with inputs := { s.inputs with stowed := vset s.inputs.stowed ch b } }
    exec (.stowedSwitchOpens ch) s = done (u false) ∧
    exec (.stowedSwitchCloses ch) s = done (u true)) ∧
  ∀ (j : StationIx) (ch : Channel) (s : State), s.armOf ch = some j →
    let m := s.machine j
    let u (b : Bool) : State :=
      { s with inputs := { s.inputs with stowed := vset s.inputs.stowed ch b } }
    let faulted (t : State) : Prop := (t.machine j).arm = .fault ∧
      (t.machine j).advanceTimer = .stopped ∧ (t.machine j).withdrawTimer = .stopped ∧
      t.halt.state = .stopped ∧ t.hasCause .armStuck = true ∧
      (∀ g, s.stn.jog = some g → g.station = j → t.stn.jog = none) ∧
      ((∀ g, s.stn.jog = some g → g.station ≠ j) → t.stn.jog = s.stn.jog)
    (m.arm = .stowed → s.causesFit →
      ∃ t, exec (.stowedSwitchOpens ch) s = .next t ∧ faulted t ∧ t.inputs.stowed[ch] = false) ∧
    (m.arm = .advancing → exec (.stowedSwitchOpens ch) s =
      done (setMachine j { m with opened := true } (u false))) ∧
    (m.arm = .engaged ∨ m.arm = .withdrawing ∨ m.arm = .fault →
      exec (.stowedSwitchOpens ch) s = done (u false)) ∧
    (m.arm = .withdrawing → exec (.stowedSwitchCloses ch) s = done (settleDrain (u true) (evaluate
      (setMachine j { m with arm := .stowed, advanceTimer := .stopped, withdrawTimer := .stopped }
        (u true))))) ∧
    (m.arm = .stowed ∨ m.arm = .advancing ∨ m.arm = .engaged →
      exec (.stowedSwitchCloses ch) s = done (u true)) ∧
    (m.arm = .fault →
      let stowed : StationMachine :=
        { m with arm := .stowed, advanceTimer := .stopped, withdrawTimer := .stopped }
      let v := setMachine j stowed (u true)
      let other : Prop := ∃ k, k ≠ j ∧ s.isArm k = true ∧ (s.machine k).arm = .fault
      let c : Instr := .stowedSwitchCloses ch
      (other → exec c s = done (settleDrain (u true) (evaluate v))) ∧
      (¬ other → exec c s = done (settleDrain (u true) (evaluate (clearCause .armStuck v)))) ∧
      ∃ t, exec c s = .next t ∧ (t.machine j).arm ≠ .fault ∧
        (s.halt.state = .stopped ∨ s.mode = .lockout → t.machine j = stowed) ∧
        (s.causesFit → s.halt.state = .holding → t.machine j = stowed) ∧
        (s.causesFit → (t.machine j).arm = .stowed ∨ (t.machine j).arm = .advancing) ∧
        (other → t.halt.causes = s.halt.causes) ∧
        (¬ other → t.halt.causes = s.halt.causes &&& ~~~ (BitVec.ofNat 16 (2 ^ 14)) ∧
          t.hasCause .armStuck = false)) ∧
    (∀ left, m.arm = .advancing → m.advanceTimer = .running left →
      (m.opened = true → exec (.advanceTimerExpiry j) s = done (setMachine j { m with
        arm := .engaged, advanceTimer := .stopped, trip := 0 } s)) ∧
      (m.opened = false → s.causesFit →
        ∃ t, exec (.advanceTimerExpiry j) s = .next t ∧ faulted t ∧
          ∀ (k : Nat) (c : Car), s.track.roster[k]? = some c → c.status j = .active →
            ∃ d, t.track.roster[k]? = some d ∧ d.ticket = c.ticket ∧ d.status j = .missed)) ∧
    (∀ left, m.arm = .withdrawing → m.withdrawTimer = .running left → s.causesFit →
      ∃ t, exec (.withdrawTimerExpiry j) s = .next t ∧ faulted t)

/-- R125, R131, R135, R136: the motor current of an arm is supervised while it is ENGAGED with the
halt state RUNNING outside LOCKOUT, and while its station is jogged. A sample of a supervised arm
counts toward the trip when it lies above TripLevel and returns the count to 0 otherwise; at
TripCount, ARM_OVERLOAD stops the tunnel, the count returns to 0 and a jog of the arm ends. A sample
of an arm that is not supervised, or of a channel with no enabled arm, changes the reading alone.
JOG in STOPPED with the chain closed runs one enabled station, an arm being STOWED, for 1 to 10 s;
that it leaves the trip count as it stands is log entry 19, the model's choice. JOG STOP and the jog
timer's expiry end it; with no jog JOG STOP is refused NOT_FOUND. -/
def Obligations.TripsAndJogs : Prop :=
  let jogs (s : State) (j : StationIx) : Prop := ∃ g, s.stn.jog = some g ∧ g.station = j
  let supervised (s : State) (j : StationIx) : Prop :=
    ((s.machine j).arm = .engaged ∧ s.halt.state = .running ∧ s.mode ≠ .lockout) ∨ jogs s j
  let armAt (s : State) (ch : Channel) (j : StationIx) : Prop :=
    (s.station j).enabled = true ∧ (s.station j).kind = .arm ∧ (s.station j).channel = ch
  (∀ (j : StationIx) (ch : Channel) (s : State),
    s.armOf ch = some j ↔ armAt s ch j ∧ ∀ k, k < j → ¬ armAt s ch k) ∧
  (∀ (j : StationIx) (ch : Channel) (x : Fin 1024) (s : State), armAt s ch j →
    (∀ k, k < j → ¬ armAt s ch k) →
    let u : State :=
      { s with inputs := { s.inputs with motorCurrent := vset s.inputs.motorCurrent ch x.val } }
    let count := if (s.station j).tripLevel < x.val then (s.machine j).trip + 1 else 0
    (¬ supervised s j → exec (.motorCurrentSample ch x) s = done u) ∧
    (supervised s j → count < (s.station j).tripCount →
      exec (.motorCurrentSample ch x) s = done (setMachine j { s.machine j with trip := count } u)) ∧
    (supervised s j → (s.station j).tripCount ≤ count → s.causesFit →
      ∃ t, exec (.motorCurrentSample ch x) s = .next t ∧ t.halt.state = .stopped ∧
        t.hasCause .armOverload = true ∧ (t.machine j).trip = 0 ∧
        (jogs s j → t.stn.jog = none) ∧ (¬ jogs s j → t.stn.jog = s.stn.jog))) ∧
  (∀ (ch : Channel) (x : Fin 1024) (s : State), (∀ j, ¬ armAt s ch j) →
    exec (.motorCurrentSample ch x) s = done
      { s with inputs := { s.inputs with motorCurrent := vset s.inputs.motorCurrent ch x.val } }) ∧
  (∀ (j : StationIx) (s : State),
    (supervised s j → s.causesFit → (s.station j).tripCount ≤ (s.machine j).trip →
      ∃ t, exec (.tripCountReached j) s = .next t ∧ t.halt.state = .stopped ∧
        t.hasCause .armOverload = true ∧ (t.machine j).trip = 0) ∧
    (¬ supervised s j ∨ (s.machine j).trip < (s.station j).tripCount →
      exec (.tripCountReached j) s = done s)) ∧
  (∀ (tag : Byte) (s : State), s.takes .console → s.mode ≠ .lockout →
    let no (b : List Byte) (st : Status) := exec (.jog .console tag b) s =
      answered .console 0x26 tag st [] (hunt .console s)
    (∀ b : List Byte, b.length = 2 → (23 < byteAt b 0 ∨ byteAt b 1 < 1 ∨ 10 < byteAt b 1) →
      no b .outOfRange) ∧
    (∀ (j : StationIx) (secs : Nat), 1 ≤ secs → secs ≤ 10 →
      let b := u8 j.val ++ u8 secs
      let ready : Prop := (s.station j).enabled = true ∧
        ((s.station j).kind = .switched ∨ (s.machine j).arm = .stowed)
      (s.halt.state ≠ .stopped ∨ s.inputs.chainClosed = false → no b .wrongState) ∧
      (s.halt.state = .stopped → s.inputs.chainClosed = true →
        (s.stn.jog ≠ none → no b .busy) ∧
        (s.stn.jog = none → ¬ ready → no b .wrongState) ∧
        (s.stn.jog = none → ready → exec (.jog .console tag b) s =
          answered .console 0x26 tag .ok [] { hunt .console s with stn := { s.stn with
            jog := some ⟨j, .running (secs * 100000)⟩ } }))) ∧
    (s.stn.jog = none → exec (.jogStop .console tag []) s =
      answered .console 0x27 tag .notFound [] (hunt .console s)) ∧
    (∀ g, s.stn.jog = some g → exec (.jogStop .console tag []) s =
      answered .console 0x27 tag .ok (u8 g.station.val)
        { hunt .console s with stn := { s.stn with jog := none } })) ∧
  (∀ (g : Jog) (left : Nat) (s : State), s.stn.jog = some g → g.timer = .running left →
    exec .jogTimerExpiry s = done { s with stn := { s.stn with jog := none } }) ∧
  (∀ s : State, s.stn.jog = none → exec .jogTimerExpiry s = done s)

/-- R114, R121, R128: SET STATION in SETUP or CLOSED writes the station in full and starts its
machine afresh; an enabled arm takes its state from its stowed switch, and one whose switch reads
open is in FAULT under ARM_STUCK. One that takes the last enabled arm out of FAULT withdraws
ARM_STUCK, and any other leaves that cause as it was. It is refused WRONG_STATE in other modes,
OUT_OF_RANGE for a field outside the range R113 gives it, OVERLAP over a line or an arm channel of
another enabled station, and BUSY while the station is jogged or a save is in progress. -/
def Obligations.StationsAreWritten : Prop :=
  (∀ (tag : Byte) (j : StationIx) (st : StationCfg) (s : State), s.takes .site →
    st.offset ≤ 8000 → st.pre < 256 → st.post < 256 → st.latency ≤ 2000 → st.leadMax < 256 →
    100 ≤ st.advanceTime → st.advanceTime ≤ 3000 → 500 ≤ st.withdrawTimeout →
    st.withdrawTimeout ≤ 5000 → st.tripLevel ≤ 1023 → 1 ≤ st.tripCount → st.tripCount ≤ 50 →
    let h := hunt .site s
    let c : Instr := .setStation .site tag (stationBody j st)
    let no (x : Status) := exec c s = answered .site 0x46 tag x [] h
    let agrees : Prop := st.offset + st.post ≤ s.settings.geometry.exitPos ∧
      (st.kind = .arm → st.firstLine ≠ st.secondLine)
    let lines (x : StationCfg) : List Line :=
      if x.kind = .arm then [x.firstLine, x.secondLine] else [x.firstLine]
    let clash : Prop := st.enabled = true ∧ ∃ k, k ≠ j ∧ (s.station k).enabled = true ∧
      ((∃ l, l ∈ lines st ∧ l ∈ lines (s.station k)) ∨
        (st.kind = .arm ∧ (s.station k).kind = .arm ∧ st.channel = (s.station k).channel))
    let jogged : Prop := ∃ g, s.stn.jog = some g ∧ g.station = j
    (s.mode = .openMode ∨ s.mode = .draining → no .wrongState) ∧
    (s.mode = .setup ∨ s.mode = .closed →
      (¬ agrees → no .outOfRange) ∧ (agrees → clash → no .overlap) ∧
      (agrees → ¬ clash → (jogged ∨ s.store.save ≠ none) → no .busy) ∧
      (agrees → ¬ clash → ¬ jogged → s.store.save = none → ∃ t, exec c s = .next t ∧
        (t.port .site).request = .replying ⟨0xC6, tag, u8 0⟩ ∧ t.station j = st ∧
        (∀ k, k ≠ j → t.station k = s.station k) ∧
        ((st.enabled = false ∨ st.kind = .switched ∨ s.inputs.stowed[st.channel] = true) →
          s.causesFit → t.machine j = ⟨.stowed, .stopped, .stopped, 0, false⟩ ∧
            let faulty (k : StationIx) : Prop := (s.station k).enabled = true ∧
              (s.station k).kind = .arm ∧ (s.machine k).arm = .fault
            (faulty j → (∀ k, k ≠ j → ¬ faulty k) → t.hasCause .armStuck = false) ∧
            ((¬ faulty j ∨ ∃ k, k ≠ j ∧ faulty k) →
              t.hasCause .armStuck = s.hasCause .armStuck)) ∧
        (st.enabled = true → st.kind = .arm → s.inputs.stowed[st.channel] = false → s.causesFit →
          t.machine j = ⟨.fault, .stopped, .stopped, 0, false⟩ ∧ t.halt.state = .stopped ∧
          t.hasCause .armStuck = true)))) ∧
  (∀ (tag : Byte) (b : List Byte) (s : State), s.takes .site → s.mode = .setup ∨ s.mode = .closed →
    b.length = 22 →
    (23 < byteAt b 0 ∨ 1 < byteAt b 1 ∨ 1 < byteAt b 2 ∨ 8000 < wordAt b 3 ∨ 2000 < wordAt b 7 ∨
      15 < byteAt b 10 ∨ 3 < byteAt b 11 ∨ 39 < byteAt b 12 ∨ 39 < byteAt b 13 ∨ 7 < byteAt b 14 ∨
      wordAt b 15 < 100 ∨ 3000 < wordAt b 15 ∨ wordAt b 17 < 500 ∨ 5000 < wordAt b 17 ∨
      1023 < wordAt b 19 ∨ byteAt b 21 < 1 ∨ 50 < byteAt b 21) →
    exec (.setStation .site tag b) s = answered .site 0x46 tag .outOfRange [] (hunt .site s))

/-! ## Halts (spec/07_halts.md) -/

/-- R139, R140, R143, R144, R147: a cause that is raised. One that is present changes nothing. A new
one joins the set; in RUNNING it opens an episode under the next number, with HALT to all ports, and
stops or holds the tunnel; in HOLDING and STOPPED it joins the further causes of the open episode,
and a STOP cause stops a held tunnel. -/
def Obligations.CausesMoveTheHaltState : Prop :=
  ∀ (c : Cause) (subj : Subject) (s : State),
    let t := raiseCause c subj s
    (s.hasCause c = true → t = s) ∧
    (s.hasCause c = false →
      t.halt.causes = s.halt.causes ||| BitVec.ofNat 16 (2 ^ c.code) ∧
      (c ≠ .exitBlocked → t.halt.state = .stopped) ∧
      (c = .exitBlocked → t.halt.state = if s.halt.state = .running then .holding else s.halt.state) ∧
      (s.halt.state = .running →
        let n := (s.halt.counter + 1) % 256
        t.halt.counter = n ∧
        t.halt.history = ((⟨n, c, 0, s.sales.clock.stamp, s.conv.pulseTotal, subj, none⟩ : Episode) ::
          s.halt.history).take 4 ∧
        ∀ p : Port, .halt c n ∈ (t.port p).notices) ∧
      (∀ ep older, s.halt.state ≠ .running → s.halt.history = ep :: older → ep.closing = none →
        t.halt.history = (if ep.first = c then ep else
          { ep with further := ep.further ||| BitVec.ofNat 16 (2 ^ c.code) }) :: older ∧
        t.ports = s.ports ∧ t.halt.counter = s.halt.counter))

/-- R130 to R133, R118: the stations' first reaction to a change of the halt state, and the
evaluation that follows it. At a stop every ACTIVE status becomes INTERRUPTED and every arm that is
out withdraws, while a paused withdraw timer runs on; at a hold the arms' timers pause; at the end
of a hold they run on; at the end of a stop every INTERRUPTED status becomes PENDING when its window
is open and MISSED when it is closed. Every move of the halt state makes the reaction of its kind
and then the evaluation of every station, and so do the commands that move it: HALT and the entry to
LOCKOUT stop the stations, a pulse and an exit eye break that block the exit pause them (the break
is stated at rest in RUNNING with a car, which R98 says does not arise outside LOCKOUT), the exit
eye restore that ends the hold lets them run on, and RESUME judges the INTERRUPTED statuses. Two
points are the model's choice: that a change of the halt state reaches CONV before the stations is
log entry 6, and that a halt which TRACK raises on a pulse reaches the stations before the
evaluation of that pulse is log entry 5, so a pulse that blocks the exit pauses the timers and
leaves every status as it was before the pulse, where R118 names the pulse as an evaluating event
and gives no such order. -/
def Obligations.StationsReactToTheHaltState : Prop :=
  let stopped (s t : State) : Prop := ∀ j : StationIx,
    (∀ (k : Nat) (c : Car), s.track.roster[k]? = some c → ∃ d, t.track.roster[k]? = some d ∧
      d.ticket = c.ticket ∧ d.front = c.front ∧
      (c.status j = .active → d.status j = .interrupted) ∧
      (c.status j ≠ .active → c.status j ≠ .pending → d.status j = c.status j)) ∧
    ((s.machine j).arm = .advancing ∨ (s.machine j).arm = .engaged →
      t.machine j = { s.machine j with
        arm := if s.inputs.stowed[(s.station j).channel] = true then .stowed else .withdrawing
        advanceTimer := .stopped
        withdrawTimer := if s.inputs.stowed[(s.station j).channel] = true then .stopped
          else .running ((s.station j).withdrawTimeout * 100) }) ∧
    (∀ left, (s.machine j).arm = .withdrawing → (s.machine j).withdrawTimer = .paused left →
      t.machine j = { s.machine j with withdrawTimer := .running left })
  let pauses (x y : Timer) : Prop := y = match x with
    | .running left => .paused left
    | .stopped => .stopped
    | .paused left => .paused left
  let runsOn (x y : Timer) : Prop := y = match x with
    | .paused left => .running left
    | .stopped => .stopped
    | .running left => .running left
  (∀ (j : StationIx) (s : State),
    (stopStations s).track.roster = s.track.roster.map (fun c => { c with
      progress := vmap (fun p => if p = .active then .interrupted else p) c.progress }) ∧
    stopped s (stopStations s) ∧
    (∃ a w, pauses (s.machine j).advanceTimer a ∧ pauses (s.machine j).withdrawTimer w ∧
      (holdStations s).machine j = { s.machine j with advanceTimer := a, withdrawTimer := w }) ∧
    (holdStations s).track = s.track ∧
    (∃ a w, runsOn (s.machine j).advanceTimer a ∧ runsOn (s.machine j).withdrawTimer w ∧
      (releaseStations s).machine j = { s.machine j with advanceTimer := a, withdrawTimer := w }) ∧
    (releaseStations s).track = s.track ∧ (judgeStations s).stn = s.stn ∧
    ∀ (k : Nat) (c : Car), s.track.roster[k]? = some c → ∃ d,
      (judgeStations s).track.roster[k]? = some d ∧ d.ticket = c.ticket ∧ d.front = c.front ∧
      d.status j = (if c.status j = .interrupted then
        (if s.windowOpen j c = true then .pending else .missed) else c.status j)) ∧
  (∀ (new : HaltState) (s : State), s.mode ≠ .lockout →
    let t := setHalt new s
    let v : State := { s with halt := { s.halt with state := new }, conv := t.conv }
    let makes (u : State) : Prop := t.track = (evaluate u).track ∧ t.stn = (evaluate u).stn
    t.halt = v.halt ∧
    (s.halt.state ≠ .stopped → new = .stopped → makes (stopStations v)) ∧
    (s.halt.state = .running → new = .holding → makes (holdStations v)) ∧
    (s.halt.state = .stopped → new = .holding → makes (holdStations (judgeStations v))) ∧
    (s.halt.state = .stopped → new = .running → makes (judgeStations v)) ∧
    (s.halt.state = .holding → new = .running → makes (releaseStations v))) ∧
  (∀ s : State, s.halt.state ≠ .stopped → s.mode ≠ .lockout → s.causesFit →
    (∀ p tag, (p = .console ∨ p = .site) → s.takes p →
      ∃ t, exec (.halt p tag []) s = .next t ∧ t.halt.state = .stopped ∧ stopped s t) ∧
    (∀ left, s.halt.mismatchTimer = .running left →
      ∃ t, exec .mismatchTimerExpiry s = .next t ∧ t.mode = .lockout ∧ stopped s t)) ∧
  (∀ (c : Car) (rest : List Car) (s : State), s.halt.state = .running → s.mode ≠ .lockout →
    s.causesFit → s.conv.state = .stopped → s.track.roster = c :: rest →
    (∀ d ∈ s.track.roster, d.exitMark = false) →
    s.settings.geometry.exitPos ≤ c.front + s.settings.geometry.exitGuard →
    ∃ t, exec .exitEyeBreak s = .next t ∧ t.halt.state = .holding ∧
      t.track.roster = s.track.roster ∧ ∀ j : StationIx, ∃ a w,
        pauses (s.machine j).advanceTimer a ∧ pauses (s.machine j).withdrawTimer w ∧
        t.machine j = { s.machine j with advanceTimer := a, withdrawTimer := w }) ∧
  (∀ (elapsed : Nat) (older newer : List Car) (c : Car) (s : State),
    let x := s.settings.geometry.exitPos
    let tx := s.settings.geometry.exitTol
    s.inputs.exitEye = true → s.halt.state = .running → s.mode ≠ .lockout → s.causesFit →
    s.gate.state ≠ .loading → s.gate.state ≠ .measuring → s.track.roster = older ++ c :: newer →
    (∀ d ∈ older, d.exitMark = true) → c.exitMark = false →
    x ≤ c.front + 1 + s.settings.geometry.exitGuard →
    (∀ d ∈ s.track.roster, d.front < 16383 ∧ (d.exitMark = false → d.front + 1 ≤ x + tx) ∧
      (d.exitMark = true → (d.front : Int) + 1 < (x : Int) - tx ∨
        ∃ l, d.length = some l ∧ (x : Int) + tx < (d.front : Int) + 1 - (l : Int)) ∧
      ∀ (k : Checkpoint) (g : CheckpointCfg), s.settings.geometry.checkpoints[k.val]? = some g →
        d.marks[k] = false → d.front + 1 ≤ g.position + g.tolerance) →
    ∃ t, exec (.encoderPulse elapsed) s = .next t ∧ t.halt.state = .holding ∧
      ∀ j : StationIx, (∃ a w, pauses ((s.machine j).advanceTimer.elapse elapsed) a ∧
        pauses ((s.machine j).withdrawTimer.elapse elapsed) w ∧
        t.machine j = { s.machine j with advanceTimer := a, withdrawTimer := w }) ∧
        t.track.roster.map (fun d => d.status j) = s.track.roster.map (fun d => d.status j)) ∧
  (∀ s : State, s.halt.state = .holding → s.mode ≠ .lockout → s.causesFit →
    s.conv.state ≠ .stopped →
    ∃ t, exec .exitEyeRestore s = .next t ∧ t.halt.state = .running ∧
      ∀ (j : StationIx) (left : Nat), (s.machine j).arm = .withdrawing →
        (s.machine j).advanceTimer = .stopped → (s.machine j).withdrawTimer = .paused left →
        t.machine j = { s.machine j with withdrawTimer := .running left }) ∧
  (∀ (tag : Byte) (s : State), s.takes .console → s.mode ≠ .lockout → s.halt.state = .stopped →
    s.track.moved = false → s.inputs.chainClosed = true → s.inputs.driveFault = false →
    s.hasCause .armStuck = false → s.hasCause .exitBlocked = false →
    s.conv.state = .stopped ∨ s.conv.state = .stopping →
    ¬ (s.gate.state = .measuring ∧ s.gate.tailgated = true) →
    ∃ t, exec (.resume .console tag []) s = .next t ∧ t.halt.state = .running ∧
      ∀ (j : StationIx) (k : Nat) (c : Car), s.track.roster[k]? = some c →
        c.status j = .interrupted → ∃ d, t.track.roster[k]? = some d ∧ d.ticket = c.ticket ∧
          (s.windowOpen j c = false → d.status j = .missed) ∧
          (s.windowOpen j c = true →
            d.status j = .pending ∨ d.status j = .skipped ∨ d.status j = .active))

/-- R149, R150, R151: HALT raises CONSOLE_STOP or SITE_STOP by its port, and answers with the halt
state and the episode. RESUME is refused WRONG_STATE, UNCONFIRMED or CAUSE_PRESENT, in that order;
one carried out takes every STOP cause out of the set, ends a jog and moves the tunnel to HOLDING
when EXIT_BLOCKED remains and else to RUNNING, where the open episode closes, ended by CONSOLE. The
reply names the halt state the RESUME leads to, RUNNING also where EXIT_BLOCKED is raised anew
within the same event: that is log entry 25, the model's choice. -/
def Obligations.HaltAndResume : Prop :=
  (∀ (p : Port) (tag : Byte) (s : State), (p = .console ∨ p = .site) → s.takes p →
    s.mode ≠ .lockout → s.causesFit → s.episodesFit → ∃ t ep older,
      exec (.halt p tag []) s = .next t ∧ t.halt.history = ep :: older ∧ ep.closing = none ∧
      (t.port p).request = .replying ⟨0xA0, tag, u8 0 ++ (u8 2 ++ u8 ep.number)⟩ ∧
      t.halt.state = .stopped ∧
      t.hasCause (if p = .console then .consoleStop else .siteStop) = true) ∧
  (∀ (tag : Byte) (s : State), s.takes .console → s.mode ≠ .lockout →
    let c : Instr := .resume .console tag []
    let no (st : Status) := exec c s = answered .console 0x21 tag st [] (hunt .console s)
    let stands : Prop := s.inputs.chainClosed = false ∨ s.inputs.driveFault = true ∨
      s.hasCause .armStuck = true
    (s.halt.state ≠ .stopped → no .wrongState) ∧
    (s.halt.state = .stopped → s.track.moved = true → no .unconfirmed) ∧
    (s.halt.state = .stopped → s.track.moved = false → stands → no .causePresent) ∧
    (∀ ep older, s.halt.state = .stopped → s.track.moved = false → ¬ stands →
      s.halt.history = ep :: older → ep.closing = none →
      ((s.hasCause .exitBlocked = false → ∃ t, exec c s = .next t ∧
        (t.port .console).request = .replying ⟨0xA1, tag, u8 0 ++ (u8 ep.number ++ u8 0)⟩ ∧
        t.stn.jog = none ∧ t.track.moved = false ∧
        (s.inputs.exitEye = false → t.halt.state = .running ∧ t.halt.causes = 0 ∧
          t.halt.history = { ep with closing := some (s.sales.clock.stamp, .console) } :: older ∧
          ∀ p : Port, .resumed ep.number ∈ (t.port p).notices)) ∧
      (s.hasCause .exitBlocked = true → ∃ t, exec c s = .next t ∧
        (t.port .console).request = .replying ⟨0xA1, tag, u8 0 ++ (u8 ep.number ++ u8 1)⟩ ∧
        t.stn.jog = none ∧ t.halt.state = .holding ∧
        t.halt.causes = BitVec.ofNat 16 (2 ^ Cause.exitBlocked.code) ∧
        t.halt.history = ep :: older))))

/-- R153 to R156, R163: the safety chain opening stops the tunnel under SAFETY_CHAIN and at once
takes the relay command, every station line and the roller off, ends a jog and takes the conveyor
out of WARNING and RUNNING. Its closing puts the command on again and removes no cause. A drive
fault stops the tunnel. The mismatch timer runs from the event in which readback and command begin
to differ, and stops when they agree; its expiry makes the mode LOCKOUT, with LOCKOUT raised to all
five ports, and in LOCKOUT only stops the timer. -/
def Obligations.SafetyInputsAct : Prop :=
  (∀ s : State,
     (s.causesFit → ∃ t, exec .safetyChainOpens s = .next t ∧ t.inputs.chainClosed = false ∧
       t.halt.state = .stopped ∧ t.hasCause .safetyChain = true ∧ t.stn.jog = none ∧
       t.conv.state ≠ .warning ∧ t.conv.state ≠ .running ∧ t.out.safetyRelay = false ∧
       t.out.rollerUp = false ∧ (∀ l : Line, t.out.stationLines[l] = false) ∧
       (s.inputs.readback = true → s.mode ≠ .lockout → t.halt.mismatchTimer.isRunning = true) ∧
       (s.inputs.readback = false → t.halt.mismatchTimer = .stopped)) ∧
     (∃ t, exec .safetyChainCloses s = .next t ∧ t.inputs.chainClosed = true ∧
       t.halt.causes = s.halt.causes ∧ t.halt.state = s.halt.state ∧
       (s.mode ≠ .lockout → t.out.safetyRelay = true ∧
         (s.inputs.readback = false → t.halt.mismatchTimer.isRunning = true) ∧
         (s.inputs.readback = true → t.halt.mismatchTimer = .stopped))) ∧
     (s.causesFit → ∃ t, exec .driveFaultActive s = .next t ∧ t.inputs.driveFault = true ∧
       t.halt.state = .stopped ∧ t.hasCause .driveFault = true ∧
       t.out.safetyRelay = (s.inputs.chainClosed && s.mode != .lockout)) ∧
     exec .driveFaultInactive s = done { s with inputs := { s.inputs with driveFault := false } } ∧
     (∀ b : Bool, let u : State := { s with inputs := { s.inputs with readback := b } }
       let timer (x : Timer) : State := { u with halt := { s.halt with mismatchTimer := x } }
       (s.mode = .lockout ∨ b = s.inputs.chainClosed →
         exec (.relayReadbackChange b) s = done (timer .stopped)) ∧
       (s.mode ≠ .lockout → b ≠ s.inputs.chainClosed →
         (s.halt.mismatchTimer = .stopped →
           exec (.relayReadbackChange b) s = done (timer (.running 20000))) ∧
         (∀ left, s.halt.mismatchTimer = .running left →
           exec (.relayReadbackChange b) s = done u)))) ∧
  (∀ (left : Nat) (s : State), s.halt.mismatchTimer = .running left →
     (s.mode ≠ .lockout → ∃ t, exec .mismatchTimerExpiry s = .next t ∧ t.mode = .lockout ∧
       (∀ p : Port, .lockout ∈ (t.port p).notices) ∧ t.halt.mismatchTimer = .stopped ∧
       t.stn.jog = none ∧ t.conv.state ≠ .warning ∧ t.conv.state ≠ .running ∧
       t.halt.state = s.halt.state ∧ t.halt.causes = s.halt.causes ∧
       t.halt.history = s.halt.history) ∧
     (s.mode = .lockout → exec .mismatchTimerExpiry s =
       done { s with halt := { s.halt with mismatchTimer := .stopped } }))

/-- R164: after every command that leaves the mode LOCKOUT, every field output is off, whatever the
block states are: conveyor run with the speed reference at 0, horn, roller-up, GO lamp, the lane
signals, the safety relay command and the station output lines. -/
def Obligations.LockoutTurnsEveryOutputOff : Prop :=
  ∀ (c : Instr) (s t : State), exec c s = .next t → t.mode = .lockout →
    t.out.conveyorRun = false ∧ t.out.speedReference = 0 ∧ t.out.horn = false ∧
    t.out.rollerUp = false ∧ t.out.goLamp = false ∧ (∀ i : Lane, t.out.laneGreen[i] = false) ∧
    t.out.safetyRelay = false ∧ ∀ l : Line, t.out.stationLines[l] = false

/-! ## Tunnel modes and the settings store
(spec/08_tunnel_modes_start_up_and_the_settings_store.md) -/

/-- R160, R161, R162: OPEN takes a CLOSED or DRAINING tunnel to OPEN; CLOSE takes an OPEN one to
DRAINING, and is answered TAKEN; either is WRONG_STATE otherwise. In DRAINING the test of the six
drain conditions takes the mode to CLOSED with CLOSE_DONE at the site port when all hold, and does
nothing when one fails. -/
def Obligations.TheSiteOpensAndCloses : Prop :=
  ∀ (tag : Byte) (s : State),
    let h := hunt .site s
    let drained (x : State) : Prop := (∀ i : Lane, x.saleSlot i = .empty ∧ x.laneQueue i = []) ∧
      x.gate.merge = [] ∧ x.gate.state = .idle ∧ x.track.roster = [] ∧
      (∀ j : StationIx, (x.station j).enabled = true → (x.station j).kind = .arm →
        (x.machine j).arm = .stowed)
    (s.takes .site → s.mode = .closed ∨ s.mode = .draining → exec (.openTunnel .site tag []) s =
      answered .site 0x60 tag .ok [] (settle h (retestDemand { h with mode := .openMode }))) ∧
    (s.takes .site → s.mode = .setup ∨ s.mode = .openMode → exec (.openTunnel .site tag []) s =
      answered .site 0x60 tag .wrongState [] h) ∧
    (s.takes .site → s.mode = .openMode → ¬ drained s → exec (.close .site tag []) s =
      answered .site 0x61 tag .taken [] { h with mode := .draining }) ∧
    (s.takes .site → s.mode = .openMode → drained s → ∃ t, exec (.close .site tag []) s = .next t ∧
      t.mode = .closed ∧ .closeDone ∈ (t.port .site).notices ∧
      (t.port .site).request = .replying ⟨0xE1, tag, u8 1⟩) ∧
    (s.takes .site → s.mode = .setup ∨ s.mode = .closed ∨ s.mode = .draining →
      exec (.close .site tag []) s = answered .site 0x61 tag .wrongState [] h) ∧
    (s.mode = .draining → drained s → ∃ t, exec .drainEnd s = .next t ∧ t.mode = .closed ∧
      .closeDone ∈ (t.port .site).notices ∧ t.conv.state ≠ .warning ∧ t.conv.state ≠ .running ∧
      t.halt = s.halt ∧ t.gate = s.gate) ∧
    (s.mode ≠ .draining ∨ ¬ drained s → exec .drainEnd s = done s)

/-- R166, R169, R170, R171: the copy that a save makes holds every site setting (catalogue, menus,
periods, timing, speed steps, stations, geometry and W) and the member entries 0 to W - 1, each with
its index, valid flag, tag base, range order, member row and status. SAVE is refused BUSY while one
is in progress, and else is TAKEN with that copy of the settings. Each row written as it should be
takes the save on, the marker row, then rows 1 to 95, then the marker row again; after the last one
the store is CLOSED and holds the copy, and SETUP becomes CLOSED. A row that reads back wrong ends
the save: the store is torn, and STORE_DONE says so. With no save in progress there is no row write.
That the marker reads other than CLOSED from the SAVE on, and that what the settings rows hold
changes as a whole at the end and stays at a failed row, is log entry 9, the model's choice. -/
def Obligations.SavesWriteTheStore : Prop :=
  (∀ s : State, let copy := s.copySettings
    copy.site = s.settings ∧
    copy.wired.map (fun e => e.index) = (List.finRange 48).take s.settings.wired ∧
    ∀ e ∈ copy.wired, let x := s.entry e.index
      e.valid = x.valid ∧ e.base = x.base ∧ e.order = x.order ∧ e.row = x.row ∧
      e.status = x.status) ∧
  (∀ (tag : Byte) (s : State), s.takes .site → s.mode ≠ .lockout →
    (s.store.save ≠ none → exec (.save .site tag []) s =
      answered .site 0x62 tag .busy [] (hunt .site s)) ∧
    (s.store.save = none → ∃ t, exec (.save .site tag []) s = .next t ∧
      (t.port .site).request = .replying ⟨0xE2, tag, u8 1⟩ ∧
      t.store.save = some ⟨s.copySettings, 0⟩ ∧ t.store.marker ≠ .closed ∧
      t.store.image = s.store.image ∧ t.store.rowsValid = s.store.rowsValid ∧
      t.store.torn = s.store.torn ∧ t.store.blank = s.store.blank ∧ t.settings = s.settings)) ∧
  (∀ (j : SaveJob) (s : State), s.store.save = some j →
    (j.row = 0 → exec (.rowWriteComplete true) s = done { s with store := { s.store with
      marker := .openMarker, save := some { j with row := 1 } } }) ∧
    (∀ r : Fin 95, j.row = r.val + 1 → exec (.rowWriteComplete true) s =
      done { s with store := { s.store with
        rowsValid := vset s.store.rowsValid r true, save := some { j with row := j.row + 1 } } }) ∧
    (j.row = 96 → exec (.rowWriteComplete true) s = done (raiseTo .site (.storeDone true) { s with
      mode := if s.mode = .setup then .closed else s.mode
      store := { s.store with marker := .closed, image := j.copy, torn := false, blank := false
                              save := none } })) ∧
    (∃ t, exec (.rowWriteComplete false) s = .next t ∧ t.store.save = none ∧ t.store.torn = true ∧
      t.store.blank = false ∧ .storeDone false ∈ (t.port .site).notices ∧ t.mode = s.mode ∧
      t.settings = s.settings ∧ t.store.image = s.store.image ∧
      (j.row = 0 → t.store.marker ≠ .closed) ∧ (j.row = 96 → t.store.marker ≠ .closed) ∧
      (1 ≤ j.row → j.row ≤ 95 → t.store.marker = s.store.marker))) ∧
  (∀ (b : Bool) (s : State), s.store.save = none → exec (.rowWriteComplete b) s = done s)

/-- R167, R158, R156, R121, R168, R27: a device reset. A store that is CLOSED with every row valid
gives its settings and its wired entries, and the mode CLOSED; any other gives the defaults and
SETUP, with STORE_BLANK for a BLANK marker and STORE_TORN else; so does a reset during a save. The
replacement pointer is set to W. The volatile records are cleared; the causes are POWER_UP and those
that the chain, the drive fault input and the arms give; episode 1 is open under POWER_UP with no
subject, start day 0 minute 0 and pulse total 0, and those other causes are exactly its further
causes. Every port is reset with HALT (POWER_UP, 1) pending, the relay command follows the chain,
the mismatch timer starts from 200 ms when the readback disagrees with the command and is stopped
otherwise, and an enabled arm whose switch reads open is in FAULT under ARM_STUCK. Log entry 22 is
the model's choice of two points: a line that was held low is taken as released, and the levels of
the inputs and the waiting commands stay. -/
def Obligations.DeviceResetStartsThePart : Prop :=
  ∀ s : State,
    let whole : Prop := s.store.marker = .closed ∧ ∀ r : Fin 95, s.store.rowsValid[r] = true
    ∃ t, exec .deviceReset s = .next t ∧
      (s.store.save = none → whole → t.mode = .closed ∧ t.settings = s.store.image.site ∧
        t.memb.entries = s.store.image.wired.foldl (fun v e => vset v e.index
          ⟨e.valid, e.base, e.order, e.row, e.status, none⟩) (Vector.replicate 48 MemberEntry.clear) ∧
        t.store.torn = false ∧ t.store.blank = false) ∧
      (s.store.save = none → ¬ whole → t.mode = .setup ∧ t.settings = SiteSettings.default ∧
        (t.store.blank = true ↔ s.store.marker = .blank) ∧
        (t.store.torn = true ↔ s.store.marker ≠ .blank) ∧
        ∀ k : EntryIx, (t.entry k).valid = false) ∧
      (s.store.save = none → t.store.marker = s.store.marker) ∧ t.store.image = s.store.image ∧
      (s.store.save ≠ none → s.markerFits → t.mode = .setup ∧
        t.settings = SiteSettings.default ∧ t.store.marker ≠ .closed) ∧
      (t.settings.wired < 48 → t.memb.pointer.val = t.settings.wired) ∧
      t.store.save = none ∧ t.halt.state = .stopped ∧ t.halt.counter = 1 ∧
      (let found (c : Cause) : Prop :=
        (c = .safetyChain ∧ s.inputs.chainClosed = false) ∨
        (c = .driveFault ∧ s.inputs.driveFault = true) ∨
        (c = .armStuck ∧ ∃ j : StationIx, (t.machine j).arm = .fault)
       (∀ c : Cause, t.hasCause c = true ↔ c = .powerUp ∨ found c) ∧
       ∃ ep : Episode, t.halt.history = [ep] ∧ ep.number = 1 ∧ ep.first = .powerUp ∧
        ep.subject = .none ∧ ep.start = ⟨0, 0⟩ ∧ ep.pulseTotal = 0 ∧ ep.closing = none ∧
        ∀ c : Cause, ep.further.getLsbD c.code = true ↔ found c) ∧
      t.halt.mismatchTimer =
        (if s.inputs.readback = s.inputs.chainClosed then .stopped else .running 20000) ∧
      t.sales = Sales.start ∧ t.credits = [] ∧ t.gate = Gate.start ∧ t.conv = Conveyor.start ∧
      t.track = ⟨[], false⟩ ∧ t.stn.jog = none ∧
      (∀ j : StationIx, (t.machine j).arm = .fault ↔ (t.station j).enabled = true ∧
        (t.station j).kind = .arm ∧ s.inputs.stowed[(t.station j).channel] = false) ∧
      (∀ p : Port, t.port p = { PortState.start with notices := [.halt .powerUp 1] }) ∧
      t.out.safetyRelay = s.inputs.chainClosed ∧ t.inputs = s.inputs ∧ t.pending = s.pending

/-! ## Invariants -/

/-- The invariants hold right after reset: those of the lines, of run demand, of the halt records, of
the notices, of the marker and of the credit list, and that of the ticket, roster and member records
(R10, R11, R26, R43, R47, R91). -/
def Obligations.ResetHasTheInvariants : Prop :=
  State.reset.linesFollow ∧ State.reset.runsOnDemand ∧ State.reset.causesFit ∧
  State.reset.episodesFit ∧ State.reset.noticesFit ∧ State.reset.markerFits ∧
  State.reset.creditsFit ∧ State.reset.recordsFit

/-- R74, R71: every step keeps the conveyor from warning or running without run demand, and the
lines following the records: so the run output is on only while the chain is closed, the mode is
OPEN or DRAINING, the halt state is RUNNING and the conveyor is RUNNING and not parked. -/
def Obligations.TheConveyorRunsOnDemandAlone : Prop :=
  ∀ s t : State, s.runsOnDemand → s.linesFollow → step s = .next t →
    t.runsOnDemand ∧ t.linesFollow ∧
    (t.out.conveyorRun = true → t.inputs.chainClosed = true ∧
      (t.mode = .openMode ∨ t.mode = .draining) ∧ t.halt.state = .running ∧
      t.conv.state = .running ∧ t.conv.parked = false)

/-- R140, R143, R146: every step keeps the cause set in agreement with the halt state, and the halt
history with one open episode exactly while the tunnel is held or stopped, at its head, and at most
4 records. -/
def Obligations.TheHaltRecordsStayInAgreement : Prop :=
  ∀ s t : State, s.causesFit → s.episodesFit → step s = .next t → t.causesFit ∧ t.episodesFit

/-- R184, R171, R38: every step keeps each port's pending notices in strict order of priority, so
that no kind stands twice; the marker other than CLOSED while a save is in progress; and the credit
list within its 32.
R10, R11, R26, R43, R47, R90, R91: every step keeps recordsFit. In a state that has it, every live
ticket stands in exactly one place, the one that its state names (a lane's sale slot, a lane queue,
the merge queue, the gate, the roster), and nothing but a live ticket stands in a place; no number is
0, and no two live tickets and credits share one; a lane queue holds at most 4 tickets, the merge queue
and the gate together at most 12, the roster at most 20 cars; of two cars the older one's front and
rear lie above the newer one's front; and no two valid member entries cover a common tag. recordsFit
says besides what the step needs of the gate's state (R50, R92) and of the settings and the store
(R68, R166, R169). -/
def Obligations.NoticesMarkerAndCreditsStayFit : Prop :=
  (∀ s t : State, s.noticesFit → s.markerFits → s.creditsFit → step s = .next t →
    t.noticesFit ∧ t.markerFits ∧ t.creditsFit) ∧
  (∀ s t : State, s.creditsFit → s.recordsFit → step s = .next t →
    t.creditsFit ∧ t.recordsFit) ∧
  ∀ s : State, s.recordsFit →
    (∀ t ∈ s.tickets, s.ticket? t.number = some t ∧ t.number ≠ 0 ∧
      s.places.count t.stands = 1 ∧ ∀ c ∈ s.credits, c.code ≠ t.number) ∧
    (∀ (i : Lane) (n : Nat), (s.saleSlot i).ticket? = some n ∨ n ∈ s.laneQueue i →
      ∃ t, s.ticket? n = some t ∧ t.origin = .lane i) ∧
    (∀ n ∈ s.gate.merge, ∃ t, s.ticket? n = some t ∧ t.state = .merged) ∧
    (∀ n ∈ s.gate.atGate, ∃ t, s.ticket? n = some t ∧ t.state = .atGate) ∧
    (∀ c ∈ s.track.roster, ∃ t, s.ticket? c.ticket = some t ∧ t.state = .riding) ∧
    (∀ i : Lane, (s.laneQueue i).length ≤ 4) ∧
    s.gate.merge.length + s.gate.atGate.toList.length ≤ 12 ∧ s.track.roster.length ≤ 20 ∧
    (∀ (i j : Nat) (a b : Car), i < j → s.track.roster[i]? = some a →
      s.track.roster[j]? = some b → b.front < a.front ∧ (b.front : Int) < a.rear) ∧
    ∀ (j k : EntryIx) (g : Word32), j ≠ k →
      (s.entry j).covers g = true → (s.entry k).covers g = false
end

