-- ==== Sys2Proof/Laws/Operands.lean ====
section
/-!
SUPPORT. The laws of the operand forms: a value written by R189 is read back as it was.
-/

namespace Sys2Proof.Machine

@[simp] theorem byteAt_cons_zero (b : Byte) (l : List Byte) : byteAt (b :: l) 0 = b.toNat := rfl

@[simp] theorem byteAt_cons_succ (b : Byte) (l : List Byte) (i : Nat) :
    byteAt (b :: l) (i + 1) = byteAt l i := rfl

theorem byteAt_lt (l : List Byte) (i : Nat) : byteAt l i < 256 := (l.getD i 0).isLt

@[simp] theorem wordAt_cons_succ (b : Byte) (l : List Byte) (i : Nat) :
    wordAt (b :: l) (i + 1) = wordAt l i := rfl

@[simp] theorem longAt_cons_succ (b : Byte) (l : List Byte) (i : Nat) :
    longAt (b :: l) (i + 1) = longAt l i := rfl

@[simp] theorem flagAt_cons_succ (b : Byte) (l : List Byte) (i : Nat) :
    flagAt (b :: l) (i + 1) = flagAt l i := rfl

/-- A 1-byte value is read back. -/
theorem byteAt_u8 {n : Nat} (h : n < 256) (l : List Byte) : byteAt (u8 n ++ l) 0 = n := by
  simp [u8, Nat.mod_eq_of_lt h]

/-- A 2-byte value is read back. -/
theorem wordAt_u16 {n : Nat} (h : n < 65536) (l : List Byte) : wordAt (u16 n ++ l) 0 = n := by
  simp only [u16, wordAt, byteAt, List.cons_append, List.getD_cons_zero, List.getD_cons_succ,
    BitVec.toNat_ofNat, List.nil_append]
  omega

/-- The same, with the two bytes in sight. -/
@[simp] theorem wordAt_pair {n : Nat} (h : n < 65536) (l : List Byte) :
    wordAt (BitVec.ofNat 8 (n / 256) :: BitVec.ofNat 8 n :: l) 0 = n := wordAt_u16 h l

/-- A 4-byte value is read back. -/
theorem longAt_u32 (w : Word32) (l : List Byte) : longAt (u32 w.toNat ++ l) 0 = w := by
  apply BitVec.eq_of_toNat_eq
  have := w.isLt
  simp only [longAt, u32, wordAt, byteAt, List.cons_append, List.getD_cons_zero,
    List.getD_cons_succ, BitVec.toNat_ofNat, List.nil_append]
  omega

/-- A flag is read back. -/
@[simp] theorem flagAt_flagByte (b : Bool) (l : List Byte) : flagAt (flagByte b ++ l) 0 = some b := by
  cases b <;> rfl

theorem inRange_iff {lo hi n : Nat} : inRange lo hi n = true ↔ lo ≤ n ∧ n ≤ hi := by
  simp [inRange]

@[simp] theorem replyTo_refuse (f : Frame) (st : Status) :
    replyTo f (refuse st) = ⟨f.kind + 0x80, f.tag, u8 st.code⟩ := by
  cases st <;> rfl

@[simp] theorem replyTo_okWith (f : Frame) (l : List Byte) :
    replyTo f (okWith l) = ⟨f.kind + 0x80, f.tag, u8 Status.ok.code ++ l⟩ := by
  simp [replyTo, okWith]

end Sys2Proof.Machine
end

