-- ==== Sys2Proof/Laws/Tables.lean ====
section
/-!
SUPPORT. The laws of the fixed tables: what a read gives after a write or a map, and what fin? gives.
-/

namespace Sys2Proof.Machine

variable {α β : Type} {n : Nat}

/-- A read after a write, by number. -/
theorem vset_getElem (v : Vector α n) (i : Fin n) (x : α) (j : Nat) (h : j < n) :
    (vset v i x)[j] = if i.val = j then x else v[j] := by
  simp [vset, Vector.getElem_set]

@[simp] theorem vset_getElem_same (v : Vector α n) (i : Fin n) (x : α) :
    (vset v i x)[i.val] = x := by simp [vset]

theorem vset_get (v : Vector α n) (i j : Fin n) (x : α) :
    (vset v i x)[j] = if i = j then x else v[j] := by
  simp [vset_getElem, Fin.ext_iff]

@[simp] theorem vset_vset (v : Vector α n) (i : Fin n) (x y : α) :
    vset (vset v i x) i y = vset v i y := by
  simp [vset]

@[simp] theorem vset_getElem_self (v : Vector α n) (i : Fin n) : vset v i v[i.val] = v := by
  simp [vset]

@[simp] theorem vmap_getElem (f : α → β) (v : Vector α n) (j : Nat) (h : j < n) :
    (vmap f v)[j] = f v[j] := by
  simp [vmap]

@[simp] theorem vmap_toList (f : α → β) (v : Vector α n) : (vmap f v).toList = v.toList.map f := by
  simp [vmap, Vector.toList]

theorem vmap_eq_map (f : α → β) (v : Vector α n) : vmap f v = v.map f := by
  ext j h
  simp

theorem vmap_id (v : Vector α n) : vmap (fun x => x) v = v := by
  apply Vector.ext
  intro i hi
  simp [vmap]

/-- An index of the table is the number it names. -/
@[simp] theorem fin?_val (i : Fin n) : fin? n i.val = some i := by simp [fin?]

theorem fin?_eq_some {x : Nat} {i : Fin n} : fin? n x = some i ↔ x = i.val := by
  constructor
  · intro h
    unfold fin? at h
    split at h
    · cases h; rfl
    · cases h
  · rintro rfl; simp

theorem fin?_eq_none {x : Nat} : fin? n x = none ↔ n ≤ x := by
  unfold fin?
  split <;> simp <;> omega

end Sys2Proof.Machine
end

