-- ==== Sys2Proof/Laws/Link.lean ====
section
/-!
SUPPORT. The laws of the link: reading a port after a write, the directory, and what a request frame
does at a port that takes it at once.
-/

namespace Sys2Proof.Machine

/-! ## Ports -/

theorem Port.index_inj {p q : Port} : p.index = q.index ↔ p = q := by
  constructor
  · intro h
    cases p with
    | lane i =>
      cases q with
      | lane j =>
        have : i.val = j.val := by simpa [Port.index] using h
        exact congrArg Port.lane (Fin.ext this)
      | console => have := i.isLt; simp [Port.index, Fin.ext_iff] at h; omega
      | site => have := i.isLt; simp [Port.index, Fin.ext_iff] at h; omega
    | console =>
      cases q with
      | lane j => have := j.isLt; simp [Port.index, Fin.ext_iff] at h; omega
      | console => rfl
      | site => simp [Port.index] at h
    | site =>
      cases q with
      | lane j => have := j.isLt; simp [Port.index, Fin.ext_iff] at h; omega
      | console => simp [Port.index] at h
      | site => rfl
  · rintro rfl; rfl

/-- A port is read as it was written, and every other port as before. -/
theorem port_setPort (s : State) (p q : Port) (x : PortState) :
    (s.setPort p x).port q = if p = q then x else s.port q := by
  simp only [State.port, State.setPort, vset_get, Port.index_inj]

@[simp] theorem port_setPort_same (s : State) (p : Port) (x : PortState) :
    (s.setPort p x).port p = x := by simp [port_setPort]

theorem port_setPort_other (s : State) {p q : Port} (x : PortState) (h : p ≠ q) :
    (s.setPort p x).port q = s.port q := by simp [port_setPort, h]

@[simp] theorem setPort_setPort (s : State) (p : Port) (x y : PortState) :
    (s.setPort p x).setPort p y = s.setPort p y := by simp [State.setPort]

@[simp] theorem setPort_port (s : State) (p : Port) : s.setPort p (s.port p) = s := by
  simp [State.setPort, State.port]

/-- Two states with the same ports agree on each port. -/
theorem port_congr {s t : State} (h : t.ports = s.ports) (p : Port) : t.port p = s.port p := by
  simp [State.port, h]

/-! ## The directory (R192) -/

/-- Every kind of the directory is read from its own code. -/
@[simp] theorem ofCode_code (k : RequestKind) : RequestKind.ofCode k.code = some k := by
  cases k <;> decide

/-! ## A port that takes a frame (R178, R180) -/

@[simp] theorem hunt_port (p : Port) (s : State) :
    (hunt p s).port p = { s.port p with receiver := .hunting, gapTimer := .stopped } := by
  simp [hunt]

/-- R178: at a port that takes a frame at once, a complete frame is taken. -/
theorem receiveFrame_taken {p : Port} {f : Frame} {s : State} (h : s.takes p)
    (hb : f.body.length ≤ Config.bodyMax) : receiveFrame p f s = takeFrame p f (hunt p s) := by
  simp [receiveFrame, handleFrame, h.1, h.2, Nat.not_lt.mpr hb]

/-- R180: a request that passes the link's four tests is served by its block. -/
theorem judge_served {p : Port} {k : RequestKind} {tag : Byte} {body : List Byte} {s : State}
    (hp : k.permitted p.cls = true) (hl : k.lengthOk body.length = true)
    (hm : s.mode ≠ .lockout ∨ k.lockoutAnswers = true) :
    judge p ⟨k.code, tag, body⟩ s = serve p k body s := by
  have hm' : ¬ (s.mode = .lockout ∧ k.lockoutAnswers = false) := by
    rintro ⟨h1, h2⟩
    rcases hm with h | h
    · exact h h1
    · rw [h] at h2; cases h2
  simp [judge, hp, hl, hm']

/-- No kind allows a body longer than a frame's. -/
theorem lengthOk_fits {k : RequestKind} {n : Nat} (h : k.lengthOk n = true) : n ≤ Config.bodyMax := by
  cases k <;> simp [RequestKind.lengthOk] at h <;> simp [Config.bodyMax] <;> omega

/-- What a request command does at a port that takes it at once: its block serves it, and the reply
begins to be sent. -/
theorem request_served {p : Port} {k : RequestKind} {tag : Byte} {body : List Byte} {s : State}
    (h : s.takes p) (hp : k.permitted p.cls = true) (hl : k.lengthOk body.length = true)
    (hm : s.mode ≠ .lockout ∨ k.lockoutAnswers = true) :
    request k p tag body s =
      done (setRequest p
        (.replying (replyTo ⟨k.code, tag, body⟩ (serve p k body (hunt p s)).1))
        (serve p k body (hunt p s)).2) := by
  have hj : judge p ⟨k.code, tag, body⟩ (hunt p s) = serve p k body (hunt p s) :=
    judge_served hp hl hm
  have hf : (Frame.mk k.code tag body).body.length ≤ Config.bodyMax := lengthOk_fits hl
  simp only [request, receiveFrame_taken h hf, takeFrame, hj]

/-- The same, for a request its block answers OK. -/
theorem request_ok {p : Port} {k : RequestKind} {tag : Byte} {body results : List Byte}
    {s t : State} (h : s.takes p) (hp : k.permitted p.cls = true)
    (hl : k.lengthOk body.length = true) (hm : s.mode ≠ .lockout ∨ k.lockoutAnswers = true)
    (hs : serve p k body (hunt p s) = (okWith results, t)) :
    request k p tag body s = answered p k.code tag .ok results t := by
  rw [request_served h hp hl hm, hs, replyTo_okWith]
  rfl

/-- The same, for a request its block answers with another status. -/
theorem request_refused {p : Port} {k : RequestKind} {tag : Byte} {body : List Byte} {st : Status}
    {s t : State} (h : s.takes p) (hp : k.permitted p.cls = true)
    (hl : k.lengthOk body.length = true) (hm : s.mode ≠ .lockout ∨ k.lockoutAnswers = true)
    (hs : serve p k body (hunt p s) = (refuse st, t)) :
    request k p tag body s = answered p k.code tag st [] t := by
  rw [request_served h hp hl hm, hs, replyTo_refuse]
  simp [answered]

end Sys2Proof.Machine
end

