-- ==== Sys2Proof/Laws/State.lean ====
section
/-!
SUPPORT. One law for each field and each named update: what an update of one record leaves of the
others. True by definition; no proof needs to unfold a record update for them.
-/

namespace Sys2Proof.Machine

variable (s : State)

@[simp] theorem setPort_settings (p : Port) (x : PortState) : (s.setPort p x).settings = s.settings := rfl
@[simp] theorem setPort_sales (p : Port) (x : PortState) : (s.setPort p x).sales = s.sales := rfl
@[simp] theorem setPort_memb (p : Port) (x : PortState) : (s.setPort p x).memb = s.memb := rfl
@[simp] theorem setPort_credits (p : Port) (x : PortState) : (s.setPort p x).credits = s.credits := rfl
@[simp] theorem setPort_gate (p : Port) (x : PortState) : (s.setPort p x).gate = s.gate := rfl
@[simp] theorem setPort_conv (p : Port) (x : PortState) : (s.setPort p x).conv = s.conv := rfl
@[simp] theorem setPort_track (p : Port) (x : PortState) : (s.setPort p x).track = s.track := rfl
@[simp] theorem setPort_stn (p : Port) (x : PortState) : (s.setPort p x).stn = s.stn := rfl
@[simp] theorem setPort_halt (p : Port) (x : PortState) : (s.setPort p x).halt = s.halt := rfl
@[simp] theorem setPort_mode (p : Port) (x : PortState) : (s.setPort p x).mode = s.mode := rfl
@[simp] theorem setPort_store (p : Port) (x : PortState) : (s.setPort p x).store = s.store := rfl
@[simp] theorem setPort_inputs (p : Port) (x : PortState) : (s.setPort p x).inputs = s.inputs := rfl
@[simp] theorem setPort_out (p : Port) (x : PortState) : (s.setPort p x).out = s.out := rfl
@[simp] theorem setPort_now (p : Port) (x : PortState) : (s.setPort p x).now = s.now := rfl
@[simp] theorem setPort_free (p : Port) (x : PortState) : (s.setPort p x).free = s.free := rfl
@[simp] theorem setPort_pending (p : Port) (x : PortState) : (s.setPort p x).pending = s.pending := rfl

@[simp] theorem hunt_settings (p : Port) : (hunt p s).settings = s.settings := rfl
@[simp] theorem hunt_sales (p : Port) : (hunt p s).sales = s.sales := rfl
@[simp] theorem hunt_memb (p : Port) : (hunt p s).memb = s.memb := rfl
@[simp] theorem hunt_credits (p : Port) : (hunt p s).credits = s.credits := rfl
@[simp] theorem hunt_gate (p : Port) : (hunt p s).gate = s.gate := rfl
@[simp] theorem hunt_conv (p : Port) : (hunt p s).conv = s.conv := rfl
@[simp] theorem hunt_track (p : Port) : (hunt p s).track = s.track := rfl
@[simp] theorem hunt_stn (p : Port) : (hunt p s).stn = s.stn := rfl
@[simp] theorem hunt_halt (p : Port) : (hunt p s).halt = s.halt := rfl
@[simp] theorem hunt_mode (p : Port) : (hunt p s).mode = s.mode := rfl
@[simp] theorem hunt_store (p : Port) : (hunt p s).store = s.store := rfl
@[simp] theorem hunt_inputs (p : Port) : (hunt p s).inputs = s.inputs := rfl
@[simp] theorem hunt_out (p : Port) : (hunt p s).out = s.out := rfl
@[simp] theorem hunt_now (p : Port) : (hunt p s).now = s.now := rfl
@[simp] theorem hunt_free (p : Port) : (hunt p s).free = s.free := rfl
@[simp] theorem hunt_pending (p : Port) : (hunt p s).pending = s.pending := rfl

@[simp] theorem setRequest_settings (p : Port) (r : RequestState) : (setRequest p r s).settings = s.settings := rfl
@[simp] theorem setRequest_sales (p : Port) (r : RequestState) : (setRequest p r s).sales = s.sales := rfl
@[simp] theorem setRequest_memb (p : Port) (r : RequestState) : (setRequest p r s).memb = s.memb := rfl
@[simp] theorem setRequest_credits (p : Port) (r : RequestState) : (setRequest p r s).credits = s.credits := rfl
@[simp] theorem setRequest_gate (p : Port) (r : RequestState) : (setRequest p r s).gate = s.gate := rfl
@[simp] theorem setRequest_conv (p : Port) (r : RequestState) : (setRequest p r s).conv = s.conv := rfl
@[simp] theorem setRequest_track (p : Port) (r : RequestState) : (setRequest p r s).track = s.track := rfl
@[simp] theorem setRequest_stn (p : Port) (r : RequestState) : (setRequest p r s).stn = s.stn := rfl
@[simp] theorem setRequest_halt (p : Port) (r : RequestState) : (setRequest p r s).halt = s.halt := rfl
@[simp] theorem setRequest_mode (p : Port) (r : RequestState) : (setRequest p r s).mode = s.mode := rfl
@[simp] theorem setRequest_store (p : Port) (r : RequestState) : (setRequest p r s).store = s.store := rfl
@[simp] theorem setRequest_inputs (p : Port) (r : RequestState) : (setRequest p r s).inputs = s.inputs := rfl
@[simp] theorem setRequest_out (p : Port) (r : RequestState) : (setRequest p r s).out = s.out := rfl
@[simp] theorem setRequest_now (p : Port) (r : RequestState) : (setRequest p r s).now = s.now := rfl
@[simp] theorem setRequest_free (p : Port) (r : RequestState) : (setRequest p r s).free = s.free := rfl
@[simp] theorem setRequest_pending (p : Port) (r : RequestState) : (setRequest p r s).pending = s.pending := rfl

@[simp] theorem setHeld_settings (p : Port) (f : Option Frame) : (setHeld p f s).settings = s.settings := rfl
@[simp] theorem setHeld_sales (p : Port) (f : Option Frame) : (setHeld p f s).sales = s.sales := rfl
@[simp] theorem setHeld_memb (p : Port) (f : Option Frame) : (setHeld p f s).memb = s.memb := rfl
@[simp] theorem setHeld_credits (p : Port) (f : Option Frame) : (setHeld p f s).credits = s.credits := rfl
@[simp] theorem setHeld_gate (p : Port) (f : Option Frame) : (setHeld p f s).gate = s.gate := rfl
@[simp] theorem setHeld_conv (p : Port) (f : Option Frame) : (setHeld p f s).conv = s.conv := rfl
@[simp] theorem setHeld_track (p : Port) (f : Option Frame) : (setHeld p f s).track = s.track := rfl
@[simp] theorem setHeld_stn (p : Port) (f : Option Frame) : (setHeld p f s).stn = s.stn := rfl
@[simp] theorem setHeld_halt (p : Port) (f : Option Frame) : (setHeld p f s).halt = s.halt := rfl
@[simp] theorem setHeld_mode (p : Port) (f : Option Frame) : (setHeld p f s).mode = s.mode := rfl
@[simp] theorem setHeld_store (p : Port) (f : Option Frame) : (setHeld p f s).store = s.store := rfl
@[simp] theorem setHeld_inputs (p : Port) (f : Option Frame) : (setHeld p f s).inputs = s.inputs := rfl
@[simp] theorem setHeld_out (p : Port) (f : Option Frame) : (setHeld p f s).out = s.out := rfl
@[simp] theorem setHeld_now (p : Port) (f : Option Frame) : (setHeld p f s).now = s.now := rfl
@[simp] theorem setHeld_free (p : Port) (f : Option Frame) : (setHeld p f s).free = s.free := rfl
@[simp] theorem setHeld_pending (p : Port) (f : Option Frame) : (setHeld p f s).pending = s.pending := rfl

@[simp] theorem raiseTo_settings (p : Port) (n : Notice) : (raiseTo p n s).settings = s.settings := rfl
@[simp] theorem raiseTo_sales (p : Port) (n : Notice) : (raiseTo p n s).sales = s.sales := rfl
@[simp] theorem raiseTo_memb (p : Port) (n : Notice) : (raiseTo p n s).memb = s.memb := rfl
@[simp] theorem raiseTo_credits (p : Port) (n : Notice) : (raiseTo p n s).credits = s.credits := rfl
@[simp] theorem raiseTo_gate (p : Port) (n : Notice) : (raiseTo p n s).gate = s.gate := rfl
@[simp] theorem raiseTo_conv (p : Port) (n : Notice) : (raiseTo p n s).conv = s.conv := rfl
@[simp] theorem raiseTo_track (p : Port) (n : Notice) : (raiseTo p n s).track = s.track := rfl
@[simp] theorem raiseTo_stn (p : Port) (n : Notice) : (raiseTo p n s).stn = s.stn := rfl
@[simp] theorem raiseTo_halt (p : Port) (n : Notice) : (raiseTo p n s).halt = s.halt := rfl
@[simp] theorem raiseTo_mode (p : Port) (n : Notice) : (raiseTo p n s).mode = s.mode := rfl
@[simp] theorem raiseTo_store (p : Port) (n : Notice) : (raiseTo p n s).store = s.store := rfl
@[simp] theorem raiseTo_inputs (p : Port) (n : Notice) : (raiseTo p n s).inputs = s.inputs := rfl
@[simp] theorem raiseTo_out (p : Port) (n : Notice) : (raiseTo p n s).out = s.out := rfl
@[simp] theorem raiseTo_now (p : Port) (n : Notice) : (raiseTo p n s).now = s.now := rfl
@[simp] theorem raiseTo_free (p : Port) (n : Notice) : (raiseTo p n s).free = s.free := rfl
@[simp] theorem raiseTo_pending (p : Port) (n : Notice) : (raiseTo p n s).pending = s.pending := rfl

@[simp] theorem raiseAll_settings (n : Notice) : (raiseAll n s).settings = s.settings := rfl
@[simp] theorem raiseAll_sales (n : Notice) : (raiseAll n s).sales = s.sales := rfl
@[simp] theorem raiseAll_memb (n : Notice) : (raiseAll n s).memb = s.memb := rfl
@[simp] theorem raiseAll_credits (n : Notice) : (raiseAll n s).credits = s.credits := rfl
@[simp] theorem raiseAll_gate (n : Notice) : (raiseAll n s).gate = s.gate := rfl
@[simp] theorem raiseAll_conv (n : Notice) : (raiseAll n s).conv = s.conv := rfl
@[simp] theorem raiseAll_track (n : Notice) : (raiseAll n s).track = s.track := rfl
@[simp] theorem raiseAll_stn (n : Notice) : (raiseAll n s).stn = s.stn := rfl
@[simp] theorem raiseAll_halt (n : Notice) : (raiseAll n s).halt = s.halt := rfl
@[simp] theorem raiseAll_mode (n : Notice) : (raiseAll n s).mode = s.mode := rfl
@[simp] theorem raiseAll_store (n : Notice) : (raiseAll n s).store = s.store := rfl
@[simp] theorem raiseAll_inputs (n : Notice) : (raiseAll n s).inputs = s.inputs := rfl
@[simp] theorem raiseAll_out (n : Notice) : (raiseAll n s).out = s.out := rfl
@[simp] theorem raiseAll_now (n : Notice) : (raiseAll n s).now = s.now := rfl
@[simp] theorem raiseAll_free (n : Notice) : (raiseAll n s).free = s.free := rfl
@[simp] theorem raiseAll_pending (n : Notice) : (raiseAll n s).pending = s.pending := rfl

@[simp] theorem setRoster_settings (r : List Car) : (setRoster r s).settings = s.settings := rfl
@[simp] theorem setRoster_sales (r : List Car) : (setRoster r s).sales = s.sales := rfl
@[simp] theorem setRoster_memb (r : List Car) : (setRoster r s).memb = s.memb := rfl
@[simp] theorem setRoster_credits (r : List Car) : (setRoster r s).credits = s.credits := rfl
@[simp] theorem setRoster_gate (r : List Car) : (setRoster r s).gate = s.gate := rfl
@[simp] theorem setRoster_conv (r : List Car) : (setRoster r s).conv = s.conv := rfl
@[simp] theorem setRoster_stn (r : List Car) : (setRoster r s).stn = s.stn := rfl
@[simp] theorem setRoster_halt (r : List Car) : (setRoster r s).halt = s.halt := rfl
@[simp] theorem setRoster_mode (r : List Car) : (setRoster r s).mode = s.mode := rfl
@[simp] theorem setRoster_store (r : List Car) : (setRoster r s).store = s.store := rfl
@[simp] theorem setRoster_ports (r : List Car) : (setRoster r s).ports = s.ports := rfl
@[simp] theorem setRoster_inputs (r : List Car) : (setRoster r s).inputs = s.inputs := rfl
@[simp] theorem setRoster_out (r : List Car) : (setRoster r s).out = s.out := rfl
@[simp] theorem setRoster_now (r : List Car) : (setRoster r s).now = s.now := rfl
@[simp] theorem setRoster_free (r : List Car) : (setRoster r s).free = s.free := rfl
@[simp] theorem setRoster_pending (r : List Car) : (setRoster r s).pending = s.pending := rfl

@[simp] theorem setMachine_settings (j : StationIx) (m : StationMachine) : (setMachine j m s).settings = s.settings := rfl
@[simp] theorem setMachine_sales (j : StationIx) (m : StationMachine) : (setMachine j m s).sales = s.sales := rfl
@[simp] theorem setMachine_memb (j : StationIx) (m : StationMachine) : (setMachine j m s).memb = s.memb := rfl
@[simp] theorem setMachine_credits (j : StationIx) (m : StationMachine) : (setMachine j m s).credits = s.credits := rfl
@[simp] theorem setMachine_gate (j : StationIx) (m : StationMachine) : (setMachine j m s).gate = s.gate := rfl
@[simp] theorem setMachine_conv (j : StationIx) (m : StationMachine) : (setMachine j m s).conv = s.conv := rfl
@[simp] theorem setMachine_track (j : StationIx) (m : StationMachine) : (setMachine j m s).track = s.track := rfl
@[simp] theorem setMachine_halt (j : StationIx) (m : StationMachine) : (setMachine j m s).halt = s.halt := rfl
@[simp] theorem setMachine_mode (j : StationIx) (m : StationMachine) : (setMachine j m s).mode = s.mode := rfl
@[simp] theorem setMachine_store (j : StationIx) (m : StationMachine) : (setMachine j m s).store = s.store := rfl
@[simp] theorem setMachine_ports (j : StationIx) (m : StationMachine) : (setMachine j m s).ports = s.ports := rfl
@[simp] theorem setMachine_inputs (j : StationIx) (m : StationMachine) : (setMachine j m s).inputs = s.inputs := rfl
@[simp] theorem setMachine_out (j : StationIx) (m : StationMachine) : (setMachine j m s).out = s.out := rfl
@[simp] theorem setMachine_now (j : StationIx) (m : StationMachine) : (setMachine j m s).now = s.now := rfl
@[simp] theorem setMachine_free (j : StationIx) (m : StationMachine) : (setMachine j m s).free = s.free := rfl
@[simp] theorem setMachine_pending (j : StationIx) (m : StationMachine) : (setMachine j m s).pending = s.pending := rfl

@[simp] theorem endJog_settings : (endJog s).settings = s.settings := rfl
@[simp] theorem endJog_sales : (endJog s).sales = s.sales := rfl
@[simp] theorem endJog_memb : (endJog s).memb = s.memb := rfl
@[simp] theorem endJog_credits : (endJog s).credits = s.credits := rfl
@[simp] theorem endJog_gate : (endJog s).gate = s.gate := rfl
@[simp] theorem endJog_conv : (endJog s).conv = s.conv := rfl
@[simp] theorem endJog_track : (endJog s).track = s.track := rfl
@[simp] theorem endJog_halt : (endJog s).halt = s.halt := rfl
@[simp] theorem endJog_mode : (endJog s).mode = s.mode := rfl
@[simp] theorem endJog_store : (endJog s).store = s.store := rfl
@[simp] theorem endJog_ports : (endJog s).ports = s.ports := rfl
@[simp] theorem endJog_inputs : (endJog s).inputs = s.inputs := rfl
@[simp] theorem endJog_out : (endJog s).out = s.out := rfl
@[simp] theorem endJog_now : (endJog s).now = s.now := rfl
@[simp] theorem endJog_free : (endJog s).free = s.free := rfl
@[simp] theorem endJog_pending : (endJog s).pending = s.pending := rfl

@[simp] theorem updateTicket_settings (n : Nat) (f : Ticket → Ticket) : (updateTicket n f s).settings = s.settings := rfl
@[simp] theorem updateTicket_memb (n : Nat) (f : Ticket → Ticket) : (updateTicket n f s).memb = s.memb := rfl
@[simp] theorem updateTicket_credits (n : Nat) (f : Ticket → Ticket) : (updateTicket n f s).credits = s.credits := rfl
@[simp] theorem updateTicket_gate (n : Nat) (f : Ticket → Ticket) : (updateTicket n f s).gate = s.gate := rfl
@[simp] theorem updateTicket_conv (n : Nat) (f : Ticket → Ticket) : (updateTicket n f s).conv = s.conv := rfl
@[simp] theorem updateTicket_track (n : Nat) (f : Ticket → Ticket) : (updateTicket n f s).track = s.track := rfl
@[simp] theorem updateTicket_stn (n : Nat) (f : Ticket → Ticket) : (updateTicket n f s).stn = s.stn := rfl
@[simp] theorem updateTicket_halt (n : Nat) (f : Ticket → Ticket) : (updateTicket n f s).halt = s.halt := rfl
@[simp] theorem updateTicket_mode (n : Nat) (f : Ticket → Ticket) : (updateTicket n f s).mode = s.mode := rfl
@[simp] theorem updateTicket_store (n : Nat) (f : Ticket → Ticket) : (updateTicket n f s).store = s.store := rfl
@[simp] theorem updateTicket_ports (n : Nat) (f : Ticket → Ticket) : (updateTicket n f s).ports = s.ports := rfl
@[simp] theorem updateTicket_inputs (n : Nat) (f : Ticket → Ticket) : (updateTicket n f s).inputs = s.inputs := rfl
@[simp] theorem updateTicket_out (n : Nat) (f : Ticket → Ticket) : (updateTicket n f s).out = s.out := rfl
@[simp] theorem updateTicket_now (n : Nat) (f : Ticket → Ticket) : (updateTicket n f s).now = s.now := rfl
@[simp] theorem updateTicket_free (n : Nat) (f : Ticket → Ticket) : (updateTicket n f s).free = s.free := rfl
@[simp] theorem updateTicket_pending (n : Nat) (f : Ticket → Ticket) : (updateTicket n f s).pending = s.pending := rfl

@[simp] theorem freeTicket_settings (n : Nat) : (freeTicket n s).settings = s.settings := rfl
@[simp] theorem freeTicket_memb (n : Nat) : (freeTicket n s).memb = s.memb := rfl
@[simp] theorem freeTicket_credits (n : Nat) : (freeTicket n s).credits = s.credits := rfl
@[simp] theorem freeTicket_gate (n : Nat) : (freeTicket n s).gate = s.gate := rfl
@[simp] theorem freeTicket_conv (n : Nat) : (freeTicket n s).conv = s.conv := rfl
@[simp] theorem freeTicket_track (n : Nat) : (freeTicket n s).track = s.track := rfl
@[simp] theorem freeTicket_stn (n : Nat) : (freeTicket n s).stn = s.stn := rfl
@[simp] theorem freeTicket_halt (n : Nat) : (freeTicket n s).halt = s.halt := rfl
@[simp] theorem freeTicket_mode (n : Nat) : (freeTicket n s).mode = s.mode := rfl
@[simp] theorem freeTicket_store (n : Nat) : (freeTicket n s).store = s.store := rfl
@[simp] theorem freeTicket_ports (n : Nat) : (freeTicket n s).ports = s.ports := rfl
@[simp] theorem freeTicket_inputs (n : Nat) : (freeTicket n s).inputs = s.inputs := rfl
@[simp] theorem freeTicket_out (n : Nat) : (freeTicket n s).out = s.out := rfl
@[simp] theorem freeTicket_now (n : Nat) : (freeTicket n s).now = s.now := rfl
@[simp] theorem freeTicket_free (n : Nat) : (freeTicket n s).free = s.free := rfl
@[simp] theorem freeTicket_pending (n : Nat) : (freeTicket n s).pending = s.pending := rfl

@[simp] theorem addTicket_settings (t : Ticket) : (addTicket t s).settings = s.settings := rfl
@[simp] theorem addTicket_memb (t : Ticket) : (addTicket t s).memb = s.memb := rfl
@[simp] theorem addTicket_credits (t : Ticket) : (addTicket t s).credits = s.credits := rfl
@[simp] theorem addTicket_gate (t : Ticket) : (addTicket t s).gate = s.gate := rfl
@[simp] theorem addTicket_conv (t : Ticket) : (addTicket t s).conv = s.conv := rfl
@[simp] theorem addTicket_track (t : Ticket) : (addTicket t s).track = s.track := rfl
@[simp] theorem addTicket_stn (t : Ticket) : (addTicket t s).stn = s.stn := rfl
@[simp] theorem addTicket_halt (t : Ticket) : (addTicket t s).halt = s.halt := rfl
@[simp] theorem addTicket_mode (t : Ticket) : (addTicket t s).mode = s.mode := rfl
@[simp] theorem addTicket_store (t : Ticket) : (addTicket t s).store = s.store := rfl
@[simp] theorem addTicket_ports (t : Ticket) : (addTicket t s).ports = s.ports := rfl
@[simp] theorem addTicket_inputs (t : Ticket) : (addTicket t s).inputs = s.inputs := rfl
@[simp] theorem addTicket_out (t : Ticket) : (addTicket t s).out = s.out := rfl
@[simp] theorem addTicket_now (t : Ticket) : (addTicket t s).now = s.now := rfl
@[simp] theorem addTicket_free (t : Ticket) : (addTicket t s).free = s.free := rfl
@[simp] theorem addTicket_pending (t : Ticket) : (addTicket t s).pending = s.pending := rfl

@[simp] theorem setSaleSlot_settings (i : Lane) (x : SaleSlot) : (setSaleSlot i x s).settings = s.settings := rfl
@[simp] theorem setSaleSlot_memb (i : Lane) (x : SaleSlot) : (setSaleSlot i x s).memb = s.memb := rfl
@[simp] theorem setSaleSlot_credits (i : Lane) (x : SaleSlot) : (setSaleSlot i x s).credits = s.credits := rfl
@[simp] theorem setSaleSlot_gate (i : Lane) (x : SaleSlot) : (setSaleSlot i x s).gate = s.gate := rfl
@[simp] theorem setSaleSlot_conv (i : Lane) (x : SaleSlot) : (setSaleSlot i x s).conv = s.conv := rfl
@[simp] theorem setSaleSlot_track (i : Lane) (x : SaleSlot) : (setSaleSlot i x s).track = s.track := rfl
@[simp] theorem setSaleSlot_stn (i : Lane) (x : SaleSlot) : (setSaleSlot i x s).stn = s.stn := rfl
@[simp] theorem setSaleSlot_halt (i : Lane) (x : SaleSlot) : (setSaleSlot i x s).halt = s.halt := rfl
@[simp] theorem setSaleSlot_mode (i : Lane) (x : SaleSlot) : (setSaleSlot i x s).mode = s.mode := rfl
@[simp] theorem setSaleSlot_store (i : Lane) (x : SaleSlot) : (setSaleSlot i x s).store = s.store := rfl
@[simp] theorem setSaleSlot_ports (i : Lane) (x : SaleSlot) : (setSaleSlot i x s).ports = s.ports := rfl
@[simp] theorem setSaleSlot_inputs (i : Lane) (x : SaleSlot) : (setSaleSlot i x s).inputs = s.inputs := rfl
@[simp] theorem setSaleSlot_out (i : Lane) (x : SaleSlot) : (setSaleSlot i x s).out = s.out := rfl
@[simp] theorem setSaleSlot_now (i : Lane) (x : SaleSlot) : (setSaleSlot i x s).now = s.now := rfl
@[simp] theorem setSaleSlot_free (i : Lane) (x : SaleSlot) : (setSaleSlot i x s).free = s.free := rfl
@[simp] theorem setSaleSlot_pending (i : Lane) (x : SaleSlot) : (setSaleSlot i x s).pending = s.pending := rfl

@[simp] theorem countRow_settings (r : Row) (n : Nat) : (countRow r n s).settings = s.settings := rfl
@[simp] theorem countRow_memb (r : Row) (n : Nat) : (countRow r n s).memb = s.memb := rfl
@[simp] theorem countRow_credits (r : Row) (n : Nat) : (countRow r n s).credits = s.credits := rfl
@[simp] theorem countRow_gate (r : Row) (n : Nat) : (countRow r n s).gate = s.gate := rfl
@[simp] theorem countRow_conv (r : Row) (n : Nat) : (countRow r n s).conv = s.conv := rfl
@[simp] theorem countRow_track (r : Row) (n : Nat) : (countRow r n s).track = s.track := rfl
@[simp] theorem countRow_stn (r : Row) (n : Nat) : (countRow r n s).stn = s.stn := rfl
@[simp] theorem countRow_halt (r : Row) (n : Nat) : (countRow r n s).halt = s.halt := rfl
@[simp] theorem countRow_mode (r : Row) (n : Nat) : (countRow r n s).mode = s.mode := rfl
@[simp] theorem countRow_store (r : Row) (n : Nat) : (countRow r n s).store = s.store := rfl
@[simp] theorem countRow_ports (r : Row) (n : Nat) : (countRow r n s).ports = s.ports := rfl
@[simp] theorem countRow_inputs (r : Row) (n : Nat) : (countRow r n s).inputs = s.inputs := rfl
@[simp] theorem countRow_out (r : Row) (n : Nat) : (countRow r n s).out = s.out := rfl
@[simp] theorem countRow_now (r : Row) (n : Nat) : (countRow r n s).now = s.now := rfl
@[simp] theorem countRow_free (r : Row) (n : Nat) : (countRow r n s).free = s.free := rfl
@[simp] theorem countRow_pending (r : Row) (n : Nat) : (countRow r n s).pending = s.pending := rfl

@[simp] theorem setLaneQueue_settings (i : Lane) (q : List Nat) : (setLaneQueue i q s).settings = s.settings := rfl
@[simp] theorem setLaneQueue_sales (i : Lane) (q : List Nat) : (setLaneQueue i q s).sales = s.sales := rfl
@[simp] theorem setLaneQueue_memb (i : Lane) (q : List Nat) : (setLaneQueue i q s).memb = s.memb := rfl
@[simp] theorem setLaneQueue_credits (i : Lane) (q : List Nat) : (setLaneQueue i q s).credits = s.credits := rfl
@[simp] theorem setLaneQueue_conv (i : Lane) (q : List Nat) : (setLaneQueue i q s).conv = s.conv := rfl
@[simp] theorem setLaneQueue_track (i : Lane) (q : List Nat) : (setLaneQueue i q s).track = s.track := rfl
@[simp] theorem setLaneQueue_stn (i : Lane) (q : List Nat) : (setLaneQueue i q s).stn = s.stn := rfl
@[simp] theorem setLaneQueue_halt (i : Lane) (q : List Nat) : (setLaneQueue i q s).halt = s.halt := rfl
@[simp] theorem setLaneQueue_mode (i : Lane) (q : List Nat) : (setLaneQueue i q s).mode = s.mode := rfl
@[simp] theorem setLaneQueue_store (i : Lane) (q : List Nat) : (setLaneQueue i q s).store = s.store := rfl
@[simp] theorem setLaneQueue_ports (i : Lane) (q : List Nat) : (setLaneQueue i q s).ports = s.ports := rfl
@[simp] theorem setLaneQueue_inputs (i : Lane) (q : List Nat) : (setLaneQueue i q s).inputs = s.inputs := rfl
@[simp] theorem setLaneQueue_out (i : Lane) (q : List Nat) : (setLaneQueue i q s).out = s.out := rfl
@[simp] theorem setLaneQueue_now (i : Lane) (q : List Nat) : (setLaneQueue i q s).now = s.now := rfl
@[simp] theorem setLaneQueue_free (i : Lane) (q : List Nat) : (setLaneQueue i q s).free = s.free := rfl
@[simp] theorem setLaneQueue_pending (i : Lane) (q : List Nat) : (setLaneQueue i q s).pending = s.pending := rfl

@[simp] theorem setEntry_settings (k : EntryIx) (e : MemberEntry) : (setEntry k e s).settings = s.settings := rfl
@[simp] theorem setEntry_sales (k : EntryIx) (e : MemberEntry) : (setEntry k e s).sales = s.sales := rfl
@[simp] theorem setEntry_credits (k : EntryIx) (e : MemberEntry) : (setEntry k e s).credits = s.credits := rfl
@[simp] theorem setEntry_gate (k : EntryIx) (e : MemberEntry) : (setEntry k e s).gate = s.gate := rfl
@[simp] theorem setEntry_conv (k : EntryIx) (e : MemberEntry) : (setEntry k e s).conv = s.conv := rfl
@[simp] theorem setEntry_track (k : EntryIx) (e : MemberEntry) : (setEntry k e s).track = s.track := rfl
@[simp] theorem setEntry_stn (k : EntryIx) (e : MemberEntry) : (setEntry k e s).stn = s.stn := rfl
@[simp] theorem setEntry_halt (k : EntryIx) (e : MemberEntry) : (setEntry k e s).halt = s.halt := rfl
@[simp] theorem setEntry_mode (k : EntryIx) (e : MemberEntry) : (setEntry k e s).mode = s.mode := rfl
@[simp] theorem setEntry_store (k : EntryIx) (e : MemberEntry) : (setEntry k e s).store = s.store := rfl
@[simp] theorem setEntry_ports (k : EntryIx) (e : MemberEntry) : (setEntry k e s).ports = s.ports := rfl
@[simp] theorem setEntry_inputs (k : EntryIx) (e : MemberEntry) : (setEntry k e s).inputs = s.inputs := rfl
@[simp] theorem setEntry_out (k : EntryIx) (e : MemberEntry) : (setEntry k e s).out = s.out := rfl
@[simp] theorem setEntry_now (k : EntryIx) (e : MemberEntry) : (setEntry k e s).now = s.now := rfl
@[simp] theorem setEntry_free (k : EntryIx) (e : MemberEntry) : (setEntry k e s).free = s.free := rfl
@[simp] theorem setEntry_pending (k : EntryIx) (e : MemberEntry) : (setEntry k e s).pending = s.pending := rfl

@[simp] theorem drive_settings : (drive s).settings = s.settings := rfl
@[simp] theorem drive_sales : (drive s).sales = s.sales := rfl
@[simp] theorem drive_memb : (drive s).memb = s.memb := rfl
@[simp] theorem drive_credits : (drive s).credits = s.credits := rfl
@[simp] theorem drive_gate : (drive s).gate = s.gate := rfl
@[simp] theorem drive_conv : (drive s).conv = s.conv := rfl
@[simp] theorem drive_track : (drive s).track = s.track := rfl
@[simp] theorem drive_stn : (drive s).stn = s.stn := rfl
@[simp] theorem drive_halt : (drive s).halt = s.halt := rfl
@[simp] theorem drive_mode : (drive s).mode = s.mode := rfl
@[simp] theorem drive_store : (drive s).store = s.store := rfl
@[simp] theorem drive_ports : (drive s).ports = s.ports := rfl
@[simp] theorem drive_inputs : (drive s).inputs = s.inputs := rfl
@[simp] theorem drive_now : (drive s).now = s.now := rfl
@[simp] theorem drive_free : (drive s).free = s.free := rfl
@[simp] theorem drive_pending : (drive s).pending = s.pending := rfl

@[simp] theorem setRoster_roster (r : List Car) : (setRoster r s).track.roster = r := rfl
@[simp] theorem setRoster_moved (r : List Car) : (setRoster r s).track.moved = s.track.moved := rfl
@[simp] theorem setMachine_jog (j : StationIx) (m : StationMachine) :
    (setMachine j m s).stn.jog = s.stn.jog := rfl
@[simp] theorem endJog_jog : (endJog s).stn.jog = none := rfl
@[simp] theorem endJog_machines : (endJog s).stn.machines = s.stn.machines := rfl
@[simp] theorem drive_out : (drive s).out = outputsOf s := rfl

end Sys2Proof.Machine
end

