-- ==== Sys2Proof/Laws/Reactions.lean ====
section
/-!
SUPPORT. What the shared operations can do, said once. State.frame is the part of the state that the
reactions of the blocks leave alone. Reacts is the closure of the few updates that every operation is
made of: whatever holds across each of them holds across every operation and every event.
-/

namespace Sys2Proof.Machine

/-- The records that the gate, the roster, the stations and the sales reach only through a cause, a
notice, run demand or the end of a drain. -/
def State.frame (s : State) :=
  (s.halt, s.mode, s.conv.state, s.conv.parked, s.conv.pulseTotal, s.inputs, s.ports, s.store,
    s.settings, s.pending, s.free, s.now)

/-- What a reaction is made of. -/
inductive Reacts : State → State → Prop where
  /-- Only records outside the frame change. -/
  | quiet {s t : State} (h : t.frame = s.frame) : Reacts s t
  | trans {s t u : State} (h : Reacts s t) (k : Reacts t u) : Reacts s u
  /-- A notice is raised to a port. -/
  | notice (p : Port) (n : Notice) (s : State) : Reacts s (raiseTo p n s)
  /-- CONV tests run demand. -/
  | demand (s : State) : Reacts s (testDemand s)
  /-- GATE asks CONV to unpark. -/
  | unpark (s : State) : Reacts s { s with conv := { s.conv with parked := false } }
  /-- MODE ends a drain, and CONV tests run demand. -/
  | drained (s : State) (h : s.mode = .draining) : Reacts s (testDemand { s with mode := .closed })
  /-- A block raises a cause. -/
  | cause (c : Cause) (subj : Subject) (s : State) : Reacts s (raiseCause c subj s)
  /-- A cause clears itself. -/
  | clear (c : Cause) (s : State) : Reacts s (clearCause c s)

namespace Reacts

theorem refl (s : State) : Reacts s s := quiet rfl

/-- A quiet change after a reaction. -/
theorem then_quiet {s t u : State} (h : Reacts s t) (k : u.frame = t.frame) : Reacts s u :=
  h.trans (quiet k)

/-- A reaction after a quiet change. -/
theorem after {s t u : State} (k : Reacts t u) (h : t.frame = s.frame) : Reacts s u :=
  (quiet h).trans k

/-- A fold of reactions is a reaction. -/
theorem foldl {α : Type} {f : State → α → State} (hf : ∀ s x, Reacts s (f s x)) :
    ∀ (l : List α) (s : State), Reacts s (l.foldl f s)
  | [], s => refl s
  | x :: l, s => (hf s x).trans (foldl hf l (f s x))

end Reacts

/-- A fold of quiet changes is quiet. -/
theorem frame_foldl {α : Type} {f : State → α → State} (hf : ∀ s x, (f s x).frame = s.frame) :
    ∀ (l : List α) (s : State), (l.foldl f s).frame = s.frame
  | [], _ => rfl
  | x :: l, s => (frame_foldl hf l (f s x)).trans (hf s x)

/-! ## Quiet operations -/

theorem updateTicket_frame (n : Nat) (f : Ticket → Ticket) (s : State) :
    (updateTicket n f s).frame = s.frame := rfl

theorem setSaleSlot_frame (i : Lane) (x : SaleSlot) (s : State) :
    (setSaleSlot i x s).frame = s.frame := rfl

theorem setEntry_frame (k : EntryIx) (e : MemberEntry) (s : State) :
    (setEntry k e s).frame = s.frame := rfl

theorem updateMachine_frame (j : StationIx) (f : StationMachine → StationMachine) (s : State) :
    (updateMachine j f s).frame = s.frame := rfl

theorem withdrawArm_frame (j : StationIx) (s : State) : (withdrawArm j s).frame = s.frame := rfl

theorem advanceArm_frame (j : StationIx) (s : State) : (advanceArm j s).frame = s.frame := rfl

theorem endStep_frame (j : StationIx) (s : State) : (endStep j s).frame = s.frame := by
  unfold endStep
  dsimp only
  repeat' split
  all_goals rfl

theorem startStep_frame (j : StationIx) (s : State) : (startStep j s).frame = s.frame := by
  unfold startStep
  repeat' split
  all_goals rfl

theorem evalStation_frame (j : StationIx) (s : State) : (evalStation j s).frame = s.frame := by
  unfold evalStation
  split
  · rw [startStep_frame]
    exact endStep_frame j (qualifyStep j s)
  · rfl
  · rfl

/-- R118: an evaluation changes the roster and the stations alone. -/
theorem evaluate_frame (s : State) : (evaluate s).frame = s.frame := by
  unfold evaluate
  rw [frame_foldl (fun s j => evalStation_frame j s)]

theorem stopArm_frame (s : State) (j : StationIx) : (stopArm s j).frame = s.frame := by
  unfold stopArm
  split <;> rfl

theorem stopStations_frame (s : State) : (stopStations s).frame = s.frame := by
  unfold stopStations
  rw [frame_foldl stopArm_frame]
  rfl

theorem judgeStation_frame (s : State) (j : StationIx) : (judgeStation s j).frame = s.frame := rfl

theorem judgeStations_frame (s : State) : (judgeStations s).frame = s.frame := by
  unfold judgeStations
  rw [frame_foldl judgeStation_frame]

theorem holdStations_frame (s : State) : (holdStations s).frame = s.frame := rfl

theorem releaseStations_frame (s : State) : (releaseStations s).frame = s.frame := rfl

/-- R130 to R133: the stations' reaction changes the roster and the stations alone. -/
theorem stationsHaltChange_frame (old new : HaltState) (s : State) :
    (stationsHaltChange old new s).frame = s.frame := by
  unfold stationsHaltChange
  rw [evaluate_frame]
  split
  · exact stopStations_frame s
  · exact stopStations_frame s
  · exact holdStations_frame s
  · rw [holdStations_frame, judgeStations_frame]
  · exact judgeStations_frame s
  · exact releaseStations_frame s
  · exact Eq.refl _
  · exact Eq.refl _
  · exact Eq.refl _

theorem testTire_frame (s : State) : (testTire s).frame = s.frame := by
  unfold testTire
  split <;> rfl

/-- R53, R54: GATE's reaction to the halt state changes the gate alone. -/
theorem gateHaltChange_frame (s : State) : (gateHaltChange s).frame = s.frame := by
  unfold gateHaltChange
  repeat' split
  · exact testTire_frame _
  · rfl
  · rfl

theorem evalIfPaceMoved_frame (b s : State) : (evalIfPaceMoved b s).frame = s.frame := by
  unfold evalIfPaceMoved
  split
  · rfl
  · exact evaluate_frame s

theorem enterOffer_frame (s : State) : (enterOffer s).frame = s.frame := testTire_frame _

theorem takeHead_frame (n : Nat) (l : List Nat) (s : State) : (takeHead n l s).frame = s.frame := rfl

theorem testSpacing_frame (s : State) : (testSpacing s).frame = s.frame := by
  unfold testSpacing
  split <;> rfl

theorem testPark_frame (b s : State) : (testPark b s).frame = s.frame := by
  unfold testPark
  repeat' split
  all_goals rfl

theorem joinMergeTail_frame (n : Nat) (s : State) : (joinMergeTail n s).frame = s.frame := rfl

theorem joinLaneQueue_frame (i : Lane) (n : Nat) (s : State) :
    (joinLaneQueue i n s).frame = s.frame := rfl

theorem cancelSlot_frame (i : Lane) (s : State) : (cancelSlot i s).frame = s.frame := by
  unfold cancelSlot
  split <;> rfl

theorem captureFlags_frame (s : State) : (captureFlags s).frame = s.frame := rfl

theorem clearStamp_frame (t : Word32) (s : State) : (clearStamp t s).frame = s.frame := rfl

theorem endJogOf_frame (j : StationIx) (s : State) : (endJogOf j s).frame = s.frame := by
  unfold endJogOf
  split <;> rfl

/-! ## Reactions -/

theorem retestDemand_reacts (s : State) : Reacts s (retestDemand s) :=
  (Reacts.demand s).then_quiet (evalIfPaceMoved_frame s _)

theorem holdGate_reacts (r : HoldReason) (n : Nat) (s : State) : Reacts s (holdGate r n s) :=
  (Reacts.quiet (s := s) (t := { s with gate := { s.gate with state := .held r } }) rfl).trans
    (.notice _ _ _)

theorem testIdleOnce_reacts (s : State) : Reacts s (testIdleOnce s) := by
  unfold testIdleOnce
  split
  · exact .refl s
  · split
    · exact holdGate_reacts _ _ s
    · split
      · exact .refl s
      · split
        · exact (Reacts.quiet (takeHead_frame _ _ s)).trans (holdGate_reacts _ _ _)
        · split
          · split
            · exact .quiet ((enterOffer_frame _).trans (takeHead_frame _ _ s))
            · split
              · exact (Reacts.unpark s).trans (retestDemand_reacts _)
              · exact .refl s
          · exact .refl s

/-- R51, R52, R78. -/
theorem testIdle_reacts (s : State) : Reacts s (testIdle s) :=
  (testIdleOnce_reacts s).trans (testIdleOnce_reacts _)

/-- R162: raising CLOSE_DONE touches no record that run demand reads. -/
theorem testDrain_reacts (s : State) : Reacts s (testDrain s) := by
  unfold testDrain
  split
  · next h =>
    have h1 : (raiseTo .site .closeDone s).mode = .draining := h.1
    have e : raiseTo .site .closeDone { s with mode := .closed } =
        { raiseTo .site .closeDone s with mode := .closed } := rfl
    rw [e]
    exact ((Reacts.notice .site .closeDone s).trans (.drained _ h1)).then_quiet
      (evalIfPaceMoved_frame _ _)
  · exact .refl s

theorem settleDrain_reacts (b s : State) : Reacts s (settleDrain b s) :=
  (testDrain_reacts s).then_quiet (testPark_frame b _)

/-- What every event ends with is a reaction. -/
theorem settle_reacts (b s : State) : Reacts s (settle b s) :=
  (testIdle_reacts s).trans (settleDrain_reacts b _)

theorem settleHalted_reacts (b s : State) : Reacts s (settleHalted b s) := by
  unfold settleHalted
  split
  · exact .refl s
  · exact settle_reacts b s

theorem clearStuck_reacts (s : State) : Reacts s (clearStuck s) := by
  unfold clearStuck
  split
  · exact .refl s
  · exact .clear _ s

theorem faultArm_reacts (j : StationIx) (s : State) : Reacts s (faultArm j s) :=
  (Reacts.quiet (s := s) (t := endJogOf j (updateMachine j (fun m => { m with
      arm := .fault, advanceTimer := .stopped, withdrawTimer := .stopped }) s))
    (endJogOf_frame j _)).trans (.cause _ _ _)

theorem testExitBlocked_reacts (s : State) : Reacts s (testExitBlocked s) := by
  unfold testExitBlocked
  split
  · exact .cause _ _ s
  · exact .refl s

/-- R94, R106, R118: a roster change is a reaction. -/
theorem rosterChanged_reacts (s : State) : Reacts s (rosterChanged s) :=
  (testExitBlocked_reacts s).then_quiet ((testSpacing_frame _).trans (evaluate_frame _))

theorem noteMoved_reacts (e : Eye) (s : State) : Reacts s (noteMoved e s) := by
  unfold noteMoved
  split
  · dsimp only
    split
    · exact .refl s
    · exact (Reacts.quiet (s := s) (t := { s with track := { s.track with moved := true } }) rfl).trans
        (.cause _ _ _)
    · exact .quiet rfl
  · exact .refl s

theorem dropOldestCredit_reacts (s : State) : Reacts s (dropOldestCredit s) := by
  unfold dropOldestCredit
  split
  · exact .refl s
  · next c rest _ =>
    exact (Reacts.quiet (s := s) (t := { s with
        credits := rest
        sales := { s.sales with saleSlots := vmap (SaleSlot.forget c.code) s.sales.saleSlots } })
      rfl).trans (.notice _ _ _)

theorem issueCredit_reacts (t : Ticket) (r : Result) (s : State) : Reacts s (issueCredit t r s) := by
  unfold issueCredit
  dsimp only
  split
  · exact (dropOldestCredit_reacts s).then_quiet rfl
  · exact .quiet rfl

theorem pushFinished_reacts (i : Lane) (e : Finished) (s : State) :
    Reacts s (pushFinished i e s) :=
  (Reacts.quiet (s := s) (t := { s with sales := { s.sales with
      finished := vmodify s.sales.finished i (fun l => (e :: l).take Config.finishedMax) } })
    rfl).trans (.notice _ _ _)

/-- R22: the retirement of a ticket is a reaction. -/
theorem retireTicket_reacts (n : Nat) (r : Result) (s : State) : Reacts s (retireTicket n r s) := by
  have tail : ∀ (t : Ticket) (c : Option Nat) (u : State), Reacts s u → Reacts s
      (match t.origin with
       | .lane i => pushFinished i ⟨n, t.receipt, r, c⟩ (freeTicket n u)
       | .console => freeTicket n u) := by
    intro t c u h
    split
    · exact (h.then_quiet (u := freeTicket n u) rfl).trans (pushFinished_reacts _ _ _)
    · exact h.then_quiet rfl
  unfold retireTicket
  split
  · exact .refl s
  · next t _ =>
    dsimp only
    refine tail t _ _ ?_
    split
    · exact issueCredit_reacts t r s
    · split
      · split
        · exact .quiet rfl
        · exact .refl s
      · exact .refl s

/-- R106: the removal of a car is a reaction. -/
theorem dropCar_reacts (n : Nat) (r : Result) (s : State) : Reacts s (dropCar n r s) := by
  unfold dropCar
  dsimp only
  refine Reacts.then_quiet ?_ (evaluate_frame _)
  have h := (Reacts.quiet (s := s)
    (t := setRoster (s.track.roster.filter (fun c => c.ticket ≠ n)) s) rfl).trans
      (retireTicket_reacts n r _)
  split
  · exact h.then_quiet rfl
  · exact h

theorem dropAtExit_reacts (s : State) (n : Nat) : Reacts s (dropAtExit s n) := by
  unfold dropAtExit
  split
  · exact dropCar_reacts _ _ s
  · exact .refl s

end Sys2Proof.Machine
end

