-- ==== Sys2Proof/Laws/Commands.lean ====
section
/-!
SUPPORT. What a command can do, said once: Does is the closure of the reactions and of the few edits
that commands make by themselves, and exec_does says that every command is made of them. Whatever
holds across each of these holds across every step.
-/

namespace Sys2Proof.Machine

/-- What a command is made of. -/
inductive Does : State → State → Prop where
  /-- A reaction of the blocks. -/
  | reacts {s t : State} (h : Reacts s t) : Does s t
  | trans {s t u : State} (h : Does s t) (k : Does t u) : Does s u
  /-- Time passes. -/
  | time (n : Nat) (s : State) : Does s (advance n s)
  /-- A field input other than the chain takes a level. -/
  | levels (i : Inputs) (s : State) (h : i.chainClosed = s.inputs.chainClosed) :
      Does s { s with inputs := i }
  /-- The safety chain takes a level, and CONV tests run demand. -/
  | chain (b : Bool) (s : State) :
      Does s (testDemand { s with inputs := { s.inputs with chainClosed := b } })
  /-- The mismatch timer starts or stops. -/
  | mismatch (t : Timer) (s : State) : Does s { s with halt := { s.halt with mismatchTimer := t } }
  /-- A setting is written. -/
  | settings (x : SiteSettings) (s : State) : Does s { s with settings := x }
  /-- A port's own records change, the pending notices apart. -/
  | port (p : Port) (x : PortState) (s : State) (h : x.notices = (s.port p).notices) :
      Does s (s.setPort p x)
  /-- Notices leave a port's pending set. -/
  | collect (p : Port) (x : PortState) (s : State) (h : x.notices.Sublist (s.port p).notices) :
      Does s (s.setPort p x)
  /-- R160. -/
  | opens (s : State) (h : s.mode = .closed ∨ s.mode = .draining) :
      Does s (testDemand { s with mode := .openMode })
  /-- R161. -/
  | drains (s : State) (h : s.mode = .openMode) : Does s { s with mode := .draining }
  /-- R163. -/
  | lockout (s : State) : Does s (testDemand { s with mode := .lockout })
  /-- R170: SETUP is left. -/
  | ready (s : State) (h : s.mode = .setup) : Does s { s with mode := .closed }
  /-- R73: the warning ends. -/
  | warned (s : State) (h : s.conv.state = .warning) : Does s (startRunning s)
  /-- R75: the belt comes to rest. -/
  | rested (s : State) (h : s.conv.state = .stopping) : Does s (enterRest s)
  /-- R78: the conveyor parks. -/
  | parks (s : State) :
      Does s (testDemand { s with conv := { s.conv with parkTimer := .stopped, parked := true } })
  /-- R79: a pulse is counted. -/
  | counts (s : State) :
      Does s { s with conv := { s.conv with pulseTotal := s.conv.pulseTotal + 1 } }
  /-- R151: a RESUME takes the STOP causes out and moves the halt state. -/
  | resumes (s : State) (h : s.halt.state = .stopped) :
      Does s (setHalt s.resumeTo
        (if s.resumeTo = .running then
          closeEpisode .console { s with halt := { s.halt with causes := s.heldCauses } }
         else { s with halt := { s.halt with causes := s.heldCauses } }))
  /-- R169 to R171: the store changes; while a save is in progress the marker does not become
  CLOSED. -/
  | stores (x : Store) (n : Nat) (s : State)
      (h : x.save ≠ none → x.marker ≠ .closed ∨ s.store.save ≠ none ∧ x.marker = s.store.marker) :
      Does s { s with store := x, free := n }
  /-- R167. -/
  | resets (s : State) : Does s (deviceReset s)

namespace Does

theorem refl (s : State) : Does s s := reacts (.refl s)

theorem quiet {s t : State} (h : t.frame = s.frame) : Does s t := reacts (.quiet h)

/-- A quiet change after a command's effects. -/
theorem then_quiet {s t u : State} (h : Does s t) (k : u.frame = t.frame) : Does s u :=
  h.trans (quiet k)

/-- A reaction after a command's effects. -/
theorem then_reacts {s t u : State} (h : Does s t) (k : Reacts t u) : Does s u :=
  h.trans (reacts k)

/-- A command's effects after a quiet change. -/
theorem after {s t u : State} (k : Does t u) (h : t.frame = s.frame) : Does s u :=
  (quiet h).trans k

/-- A reaction after a quiet change. -/
theorem reacts_after {s t u : State} (k : Reacts t u) (h : t.frame = s.frame) : Does s u :=
  (quiet h).then_reacts k

/-- A notice after a command's effects. -/
theorem then_notice {s t : State} (h : Does s t) (p : Port) (n : Notice) : Does s (raiseTo p n t) :=
  h.then_reacts (.notice p n t)

end Does

/-! ## The link -/

theorem hunt_does (p : Port) (s : State) : Does s (hunt p s) := .port p _ s rfl

theorem setRequest_does (p : Port) (r : RequestState) (s : State) : Does s (setRequest p r s) :=
  .port p _ s rfl

theorem setHeld_does (p : Port) (f : Option Frame) (s : State) : Does s (setHeld p f s) :=
  .port p _ s rfl

theorem takeNoticeRequest_does (p : Port) (s : State) : Does s (takeNoticeRequest p s).2 := by
  unfold takeNoticeRequest
  split
  · exact .refl s
  · exact .collect p _ s List.filter_sublist

theorem setMaskRequest_does (p : Port) (b : List Byte) (s : State) :
    Does s (setMaskRequest p b s).2 := by
  unfold setMaskRequest
  dsimp only
  split
  · exact .port p _ s rfl
  · exact .refl s

/-! ## Sales -/

theorem setRowRequest_does (b : List Byte) (s : State) : Does s (setRowRequest b s).2 := by
  unfold setRowRequest
  repeat' split
  all_goals first | exact .refl s | exact .settings _ s

theorem setMenuRequest_does (b : List Byte) (s : State) : Does s (setMenuRequest b s).2 := by
  unfold setMenuRequest
  repeat' split
  all_goals first | exact .refl s | exact .settings _ s

theorem setPeriodRequest_does (b : List Byte) (s : State) : Does s (setPeriodRequest b s).2 := by
  unfold setPeriodRequest
  repeat' split
  all_goals first | exact .refl s | exact .settings _ s

theorem setClockRequest_does (b : List Byte) (s : State) : Does s (setClockRequest b s).2 := by
  unfold setClockRequest
  split <;> exact .quiet rfl

theorem writeSale_frame (i : Lane) (record : Nat → Ticket) (s : State) :
    (writeSale i record s).2.frame = s.frame := by
  unfold writeSale
  split
  · rfl
  · dsimp only
    split <;> rfl

theorem quoteRequest_does (i : Lane) (b : List Byte) (s : State) :
    Does s (quoteRequest i b s).2 := by
  unfold quoteRequest
  repeat' split
  all_goals first
    | exact .refl s
    | exact .quiet (writeSale_frame i _ s)

theorem countRows_frame (rows : List Row) (lines : List Nat) (s : State) :
    (countRows rows lines s).frame = s.frame := by
  unfold countRows
  rw [frame_foldl (f := fun s (x : Row × Nat) => countRow x.1 x.2 s) (fun _ _ => rfl)]

theorem payRequest_does (i : Lane) (b : List Byte) (s : State) : Does s (payRequest i b s).2 := by
  unfold payRequest
  split
  · exact .refl s
  · split
    · exact .refl s
    · exact .refl s
    · split
      · exact .refl s
      · refine .quiet ?_
        dsimp only
        show State.frame (if _ then _ else _) = _
        split
        · split <;> split <;> rfl
        · exact (countRows_frame _ _ _).trans rfl

theorem cancelRequest_does (i : Lane) (s : State) : Does s (cancelRequest i s).2 := by
  unfold cancelRequest
  split
  · exact .refl s
  · exact (Does.quiet (cancelSlot_frame i s)).then_reacts (settleDrain_reacts s _)

theorem clearTotalsRequest_does (s : State) : Does s (clearTotalsRequest s).2 := .quiet rfl

theorem readTotalsRequest_does (b : List Byte) (s : State) : Does s (readTotalsRequest b s).2 := by
  unfold readTotalsRequest
  split <;> exact .refl s

theorem readTicketRequest_does (b : List Byte) (s : State) : Does s (readTicketRequest b s).2 := by
  unfold readTicketRequest
  split <;> exact .refl s

/-! ## Members and credits -/

theorem finishHit_frame (i : Lane) (k : EntryIx) (n : Nat) (s : State) :
    (finishHit i k n s).frame = s.frame := rfl

theorem tagRequest_does (i : Lane) (b : List Byte) (s : State) : Does s (tagRequest i b s).2 := by
  unfold tagRequest
  dsimp only
  split
  · exact .refl s
  · split
    · exact .refl s
    · split
      · exact .refl s
      · split
        · split
          · exact .refl s
          · exact .quiet ((finishHit_frame _ _ _ _).trans (writeSale_frame i _ s))
        · exact (Does.quiet ((setSaleSlot_frame _ _ _).trans
            (writeSale_frame i _ s))).then_notice _ _

theorem endWait_does (i : Lane) (st : Status) (s : State) : Does s (endWait i st s) :=
  (Does.quiet (cancelSlot_frame i s)).then_notice _ _

theorem completeWait_does (k : EntryIx) (s : State) (i : Lane) : Does s (completeWait k s i) := by
  unfold completeWait
  split
  · split
    · split
      · exact endWait_does i _ s
      · exact (Does.quiet ((finishHit_frame i k _ _).trans
          (updateTicket_frame _ _ s))).then_notice _ _
    · exact .refl s
  · exact .refl s
  · exact .refl s

/-- A fold of commands' effects is one. -/
theorem Does.foldl {α : Type} {f : State → α → State} (hf : ∀ s x, Does s (f s x)) :
    ∀ (l : List α) (s : State), Does s (l.foldl f s)
  | [], s => .refl s
  | x :: l, s => (hf s x).trans (Does.foldl hf l (f s x))

theorem completeWaits_does (k : EntryIx) (s : State) : Does s (completeWaits k s) := by
  unfold completeWaits
  exact Does.foldl (completeWait_does k) lanes s

theorem loaded_does (b : State) (k : EntryIx) (s : State) : Does s (loaded b k s).2 :=
  (completeWaits_does k s).then_reacts (settleDrain_reacts b _)

theorem loadMemberRequest_does (b : List Byte) (s : State) :
    Does s (loadMemberRequest b s).2 := by
  unfold loadMemberRequest
  split
  · exact .refl s
  · split
    · exact .refl s
    · split
      · exact .refl s
      · split
        · exact (Does.quiet (setEntry_frame _ _ s)).trans (loaded_does s _ _)
        · split
          · exact .refl s
          · split
            · exact .refl s
            · dsimp only
              split
              · exact (loaded_does s _ _).after rfl
              · exact (Does.quiet (setEntry_frame _ _ s)).trans (loaded_does s _ _)

theorem dropMemberRequest_does (b : List Byte) (s : State) :
    Does s (dropMemberRequest b s).2 := by
  unfold dropMemberRequest
  split
  · exact .refl s
  · split
    · exact .refl s
    · exact .quiet (setEntry_frame _ _ s)

theorem noMemberRequest_does (b : List Byte) (s : State) : Does s (noMemberRequest b s).2 := by
  unfold noMemberRequest
  dsimp only
  split
  · refine (Does.foldl (fun s' i => ?_) lanes s).then_reacts (settleDrain_reacts s _)
    split
    · exact endWait_does _ _ _
    · exact .refl _
  · exact .refl s

theorem setWiredRequest_does (b : List Byte) (s : State) : Does s (setWiredRequest b s).2 := by
  unfold setWiredRequest
  split
  · exact .refl s
  · exact (Does.quiet (s := s) (t := { s with memb := { s.memb with
      pointer := (fin? 48 (min (byteAt b 0) Config.wiredMax)).getD 0 } }) rfl).trans
        (.settings _ _)

theorem readMembersRequest_does (b : List Byte) (s : State) :
    Does s (readMembersRequest b s).2 := by
  unfold readMembersRequest
  split <;> exact .refl s

theorem redeemRequest_does (i : Lane) (b : List Byte) (s : State) :
    Does s (redeemRequest i b s).2 := by
  unfold redeemRequest
  dsimp only
  split
  · exact .refl s
  · split
    · exact .refl s
    · split
      · exact .refl s
      · split
        · exact .refl s
        · split
          · exact .refl s
          · exact .quiet ((setSaleSlot_frame _ _ _).trans (writeSale_frame i _ s))

theorem dropCreditRequest_does (b : List Byte) (s : State) :
    Does s (dropCreditRequest b s).2 := by
  unfold dropCreditRequest
  dsimp only
  repeat' split
  · exact .refl s
  · exact .refl s
  · exact .quiet rfl

theorem readCreditsRequest_does (b : List Byte) (s : State) :
    Does s (readCreditsRequest b s).2 := by
  unfold readCreditsRequest
  dsimp only
  split <;> exact .refl s

/-! ## The gate -/

theorem updateNewest_frame (f : Car → Car) (s : State) : (updateNewest f s).frame = s.frame := rfl

theorem placeRequest_does (b : List Byte) (s : State) : Does s (placeRequest b s).2 := by
  unfold placeRequest
  dsimp only
  split
  · exact .refl s
  · split
    · exact .refl s
    · split
      · exact .refl s
      · exact .reacts_after (settle_reacts s _) rfl

theorem decided_does {b u : State} {s : State} (r : Response) (h : Does s u) :
    Does s (decided b r u).2 :=
  (h.then_quiet (u := { u with gate := { u.gate with state := .idle } }) rfl).then_reacts
    (settle_reacts b _)

theorem decideRetry_does (s : State) : Does s (decideRetry s).2 := by
  unfold decideRetry
  repeat' split
  all_goals first
    | exact .refl s
    | exact decided_does _ (.quiet rfl)

theorem decideWave_does (s : State) : Does s (decideWave s).2 := by
  unfold decideWave
  repeat' split
  all_goals first
    | exact .refl s
    | exact decided_does _ (.quiet rfl)

theorem decideSell_does (r : Nat) (s : State) : Does s (decideSell r s).2 := by
  unfold decideSell
  repeat' split
  all_goals first
    | exact .refl s
    | exact decided_does _ (.quiet rfl)

theorem decideRemove_does (s : State) : Does s (decideRemove s).2 := by
  unfold decideRemove
  repeat' split
  all_goals first
    | exact .refl s
    | exact decided_does _ (.reacts_after (retireTicket_reacts _ _ _) rfl)

theorem gateDecideRequest_does (b : List Byte) (s : State) :
    Does s (gateDecideRequest b s).2 := by
  unfold gateDecideRequest
  split
  · exact decideRetry_does s
  · exact decideWave_does s
  · exact decideSell_does _ s
  · exact decideRemove_does s
  · exact .refl s

/-- R58, R59: a length that is fixed is a reaction. -/
theorem fixLength_reacts (n : Nat) (b : Bool) (s : State) : Reacts s (fixLength n b s) :=
  Reacts.after (rosterChanged_reacts _) rfl

theorem testSettled_reacts (s : State) : Reacts s (testSettled s) := by
  unfold testSettled
  repeat' split
  · exact fixLength_reacts _ _ s
  · exact fixLength_reacts _ _ s
  · exact .refl s

theorem testMaxLen_reacts (s : State) : Reacts s (testMaxLen s) := by
  unfold testMaxLen
  split
  · exact Reacts.after (Reacts.cause _ _ _) rfl
  · exact .refl s

theorem testLoadDistance_reacts (s : State) : Reacts s (testLoadDistance s) := by
  unfold testLoadDistance
  split
  · exact (Reacts.cause _ _ s).then_quiet (enterOffer_frame _)
  · exact .refl s

theorem testCapture_reacts (s : State) : Reacts s (testCapture s) := by
  unfold testCapture
  split
  · exact (Reacts.quiet (captureFlags_frame s)).trans (rosterChanged_reacts _)
  · exact .refl s

theorem gateEntryBreak_reacts (s : State) : Reacts s (gateEntryBreak s) := by
  unfold gateEntryBreak
  split
  · split
    · exact Reacts.after (rosterChanged_reacts _) rfl
    · exact .refl s
  · unfold resumeMeasure
    dsimp only
    refine Reacts.trans ?_ (testCapture_reacts _)
    exact Reacts.after (testMaxLen_reacts _) rfl
  all_goals exact .cause _ _ s

theorem gateEntryRestore_frame (s : State) : (gateEntryRestore s).frame = s.frame := by
  unfold gateEntryRestore
  split <;> rfl

theorem gatePulse_reacts (s : State) : Reacts s (gatePulse s) := by
  unfold gatePulse
  split
  · exact Reacts.after (testLoadDistance_reacts _) rfl
  · refine Reacts.trans ?_ (testSettled_reacts _)
    refine Reacts.trans ?_ (testMaxLen_reacts _)
    repeat' split
    · exact .refl s
    · exact .quiet rfl
    · exact .quiet rfl
  · exact .quiet (testSpacing_frame s)
  all_goals exact .refl s

theorem laneBreak_does (i : Lane) (s : State) : Does s (laneBreak i s) := by
  unfold laneBreak
  split
  · split
    · exact Does.reacts_after (Reacts.notice _ _ _) rfl
    · exact .quiet rfl
  · split
    · exact Does.reacts_after (Reacts.notice _ _ _) rfl
    · split
      · exact Does.reacts_after (Reacts.notice _ _ _) rfl
      · exact .quiet rfl

/-! ## The roster -/

theorem testSlip_reacts (s : State) : Reacts s (testSlip s) := by
  unfold testSlip
  exact (Reacts.foldl (f := fun s' (c : Car) => raiseCause .slip (.ticket c.ticket) s')
    (fun s' c => .cause _ _ s') _ _).after rfl

theorem testOverdue_reacts (s : State) : Reacts s (testOverdue s) := by
  unfold testOverdue
  split
  · exact .refl s
  · exact Reacts.foldl dropAtExit_reacts _ s

theorem dropAtLimit_reacts (s : State) (n : Nat) : Reacts s (dropAtLimit s n) :=
  (dropCar_reacts n .removed s).trans (.cause _ _ _)

/-- R94: TRACK's part of a pulse is a reaction. -/
theorem trackPulse_reacts (s : State) : Reacts s (trackPulse s) := by
  unfold trackPulse
  dsimp only
  refine Reacts.trans ?_ (testExitBlocked_reacts _)
  refine Reacts.trans ?_ (testOverdue_reacts _)
  refine Reacts.trans ?_ (testSlip_reacts _)
  exact (Reacts.foldl dropAtLimit_reacts _ _).after rfl

theorem verifyCheckpoint_reacts (k : Checkpoint) (g : CheckpointCfg) (s : State) :
    Reacts s (verifyCheckpoint k g s) := by
  unfold verifyCheckpoint
  split
  · split
    · exact .refl s
    · next i _ _ c _ =>
      dsimp only
      generalize (if i = 0 then none else s.track.roster[i - 1]?) = older
      split
      · exact Reacts.after (rosterChanged_reacts _) rfl
      · exact Reacts.after (Reacts.cause _ _ _) rfl
  · split
    · exact .refl s
    · exact .cause _ _ s

theorem verifyExit_reacts (s : State) : Reacts s (verifyExit s) := by
  unfold verifyExit
  repeat' split
  · exact .quiet rfl
  · exact .refl s
  · exact .cause _ _ s

theorem clearExit_reacts : ∀ (n : Nat) (s : State), Reacts s (clearExit n s)
  | 0, s => .refl s
  | n + 1, s => by
    unfold clearExit
    split
    · exact .refl s
    · split
      · exact (dropCar_reacts _ _ s).trans (clearExit_reacts n _)
      · exact .refl s

theorem removeCarRequest_does (b : List Byte) (s : State) :
    Does s (removeCarRequest b s).2 := by
  unfold removeCarRequest
  dsimp only
  repeat' split
  · exact .refl s
  · have h : Reacts s (rosterChanged (dropCar (wordAt b 0) .removed s)) :=
      (dropCar_reacts _ _ s).trans (rosterChanged_reacts _)
    dsimp only
    exact .reacts (h.trans (settle_reacts s (rosterChanged (dropCar (wordAt b 0) .removed s))))
  · exact .refl s

theorem confirmRosterRequest_does (s : State) : Does s (confirmRosterRequest s).2 := by
  unfold confirmRosterRequest
  split
  · exact .quiet rfl
  · exact .refl s

theorem readRosterRequest_does (b : List Byte) (s : State) :
    Does s (readRosterRequest b s).2 := by
  unfold readRosterRequest
  dsimp only
  split <;> exact .refl s

theorem setGeometryRequest_does (b : List Byte) (s : State) :
    Does s (setGeometryRequest b s).2 := by
  unfold setGeometryRequest
  repeat' split
  all_goals first | exact .refl s | exact .settings _ s

/-! ## The conveyor -/

theorem recordPulse_frame (s : State) : (recordPulse s).frame = s.frame := by
  unfold recordPulse
  split <;> rfl

theorem convPulse_does (s : State) : Does s (convPulse s) := by
  unfold convPulse
  dsimp only
  split
  · exact .counts s
  · exact (Does.counts s).then_quiet (recordPulse_frame _)
  · exact (Does.counts s).then_quiet (recordPulse_frame
      { s with conv := { s.conv with pulseTotal := s.conv.pulseTotal + 1 } })
  · exact (Does.counts s).then_quiet (recordPulse_frame
      { s with conv := { s.conv with pulseTotal := s.conv.pulseTotal + 1 } })

theorem pulse_does (n : Nat) (s : State) : Does s (pulse n s) := by
  unfold pulse
  exact ((((Does.time n s).trans (convPulse_does _)).then_reacts
    (trackPulse_reacts _)).then_quiet (evaluate_frame _)).then_reacts
      ((gatePulse_reacts _).trans (settle_reacts s _))

theorem setSpeedStepsRequest_does (b : List Byte) (s : State) :
    Does s (setSpeedStepsRequest b s).2 := by
  unfold setSpeedStepsRequest
  repeat' split
  all_goals first | exact .refl s | exact .settings _ s

theorem setTimingRequest_does (b : List Byte) (s : State) :
    Does s (setTimingRequest b s).2 := by
  unfold setTimingRequest
  dsimp only
  split
  · exact .refl s
  · split
    · exact .refl s
    · next t _ _ =>
      have h : Does s { s with settings := { s.settings with timing := t } } := .settings _ s
      show Does s (if _ then _ else _)
      split
      · exact h
      · exact (h.then_quiet (evalIfPaceMoved_frame s _)).then_reacts (settleDrain_reacts s _)

theorem readConveyorRequest_does (s : State) : Does s (readConveyorRequest s).2 := .refl s

/-! ## The stations -/

theorem setMachine_frame (j : StationIx) (m : StationMachine) (s : State) :
    (setMachine j m s).frame = s.frame := rfl

theorem startMachine_reacts (j : StationIx) (s : State) : Reacts s (startMachine j s) := by
  unfold startMachine
  dsimp only
  repeat' split
  · exact .quiet (setMachine_frame _ _ s)
  · exact (Reacts.cause _ _ _).after (setMachine_frame _ _ s)
  · exact .quiet (setMachine_frame _ _ s)

theorem writeStation_does (j : StationIx) (st : StationCfg) (s : State) :
    Does s (writeStation j st s) := by
  unfold writeStation
  dsimp only
  have h := (Does.settings { s.settings with stations := vset s.settings.stations j st } s
    ).then_reacts (startMachine_reacts j _)
  split
  · exact h.then_reacts (clearStuck_reacts _)
  · exact h

theorem setStationRequest_does (b : List Byte) (s : State) :
    Does s (setStationRequest b s).2 := by
  unfold setStationRequest
  split
  · exact .refl s
  · split
    · exact .refl s
    · split
      · exact .refl s
      · split
        · exact .refl s
        · exact (writeStation_does _ _ s).then_reacts (settleHalted_reacts s _)

theorem endJog_frame (s : State) : (endJog s).frame = s.frame := rfl

theorem jogRequest_does (b : List Byte) (s : State) : Does s (jogRequest b s).2 := by
  unfold jogRequest
  repeat' split
  all_goals first | exact .refl s | exact .quiet rfl

theorem jogStopRequest_does (s : State) : Does s (jogStopRequest s).2 := by
  unfold jogStopRequest
  split
  · exact .refl s
  · exact .quiet (endJog_frame s)

theorem readStationRequest_does (b : List Byte) (s : State) :
    Does s (readStationRequest b s).2 := by
  unfold readStationRequest
  split <;> exact .refl s

theorem setStowed_does (c : Channel) (b : Bool) (s : State) : Does s (setStowed c b s) :=
  .levels _ s rfl

theorem armOpens_reacts (j : StationIx) (s : State) : Reacts s (armOpens j s) := by
  unfold armOpens
  split
  · exact faultArm_reacts j s
  · exact .quiet (updateMachine_frame _ _ s)
  all_goals exact .refl s

theorem stowArm_frame (j : StationIx) (s : State) : (stowArm j s).frame = s.frame := rfl

theorem armCloses_reacts (j : StationIx) (s : State) : Reacts s (armCloses j s) := by
  unfold armCloses
  split
  · exact (Reacts.quiet ((evaluate_frame _).trans (stowArm_frame j s))).trans
      (settleDrain_reacts s _)
  · exact (((clearStuck_reacts _).after (stowArm_frame j s)).then_quiet
      (evaluate_frame _)).trans (settleDrain_reacts s _)
  all_goals exact .refl s

theorem switchOpens_does (c : Channel) (s : State) : Does s (switchOpens c s) := by
  unfold switchOpens
  split
  · exact (setStowed_does c false s).then_reacts
      ((armOpens_reacts _ _).trans (settleHalted_reacts s _))
  · exact setStowed_does c false s

theorem switchCloses_does (c : Channel) (s : State) : Does s (switchCloses c s) := by
  unfold switchCloses
  split
  · exact (setStowed_does c true s).then_reacts (armCloses_reacts _ _)
  · exact setStowed_does c true s

theorem engageArm_frame (j : StationIx) (s : State) : (engageArm j s).frame = s.frame := rfl

theorem markAll_frame (j : StationIx) (t : Car → Bool) (p : Progress) (s : State) :
    (markAll j t p s).frame = s.frame := rfl

theorem advanceExpiry_does (j : StationIx) (s : State) : Does s (advanceExpiry j s) := by
  unfold advanceExpiry
  repeat' split
  · exact .quiet (engageArm_frame j s)
  · exact .reacts (((faultArm_reacts j _).after (markAll_frame j _ _ s)).trans
      (settleHalted_reacts s _))
  · exact .refl s

theorem withdrawExpiry_does (j : StationIx) (s : State) : Does s (withdrawExpiry j s) := by
  unfold withdrawExpiry
  split
  · exact .reacts ((faultArm_reacts j s).trans (settleHalted_reacts s _))
  · exact .refl s

theorem testTrip_reacts (j : StationIx) (s : State) : Reacts s (testTrip j s) := by
  unfold testTrip
  split
  · exact (Reacts.cause _ _ _).after
      ((endJogOf_frame j _).trans (updateMachine_frame j _ s))
  · exact .refl s

theorem countSample_frame (j : StationIx) (n : Nat) (s : State) :
    (countSample j n s).frame = s.frame := rfl

theorem sample_does (c : Channel) (n : Nat) (s : State) : Does s (sample c n s) := by
  have h : Does s { s with inputs := { s.inputs with
      motorCurrent := vset s.inputs.motorCurrent c n } } := .levels _ s rfl
  unfold sample
  dsimp only
  repeat' split
  · exact h
  · exact (h.then_quiet (countSample_frame _ n _)).then_reacts
      ((testTrip_reacts _ _).trans (settleHalted_reacts s _))
  · exact h

/-! ## Halts and modes -/

theorem haltRequest_does (p : Port) (s : State) : Does s (haltRequest p s).2 := by
  unfold haltRequest
  dsimp only
  have h : Reacts s (raiseCause (haltCause p) .none s) := .cause _ _ s
  exact .reacts (h.trans (settleHalted_reacts s (raiseCause (haltCause p) .none s)))

theorem fixTailgated_reacts (s : State) : Reacts s (fixTailgated s) := by
  unfold fixTailgated
  split
  · exact fixLength_reacts _ _ s
  · exact .refl s

theorem resumeRefusal_none {s : State} (h : s.resumeRefusal = none) : s.halt.state = .stopped := by
  unfold State.resumeRefusal at h
  split at h
  · cases h
  · next hs => exact Classical.not_not.mp hs

theorem resumeRequest_does (s : State) : Does s (resumeRequest s).2 := by
  unfold resumeRequest
  split
  · exact .refl s
  · next h =>
    have hr := (Does.resumes (endJog s) (resumeRefusal_none h)).after (endJog_frame s)
    dsimp only
    unfold carryOutResume
    dsimp only
    exact (hr.then_reacts (fixTailgated_reacts _)).then_reacts (settle_reacts s _)

theorem testMismatch_does (s : State) : Does s (testMismatch s) := by
  unfold testMismatch
  repeat' split
  · exact .mismatch _ s
  · exact .refl s
  · exact .mismatch _ s

theorem chainOpens_does (s : State) : Does s (chainOpens s) := by
  unfold chainOpens
  dsimp only
  have h : Does s (testDemand (endJog { s with inputs := { s.inputs with chainClosed := false } })) :=
    (Does.chain false (endJog s)).after (endJog_frame s)
  exact ((h.then_quiet (evalIfPaceMoved_frame _ _)).trans (testMismatch_does _)).then_reacts
    ((Reacts.cause _ _ _).trans (settle_reacts s _))

theorem chainCloses_does (s : State) : Does s (chainCloses s) := by
  unfold chainCloses
  exact (((Does.chain true s).then_quiet (evalIfPaceMoved_frame _ _)).trans
    (testMismatch_does _)).then_reacts (settle_reacts s _)

theorem raiseAll_reacts (n : Notice) (s : State) : Reacts s (raiseAll n s) := by
  have step : ∀ (p : Port) (u : State), Reacts u (raiseTo p n u) := fun p u => .notice p n u
  have e : raiseAll n s = raiseTo .site n (raiseTo .console n (raiseTo (.lane 2) n
      (raiseTo (.lane 1) n (raiseTo (.lane 0) n s)))) := by
    unfold raiseAll raiseTo State.setPort State.port
    congr 1
    apply Vector.ext
    intro i hi
    have : i = 0 ∨ i = 1 ∨ i = 2 ∨ i = 3 ∨ i = 4 := by omega
    rcases this with rfl | rfl | rfl | rfl | rfl <;>
      simp [vset, Port.index]
  rw [e]
  exact ((((step _ s).trans (step _ _)).trans (step _ _)).trans (step _ _)).trans (step _ _)

/-- R163: the entry to LOCKOUT. -/
theorem enterLockout_does (s : State) : Does s (enterLockout s) := by
  unfold enterLockout
  dsimp only
  have h0 : Does s (raiseAll .lockout { s with
      halt := { s.halt with mismatchTimer := .stopped } }) :=
    (Does.mismatch .stopped s).then_reacts (raiseAll_reacts _ _)
  have h1 := (h0.then_quiet (endJog_frame _)).trans (Does.lockout _)
  exact (h1.then_quiet (stationsHaltChange_frame s.stationHalt .stopped _)).then_reacts
    (settle_reacts s _)

theorem mismatchExpiry_does (s : State) : Does s (mismatchExpiry s) := by
  unfold mismatchExpiry
  repeat' split
  · exact .mismatch _ s
  · exact enterLockout_does s
  · exact .refl s

theorem openRequest_does (s : State) : Does s (openRequest s).2 := by
  unfold openRequest
  split
  · next h =>
    dsimp only
    exact ((Does.opens s (.inl h)).then_quiet (evalIfPaceMoved_frame _ _)).then_reacts
      (settle_reacts s _)
  · next h =>
    dsimp only
    exact ((Does.opens s (.inr h)).then_quiet (evalIfPaceMoved_frame _ _)).then_reacts
      (settle_reacts s _)
  all_goals exact .refl s

theorem closeRequest_does (s : State) : Does s (closeRequest s).2 := by
  unfold closeRequest
  split
  · next h =>
    dsimp only
    exact (Does.drains s h).then_reacts (settleDrain_reacts s _)
  all_goals exact .refl s

theorem saveRequest_does (s : State) : Does s (saveRequest s).2 := by
  unfold saveRequest
  split
  · exact .refl s
  · refine .stores _ s.free s (fun _ => .inl ?_)
    dsimp only
    split
    · exact fun h => by cases h
    · assumption

theorem spoilRow_does (j : SaveJob) (x : Store → Store)
    (hx : ∀ st, (x st).save = none) (s : State) :
    Does s { spoilRow j s with store := x (spoilRow j s).store } := by
  unfold spoilRow
  split
  all_goals exact .stores _ (s.free + 1) s (fun h => absurd (hx _) h)

theorem rowWritten_does (b : Bool) (s : State) : Does s (rowWritten b s) := by
  unfold rowWritten
  split
  · exact .refl s
  · next j hj =>
    split
    · unfold rowAgrees
      split
      · exact .stores _ s.free s (fun _ => .inl (fun h => by cases h))
      · refine .stores _ s.free s (fun _ => .inr ⟨?_, rfl⟩)
        rw [hj]
        exact fun h => by cases h
      · unfold completeSave
        refine Does.then_notice ?_ _ _
        split
        · next h => exact (Does.ready s h).trans (.stores _ s.free _ (fun h => absurd rfl h))
        · exact .stores _ s.free s (fun h => absurd rfl h)
    · unfold failSave
      dsimp only
      exact (spoilRow_does j (fun st => { st with torn := true, blank := false, save := none })
        (fun _ => rfl) s).then_notice _ _

theorem readStatusRequest_does (s : State) : Does s (readStatusRequest s).2 := .refl s

theorem readHaltHistoryRequest_does (s : State) : Does s (readHaltHistoryRequest s).2 := .refl s

theorem laneStatusRequest_does (i : Lane) (s : State) : Does s (laneStatusRequest i s).2 := .refl s

/-! ## Every request -/

theorem serveLane_does (i : Lane) (k : RequestKind) (b : List Byte) (s : State) :
    Does s (serveLane i k b s).2 := by
  unfold serveLane
  split
  · exact quoteRequest_does i b s
  · exact payRequest_does i b s
  · exact cancelRequest_does i s
  · exact tagRequest_does i b s
  · exact redeemRequest_does i b s
  · exact laneStatusRequest_does i s
  · exact .refl s

/-- R180: whatever a request does. -/
theorem serve_does (p : Port) (k : RequestKind) (b : List Byte) (s : State) :
    Does s (serve p k b s).2 := by
  cases k
  case readStatus => exact readStatusRequest_does s
  case takeNotice => exact takeNoticeRequest_does p s
  case setMask => exact setMaskRequest_does p b s
  case readTicket => exact readTicketRequest_does b s
  case halt => exact haltRequest_does p s
  case resume => exact resumeRequest_does s
  case confirmRoster => exact confirmRosterRequest_does s
  case removeCar => exact removeCarRequest_does b s
  case gateDecide => exact gateDecideRequest_does b s
  case place => exact placeRequest_does b s
  case jog => exact jogRequest_does b s
  case jogStop => exact jogStopRequest_does s
  case readRoster => exact readRosterRequest_does b s
  case readHaltHistory => exact readHaltHistoryRequest_does s
  case readStation => exact readStationRequest_does b s
  case readConveyor => exact readConveyorRequest_does s
  case setRow => exact setRowRequest_does b s
  case setMenu => exact setMenuRequest_does b s
  case setPeriod => exact setPeriodRequest_does b s
  case setClock => exact setClockRequest_does b s
  case setTiming => exact setTimingRequest_does b s
  case setSpeedSteps => exact setSpeedStepsRequest_does b s
  case setStation => exact setStationRequest_does b s
  case setGeometry => exact setGeometryRequest_does b s
  case loadMember => exact loadMemberRequest_does b s
  case dropMember => exact dropMemberRequest_does b s
  case noMember => exact noMemberRequest_does b s
  case setWired => exact setWiredRequest_does b s
  case readMembers => exact readMembersRequest_does b s
  case readCredits => exact readCreditsRequest_does b s
  case dropCredit => exact dropCreditRequest_does b s
  case readTotals => exact readTotalsRequest_does b s
  case clearTotals => exact clearTotalsRequest_does s
  case openTunnel => exact openRequest_does s
  case close => exact closeRequest_does s
  case save => exact saveRequest_does s
  all_goals
    cases p
    · exact serveLane_does _ _ b s
    · exact .refl s
    · exact .refl s

theorem judge_does (p : Port) (f : Frame) (s : State) : Does s (judge p f s).2 := by
  unfold judge
  split
  · exact .refl s
  · split
    · exact .refl s
    · split
      · exact .refl s
      · split
        · exact .refl s
        · exact serve_does p _ f.body s

theorem takeFrame_does (p : Port) (f : Frame) (s : State) : Does s (takeFrame p f s) := by
  unfold takeFrame
  exact (judge_does p f s).trans (setRequest_does p _ _)

theorem handleFrame_does (p : Port) (f : Frame) (s : State) : Does s (handleFrame p f s) := by
  unfold handleFrame
  split
  · exact takeFrame_does p f s
  · split
    · exact setHeld_does p _ s
    · exact .refl s

theorem receiveFrame_does (p : Port) (f : Frame) (s : State) : Does s (receiveFrame p f s) := by
  unfold receiveFrame
  split
  · exact .refl s
  · exact (hunt_does p s).trans (handleFrame_does p f _)

theorem keepBytes_does (p : Port) (l : List Byte) (s : State) : Does s (keepBytes p l s) :=
  .port p _ s rfl

theorem receiveByte_does (p : Port) (b : Byte) (s : State) : Does s (receiveByte p b s) := by
  unfold receiveByte
  split
  · exact .refl s
  · split
    · split
      · exact keepBytes_does p _ s
      · exact .refl s
    · unfold growFrame
      dsimp only
      split
      · exact hunt_does p s
      · split
        · split
          · exact receiveFrame_does p _ s
          · exact hunt_does p s
        · exact keepBytes_does p _ s

theorem replyDone_does (p : Port) (s : State) : Does s (replyDone p s) := by
  unfold replyDone
  split
  · exact .refl s
  · split
    · exact (setHeld_does p none s).trans (takeFrame_does p _ _)
    · exact setRequest_does p _ s

theorem portReset_does (p : Port) (s : State) : Does s (portReset p s) := by
  unfold portReset
  split
  · exact .refl s
  · have h : Does s (s.setPort p { s.port p with
        receiver := .hunting, gapTimer := .stopped, held := none, notices := [], mask := 0,
        lineLow := true }) := .collect p _ s (List.nil_sublist _)
    unfold cancelAtReset
    split
    · exact (h.then_quiet (cancelSlot_frame _ _)).then_reacts (settleDrain_reacts _ _)
    · exact h
    · exact h

/-! ## Every event -/

theorem minuteExpiry_does (s : State) : Does s (minuteExpiry s) := by
  unfold minuteExpiry
  split <;> exact .quiet rfl

theorem pendingExpiry_does (i : Lane) (s : State) : Does s (pendingExpiry i s) := by
  unfold pendingExpiry
  split
  · split
    · exact ((Does.quiet (cancelSlot_frame i s)).then_notice _ _).then_reacts
        (settleDrain_reacts s _)
    · exact .refl s
  all_goals exact .refl s

theorem lookupExpiry_does (i : Lane) (s : State) : Does s (lookupExpiry i s) := by
  unfold lookupExpiry
  split
  · split
    · exact (endWait_does i _ s).then_reacts (settleDrain_reacts s _)
    · exact .refl s
  all_goals exact .refl s

theorem offerExpiry_does (s : State) : Does s (offerExpiry s) := by
  unfold offerExpiry
  split
  · exact .reacts_after (holdGate_reacts _ _ _) rfl
  · exact .refl s

theorem entryBreak_does (s : State) : Does s (entryBreak s) := by
  unfold entryBreak
  exact (Does.levels { s.inputs with entryEye := true } s rfl).then_reacts
    ((noteMoved_reacts _ _).trans (gateEntryBreak_reacts _))

theorem entryRestore_does (s : State) : Does s (entryRestore s) := by
  unfold entryRestore
  exact (Does.levels { s.inputs with entryEye := false } s rfl).then_reacts
    ((noteMoved_reacts _ _).then_quiet (gateEntryRestore_frame _))

theorem checkpointBreak_does (k : Checkpoint) (s : State) : Does s (checkpointBreak k s) := by
  have h : Does s { s with inputs := { s.inputs with
      checkpointEyes := vset s.inputs.checkpointEyes k true } } := .levels _ s rfl
  unfold checkpointBreak
  dsimp only
  repeat' split
  · exact h
  · exact h.then_reacts (noteMoved_reacts _ _)
  · exact h.then_reacts (verifyCheckpoint_reacts _ _ _)

theorem checkpointRestore_does (k : Checkpoint) (s : State) : Does s (checkpointRestore k s) := by
  have h : Does s { s with inputs := { s.inputs with
      checkpointEyes := vset s.inputs.checkpointEyes k false } } := .levels _ s rfl
  unfold checkpointRestore
  dsimp only
  split
  · exact h
  · exact h.then_reacts (noteMoved_reacts _ _)

theorem exitBreak_does (s : State) : Does s (exitBreak s) := by
  have h : Does s { s with inputs := { s.inputs with exitEye := true } } := .levels _ s rfl
  unfold exitBreak
  dsimp only
  refine Does.then_reacts ?_ (testExitBlocked_reacts _)
  split
  · exact h.then_reacts (noteMoved_reacts _ _)
  · exact h.then_reacts (verifyExit_reacts _)

theorem exitRestore_does (s : State) : Does s (exitRestore s) := by
  have h : Does s { s with inputs := { s.inputs with exitEye := false } } := .levels _ s rfl
  unfold exitRestore
  dsimp only
  refine Does.then_reacts ?_ (.clear _ _)
  have h2 := h.then_reacts (clearExit_reacts s.track.roster.length _)
  split
  · exact h2.then_reacts (rosterChanged_reacts _)
  · exact h2.then_reacts (noteMoved_reacts _ _)

theorem warnExpiry_does (s : State) : Does s (warnExpiry s) := by
  unfold warnExpiry
  split
  · next h => exact (Does.warned s h.1).then_reacts (settle_reacts s _)
  · exact .refl s

theorem restExpiry_does (s : State) : Does s (restExpiry s) := by
  unfold restExpiry
  split
  · next h =>
    exact ((Does.rested s h.1).then_quiet (evalIfPaceMoved_frame s _)).then_reacts
      ((Reacts.demand _).trans (settle_reacts s _))
  · exact .refl s

theorem stallExpiry_does (s : State) : Does s (stallExpiry s) := by
  unfold stallExpiry
  split
  · refine Does.then_reacts ?_ (settleHalted_reacts s _)
    exact .reacts_after (.cause _ _ _) rfl
  · exact .refl s

theorem parkExpiry_does (s : State) : Does s (parkExpiry s) := by
  unfold parkExpiry
  split
  · exact ((Does.parks s).then_quiet (evalIfPaceMoved_frame _ _)).then_reacts (settle_reacts s _)
  · exact .refl s

/-- Every command answers a next state whose lines follow its records, and whose records come about
as Does says. -/
theorem exec_does (c : Instr) (s : State) : ∃ u, exec c s = .next (drive u) ∧ Does s u := by
  have rq : ∀ k p tag body, ∃ u, request k p tag body s = .next (drive u) ∧ Does s u :=
    fun k p tag body => ⟨_, rfl, receiveFrame_does p ⟨k.code, tag, body⟩ s⟩
  cases c
  case unknownRequestKind p k tag body => exact ⟨_, rfl, receiveFrame_does p ⟨k, tag, body⟩ s⟩
  case frameHeld p k tag body => exact ⟨_, rfl, receiveFrame_does p ⟨k, tag, body⟩ s⟩
  case frameDiscarded p => exact ⟨_, rfl, hunt_does p s⟩
  case framingError p => exact ⟨_, rfl, hunt_does p s⟩
  case gapTimerExpiry p =>
    refine ⟨_, rfl, ?_⟩
    unfold gapExpiry
    split
    · exact hunt_does p s
    · exact .refl s
  case replySent p => exact ⟨_, rfl, replyDone_does p s⟩
  case portReset p => exact ⟨_, rfl, portReset_does p s⟩
  case deviceReset => exact ⟨_, rfl, .resets s⟩
  case minuteTimerExpiry => exact ⟨_, rfl, minuteExpiry_does s⟩
  case pendingTimerExpiry i => exact ⟨_, rfl, pendingExpiry_does i s⟩
  case lookupTimerExpiry i => exact ⟨_, rfl, lookupExpiry_does i s⟩
  case laneExitEyeBreak i =>
    exact ⟨_, rfl, (laneBreak_does i s).then_reacts (settle_reacts s _)⟩
  case offer => exact ⟨_, rfl, .reacts ((testIdle_reacts s).then_quiet (testPark_frame s _))⟩
  case offerTimerExpiry => exact ⟨_, rfl, offerExpiry_does s⟩
  case tireSwitchCloses =>
    exact ⟨_, rfl, (Does.levels { s.inputs with tireClosed := true } s rfl).then_quiet
      (testTire_frame _)⟩
  case rollerUpTimerExpiry => exact ⟨_, rfl, .quiet rfl⟩
  case loadDistancePassed =>
    exact ⟨_, rfl, .reacts ((testLoadDistance_reacts s).trans (settleHalted_reacts s _))⟩
  case entryEyeBreak => exact ⟨_, rfl, (entryBreak_does s).then_reacts (settleHalted_reacts s _)⟩
  case entryEyeRestore =>
    exact ⟨_, rfl, (entryRestore_does s).then_reacts (settleHalted_reacts s _)⟩
  case settleReached =>
    refine ⟨_, rfl, ?_⟩
    split
    · exact .reacts ((testSettled_reacts s).trans (settle_reacts s _))
    · exact .refl s
  case maxLenReached =>
    exact ⟨_, rfl, .reacts ((testMaxLen_reacts s).trans (settleHalted_reacts s _))⟩
  case heightEyeBreak =>
    exact ⟨_, rfl, (Does.levels { s.inputs with heightEye := true } s rfl).then_reacts
      ((testCapture_reacts _).trans (settleHalted_reacts s _))⟩
  case widthEyeBreak =>
    exact ⟨_, rfl, (Does.levels { s.inputs with widthEye := true } s rfl).then_reacts
      ((testCapture_reacts _).trans (settleHalted_reacts s _))⟩
  case encoderPulse n => exact ⟨_, rfl, pulse_does n s⟩
  case checkpointEyeBreak k =>
    refine ⟨_, rfl, ?_⟩
    split
    · exact (checkpointBreak_does k s).then_reacts (settle_reacts s _)
    · exact checkpointBreak_does k s
  case checkpointEyeRestore k =>
    exact ⟨_, rfl, (checkpointRestore_does k s).then_reacts (settleHalted_reacts s _)⟩
  case exitEyeBreak => exact ⟨_, rfl, (exitBreak_does s).then_reacts (settleHalted_reacts s _)⟩
  case exitEyeRestore => exact ⟨_, rfl, (exitRestore_does s).then_reacts (settle_reacts s _)⟩
  case warnTimerExpiry => exact ⟨_, rfl, warnExpiry_does s⟩
  case atRestTimerExpiry => exact ⟨_, rfl, restExpiry_does s⟩
  case stallTimerExpiry => exact ⟨_, rfl, stallExpiry_does s⟩
  case parkTimerExpiry => exact ⟨_, rfl, parkExpiry_does s⟩
  case safetyChainOpens => exact ⟨_, rfl, chainOpens_does s⟩
  case safetyChainCloses => exact ⟨_, rfl, chainCloses_does s⟩
  case driveFaultActive =>
    exact ⟨_, rfl, (Does.levels { s.inputs with driveFault := true } s rfl).then_reacts
      ((Reacts.cause _ _ _).trans (settleHalted_reacts s _))⟩
  case relayReadbackChange b =>
    exact ⟨_, rfl, (Does.levels { s.inputs with readback := b } s rfl).trans (testMismatch_does _)⟩
  case mismatchTimerExpiry => exact ⟨_, rfl, mismatchExpiry_does s⟩
  case drainEnd => exact ⟨_, rfl, .reacts (settleDrain_reacts s s)⟩
  case stowedSwitchOpens c => exact ⟨_, rfl, switchOpens_does c s⟩
  case stowedSwitchCloses c => exact ⟨_, rfl, switchCloses_does c s⟩
  case advanceTimerExpiry j => exact ⟨_, rfl, advanceExpiry_does j s⟩
  case withdrawTimerExpiry j => exact ⟨_, rfl, withdrawExpiry_does j s⟩
  case motorCurrentSample c n => exact ⟨_, rfl, sample_does c n.val s⟩
  case tripCountReached j =>
    exact ⟨_, rfl, .reacts ((testTrip_reacts j s).trans (settleHalted_reacts s _))⟩
  case jogTimerExpiry =>
    refine ⟨_, rfl, ?_⟩
    unfold jogExpiry
    repeat' split
    · exact .refl s
    · exact .quiet (endJog_frame s)
    · exact .refl s
  case rowWriteComplete b => exact ⟨_, rfl, rowWritten_does b s⟩
  case byteReceived p b => exact ⟨_, rfl, receiveByte_does p b s⟩
  case receiveLineHigh p => exact ⟨_, rfl, .port p _ s rfl⟩
  case driveFaultInactive =>
    exact ⟨_, rfl, .levels { s.inputs with driveFault := false } s rfl⟩
  case tireSwitchOpens => exact ⟨_, rfl, .levels { s.inputs with tireClosed := false } s rfl⟩
  case heightEyeRestore => exact ⟨_, rfl, .levels { s.inputs with heightEye := false } s rfl⟩
  case widthEyeRestore => exact ⟨_, rfl, .levels { s.inputs with widthEye := false } s rfl⟩
  all_goals exact rq _ _ _ _

end Sys2Proof.Machine
end

