-- ==== Sys2Proof/Laws/Tickets.lean ====
section
/-!
SUPPORT. The laws of the ticket table: what the table lists after a ticket is rewritten, freed or
added, how often each place is named by it, and what a new number is.
-/

namespace Sys2Proof.Machine

/-! ## The table as a list -/

theorem filterMap_map_option {α : Type} (f : α → α) : ∀ l : List (Option α),
    (l.map (fun o => o.map f)).filterMap id = (l.filterMap id).map f
  | [] => rfl
  | none :: l => filterMap_map_option f l
  | some a :: l => congrArg (f a :: ·) (filterMap_map_option f l)

theorem filterMap_filter_option {α : Type} (p : α → Bool) : ∀ l : List (Option α),
    (l.map (fun o => o.filter p)).filterMap id = (l.filterMap id).filter p
  | [] => rfl
  | none :: l => filterMap_filter_option p l
  | some a :: l => by
    have ih := filterMap_filter_option p l
    by_cases h : p a
    · simp only [List.map_cons, Option.filter, h, List.filterMap_cons, id, List.filter_cons, if_true]
      exact congrArg (a :: ·) ih
    · simp only [List.map_cons, Option.filter, h, List.filterMap_cons, id, List.filter_cons]
      exact ih

/-- The live tickets after every one passed through f. -/
theorem tickets_map (f : Ticket → Ticket) (s : State) :
    State.tickets { s with sales := { s.sales with
      slots := vmap (fun o => o.map f) s.sales.slots } } = s.tickets.map f := by
  simp only [State.tickets, vmap_toList]
  exact filterMap_map_option _ _

theorem tickets_updateTicket (n : Nat) (f : Ticket → Ticket) (s : State) :
    (updateTicket n f s).tickets = s.tickets.map (fun t => if t.number = n then f t else t) :=
  tickets_map _ s

theorem tickets_freeTicket (n : Nat) (s : State) :
    (freeTicket n s).tickets = s.tickets.filter (fun t => t.number ≠ n) := by
  simp only [State.tickets, freeTicket, vmap_toList]
  exact filterMap_filter_option _ _

theorem fillFirst_perm {α : Type} (x : α) (l : List (Option α)) (h : none ∈ l) :
    ((fillFirst x l).filterMap id).Perm (x :: l.filterMap id) := by
  induction l with
  | nil => cases h
  | cons o l ih =>
    cases o with
    | none => simp [fillFirst]
    | some a =>
      have hl : none ∈ l := by simpa using h
      simpa [fillFirst] using ((ih hl).cons a).trans (.swap x a _)

theorem none_mem_of_freeSlots {s : State} (h : s.freeSlots ≠ 0) : none ∈ s.sales.slots.toList := by
  unfold State.freeSlots at h
  obtain ⟨o, ho⟩ := List.exists_mem_of_length_pos (Nat.pos_of_ne_zero h)
  obtain ⟨h1, h2⟩ := List.mem_filter.mp ho
  cases o with
  | none => exact h1
  | some a => cases h2

/-- A ticket that takes a free slot joins the live ones. -/
theorem tickets_addTicket (t : Ticket) {s : State} (h : s.freeSlots ≠ 0) :
    (addTicket t s).tickets.Perm (t :: s.tickets) :=
  fillFirst_perm t _ (none_mem_of_freeSlots h)

/-! ## Finding a ticket -/

theorem ticket?_mem {s : State} {n : Nat} {t : Ticket} (h : s.ticket? n = some t) :
    t ∈ s.tickets ∧ t.number = n :=
  ⟨List.mem_of_find?_eq_some h, by simpa using List.find?_some h⟩

theorem ticket?_of_mem {s : State} {t : Ticket} (hn : (s.tickets.map (fun t => t.number)).Nodup)
    (h : t ∈ s.tickets) : s.ticket? t.number = some t := by
  unfold State.ticket?
  generalize s.tickets = l at hn h
  induction l with
  | nil => cases h
  | cons a l ih =>
    simp only [List.map_cons, List.nodup_cons] at hn
    rcases List.mem_cons.mp h with rfl | h'
    · simp
    · have : a.number ≠ t.number := fun e => hn.1 (e ▸ List.mem_map_of_mem h')
      simp [this, ih hn.2 h']

/-! ## How often a place is named -/

/-- The places that the live tickets name. -/
def State.named (s : State) : List Standing := s.tickets.map Ticket.stands

theorem count_map_replace {α β : Type} [BEq β] [LawfulBEq β] [DecidableEq β] (g : α → β)
    (num : α → Nat) (f : α → α) (x : β) (n : Nat) (t : α) : ∀ l : List α, (l.map num).Nodup → t ∈ l → num t = n →
    ((l.map (fun a => if num a = n then f a else a)).map g).count x + (if g t = x then 1 else 0) =
      (l.map g).count x + (if g (f t) = x then 1 else 0)
  | [], _, h, _ => by cases h
  | a :: l, hn, h, ht => by
    simp only [List.map_cons, List.nodup_cons] at hn
    rcases List.mem_cons.mp h with rfl | h'
    · have hl : l.map (fun a => if num a = n then f a else a) = l := by
        conv_rhs => rw [← List.map_id l]
        apply List.map_congr_left
        intro b hb
        have : num b ≠ n := fun e => hn.1 (by rw [ht, ← e]; exact List.mem_map_of_mem hb)
        simp [this]
      simp only [List.map_cons, ht, if_pos, hl, List.count_cons, beq_iff_eq]
      omega
    · have hna : num a ≠ n := fun e => hn.1 (by rw [e, ← ht]; exact List.mem_map_of_mem h')
      have := count_map_replace g num f x n t l hn.2 h' ht
      simp only [List.map_cons, List.count_cons, hna, if_false, beq_iff_eq]
      omega

theorem count_filter_out {α β : Type} [BEq β] [LawfulBEq β] [DecidableEq β] (g : α → β)
    (num : α → Nat) (x : β) (n : Nat) (t : α) : ∀ l : List α, (l.map num).Nodup → t ∈ l → num t = n →
    ((l.filter (fun a => num a ≠ n)).map g).count x + (if g t = x then 1 else 0) =
      (l.map g).count x
  | [], _, h, _ => by cases h
  | a :: l, hn, h, ht => by
    simp only [List.map_cons, List.nodup_cons] at hn
    rcases List.mem_cons.mp h with rfl | h'
    · have hl : l.filter (fun a => num a ≠ n) = l := by
        apply List.filter_eq_self.mpr
        intro b hb
        have : num b ≠ n := fun e => hn.1 (by rw [ht, ← e]; exact List.mem_map_of_mem hb)
        simpa using this
      have : (t :: l).filter (fun a => num a ≠ n) = l := by
        rw [List.filter_cons, hl]; simp [ht]
      rw [this]
      simp only [List.map_cons, List.count_cons, beq_iff_eq]
    · have hna : num a ≠ n := fun e => hn.1 (by rw [e, ← ht]; exact List.mem_map_of_mem h')
      have := count_filter_out g num x n t l hn.2 h' ht
      have e : (a :: l).filter (fun a => num a ≠ n) = a :: l.filter (fun a => num a ≠ n) := by
        rw [List.filter_cons]; simp [hna]
      rw [e]
      simp only [List.map_cons, List.count_cons, beq_iff_eq]
      omega

variable {s : State}

/-- A rewritten ticket names its new place in stead of its old one. -/
theorem named_updateTicket {n : Nat} {t : Ticket} (f : Ticket → Ticket)
    (hn : (s.tickets.map (fun t => t.number)).Nodup) (h : s.ticket? n = some t) (x : Standing) :
    (updateTicket n f s).named.count x + (if t.stands = x then 1 else 0) =
      s.named.count x + (if (f t).stands = x then 1 else 0) := by
  unfold State.named
  rw [tickets_updateTicket]
  exact count_map_replace Ticket.stands (fun t => t.number) f x n t _ hn (ticket?_mem h).1
    (ticket?_mem h).2

/-- A freed ticket names no place. -/
theorem named_freeTicket {n : Nat} {t : Ticket}
    (hn : (s.tickets.map (fun t => t.number)).Nodup) (h : s.ticket? n = some t) (x : Standing) :
    (freeTicket n s).named.count x + (if t.stands = x then 1 else 0) = s.named.count x := by
  unfold State.named
  rw [tickets_freeTicket]
  exact count_filter_out Ticket.stands (fun t => t.number) x n t _ hn (ticket?_mem h).1
    (ticket?_mem h).2

/-- An added ticket names its place. -/
theorem named_addTicket (t : Ticket) (h : s.freeSlots ≠ 0) (x : Standing) :
    (addTicket t s).named.count x = s.named.count x + (if t.stands = x then 1 else 0) := by
  unfold State.named
  rw [((tickets_addTicket t h).map _).count_eq]
  simp only [List.map_cons, List.count_cons, beq_iff_eq]

/-! ## New numbers (R11) -/

/-- The numbers that the search for a new one passes through. -/
def numberAfter (n k : Nat) : Nat := (succNumber n - 1 + k) % 65535 + 1

theorem succNumber_bounds (n : Nat) : 1 ≤ succNumber n ∧ succNumber n ≤ 65535 := by
  unfold succNumber; split <;> omega

theorem numberAfter_zero (n : Nat) : numberAfter n 0 = succNumber n := by
  have := succNumber_bounds n
  unfold numberAfter; omega

theorem numberAfter_succ (n k : Nat) : numberAfter (succNumber n) k = numberAfter n (k + 1) := by
  have h := succNumber_bounds n
  unfold numberAfter
  generalize succNumber n = m at h
  unfold succNumber
  split <;> omega

/-- The search ends at the first number that is not taken, or when its fuel is spent. -/
theorem nextNumberFrom_ends (taken : Nat → Bool) : ∀ fuel n, ∃ k, k ≤ fuel ∧
    nextNumberFrom taken fuel n = numberAfter n k ∧ (∀ j, j < k → taken (numberAfter n j) = true) ∧
    (k < fuel → taken (numberAfter n k) = false)
  | 0, n => ⟨0, Nat.le_refl _, (numberAfter_zero n).symm, by intro j h; omega, by omega⟩
  | fuel + 1, n => by
    unfold nextNumberFrom
    split
    · next h =>
      obtain ⟨k, h1, h2, h3, h4⟩ := nextNumberFrom_ends taken fuel (succNumber n)
      refine ⟨k + 1, by omega, by rw [h2, numberAfter_succ], ?_, ?_⟩
      · intro j hj
        cases j with
        | zero => rw [numberAfter_zero]; exact h
        | succ j => rw [← numberAfter_succ]; exact h3 j (by omega)
      · intro hk; rw [← numberAfter_succ]; exact h4 (by omega)
    · next h =>
      exact ⟨0, by omega, (numberAfter_zero n).symm, by intro j h; omega,
        by intro _; rw [numberAfter_zero]; simpa using h⟩

/-- With fuel for every taken number, the search ends at a number that is not taken. -/
theorem nextNumberFrom_free {taken : Nat → Bool} {fuel n : Nat} (l : List Nat)
    (hl : ∀ m, taken m = true → m ∈ l) (hf : l.length ≤ fuel) (hb : fuel < 65535) :
    taken (nextNumberFrom taken fuel n) = false := by
  obtain ⟨k, h1, h2, h3, h4⟩ := nextNumberFrom_ends taken fuel n
  rw [h2]
  rcases Nat.lt_or_ge k fuel with h | h
  · exact h4 h
  · by_contra hc
    have hk : k = fuel := by omega
    subst hk
    have sub : (List.range (k + 1)).map (numberAfter n) ⊆ l := by
      intro m hm
      obtain ⟨j, hj, rfl⟩ := List.mem_map.mp hm
      have := List.mem_range.mp hj
      rcases Nat.lt_or_ge j k with h | h
      · exact hl _ (h3 j h)
      · have : j = k := by omega
        subst this
        exact hl _ (by simpa using hc)
    have nd : ((List.range (k + 1)).map (numberAfter n)).Nodup := by
      refine (List.nodup_map_iff_inj_on List.nodup_range).mpr ?_
      intro a ha b hb' e
      have := List.mem_range.mp ha
      have := List.mem_range.mp hb'
      unfold numberAfter at e
      omega
    have := (nd.subperm sub).length_le
    simp at this
    omega

theorem nextNumberFrom_pos (taken : Nat → Bool) (fuel n : Nat) :
    nextNumberFrom taken fuel n ≠ 0 := by
  obtain ⟨k, -, h2, -, -⟩ := nextNumberFrom_ends taken fuel n
  rw [h2]; unfold numberAfter; omega

end Sys2Proof.Machine
end

