-- ==== Sys2Proof/Laws/Records.lean ====
section
/-!
SUPPORT. The records that recordsFit speaks of, as one projection of the state, and the operations
that leave them alone: time, notices, causes, run demand, the stations, and the tests that follow a
change.
-/

namespace Sys2Proof.Machine

/-- What recordsFit sees of a gate state: whether a ticket is AT_GATE, whether the gate offers or
loads, whether it measures. -/
def GateState.cls : GateState → Bool × Bool × Bool
  | .offer | .loading => (true, true, false)
  | .held .unpaid | .held .offerExpired => (true, false, false)
  | .measuring => (false, false, true)
  | .idle | .spacing | .held .mergeCheck => (false, false, false)

/-- What the order law sees of a car, with its ticket. -/
def Car.shape (c : Car) : Nat × Nat × Option Nat := (c.ticket, c.front, c.length)

/-- What R26 sees of a member entry. -/
def MemberEntry.range (e : MemberEntry) : Bool × Word32 × Nat := (e.valid, e.base, e.order)

/-- The records of tickets, gate and roster that recordsFit speaks of. -/
def riders (s : State) :=
  (s.sales.slots, lanes.map (fun i => (s.saleSlot i).stands i), s.gate.laneQueues, s.gate.merge,
    s.gate.atGate, s.gate.state.cls, s.track.roster.map Car.shape, s.credits.map (fun c => c.code))

/-- The member entries and the stored records that recordsFit speaks of. -/
def kept (s : State) :=
  (s.memb.entries.toList.map MemberEntry.range, s.settings.timing.minGap, s.store.image,
    s.store.save.map (fun j => j.copy))

/-- Everything that recordsFit speaks of. -/
def recs (s : State) := (riders s, kept s)

theorem riders_of {s t : State} (h : recs t = recs s) : riders t = riders s :=
  congrArg Prod.fst h

theorem kept_of {s t : State} (h : recs t = recs s) : kept t = kept s := congrArg Prod.snd h

/-! ## Operations that leave the records alone -/

theorem recs_foldl {α : Type} {f : State → α → State} (hf : ∀ s x, recs (f s x) = recs s) :
    ∀ (l : List α) (s : State), recs (l.foldl f s) = recs s
  | [], _ => rfl
  | x :: l, s => (recs_foldl hf l (f s x)).trans (hf s x)

/-- A change of the roster that keeps every car's shape. -/
theorem recs_setRoster (r : List Car) (s : State)
    (h : r.map Car.shape = s.track.roster.map Car.shape) : recs (setRoster r s) = recs s := by
  simp [recs, riders, kept, setRoster, h, State.saleSlot]

theorem recs_mapRoster (f : Car → Car) (hf : ∀ c, (f c).shape = c.shape) (s : State) :
    recs (setRoster (s.track.roster.map f) s) = recs s := by
  apply recs_setRoster
  simp [Function.comp_def, hf]

theorem markAll_recs (j : StationIx) (t : Car → Bool) (p : Progress) (s : State) :
    recs (markAll j t p s) = recs s :=
  recs_mapRoster _ (by intro c; split <;> rfl) s

theorem mapFirst_map {α β : Type} (g : α → β) (t : α → Bool) (f : α → α) (h : ∀ x, g (f x) = g x) :
    ∀ l : List α, (mapFirst t f l).map g = l.map g
  | [] => rfl
  | x :: l => by
    unfold mapFirst
    split
    · simp [h]
    · simp [mapFirst_map g t f h l]

theorem markOldest_recs (j : StationIx) (t : Car → Bool) (p : Progress) (s : State) :
    recs (markOldest j t p s) = recs s := by
  apply recs_setRoster
  exact mapFirst_map Car.shape _ _ (by intro c; rfl) _

theorem withdrawArm_recs (j : StationIx) (s : State) : recs (withdrawArm j s) = recs s := rfl

theorem advanceArm_recs (j : StationIx) (s : State) : recs (advanceArm j s) = recs s :=
  (show recs (advanceArm j s) = recs (markOldest j (s.dueOpen j) .active s) from rfl).trans
    (markOldest_recs _ _ _ s)

theorem endStep_recs (j : StationIx) (s : State) : recs (endStep j s) = recs s := by
  unfold endStep
  dsimp only
  repeat' split
  all_goals simp only [markAll_recs, markOldest_recs, withdrawArm_recs]

theorem evalStation_recs (j : StationIx) (s : State) : recs (evalStation j s) = recs s := by
  unfold evalStation
  split
  · have a : ∀ s, recs (startStep j s) = recs s := by
      intro s; unfold startStep; repeat' split
      · exact markAll_recs _ _ _ s
      · exact advanceArm_recs j s
      · rfl
    rw [a, missStep, markAll_recs, endStep_recs, qualifyStep, markAll_recs]
  · rw [missStep, markAll_recs, qualifyStep, markAll_recs]
  · rfl

theorem evaluate_recs (s : State) : recs (evaluate s) = recs s :=
  recs_foldl (fun s j => evalStation_recs j s) _ s

theorem stopArm_recs (s : State) (j : StationIx) : recs (stopArm s j) = recs s := by
  unfold stopArm; split <;> rfl

theorem stopStations_recs (s : State) : recs (stopStations s) = recs s := by
  unfold stopStations
  dsimp only
  rw [recs_foldl stopArm_recs]
  exact recs_mapRoster (fun c => { c with
    progress := vmap (fun p => if p = .active then .interrupted else p) c.progress })
    (fun _ => rfl) s

theorem judgeStation_recs (s : State) (j : StationIx) : recs (judgeStation s j) = recs s :=
  recs_mapRoster _ (by intro c; split <;> rfl) s

theorem judgeStations_recs (s : State) : recs (judgeStations s) = recs s :=
  recs_foldl judgeStation_recs _ s

theorem stationsHaltChange_recs (old new : HaltState) (s : State) :
    recs (stationsHaltChange old new s) = recs s := by
  have a : ∀ s, recs (holdStations s) = recs s := fun _ => rfl
  have b : ∀ s, recs (releaseStations s) = recs s := fun _ => rfl
  unfold stationsHaltChange
  rw [evaluate_recs]
  split <;> simp only [stopStations_recs, judgeStations_recs, a, b]

theorem testDemand_recs (s : State) : recs (testDemand s) = recs s := by
  unfold testDemand startWarning; repeat' split
  all_goals rfl

theorem evalIfPaceMoved_recs (b s : State) : recs (evalIfPaceMoved b s) = recs s := by
  unfold evalIfPaceMoved; split
  · rfl
  · exact evaluate_recs s

theorem retestDemand_recs (s : State) : recs (retestDemand s) = recs s := by
  rw [retestDemand, evalIfPaceMoved_recs, testDemand_recs]

/-- A change of the gate that keeps what recordsFit sees of it. -/
theorem recs_gate (g : Gate) (s : State) (h1 : g.laneQueues = s.gate.laneQueues)
    (h2 : g.merge = s.gate.merge) (h3 : g.atGate = s.gate.atGate)
    (h4 : g.state.cls = s.gate.state.cls) : recs { s with gate := g } = recs s := by
  simp [recs, riders, kept, h1, h2, h3, h4, State.saleSlot]

theorem testTire_recs (s : State) : recs (testTire s) = recs s := by
  unfold testTire; split
  · next h => exact recs_gate _ s rfl rfl rfl (by simp [GateState.cls, h.1])
  · rfl

theorem gateHaltChange_recs (s : State) : recs (gateHaltChange s) = recs s := by
  unfold gateHaltChange; repeat' split
  · rw [testTire_recs]; rfl
  · rfl
  · rfl

theorem raiseTo_recs (p : Port) (n : Notice) (s : State) : recs (raiseTo p n s) = recs s := rfl

theorem raiseAll_recs (n : Notice) (s : State) : recs (raiseAll n s) = recs s := rfl

theorem setHalt_recs (h : HaltState) (s : State) : recs (setHalt h s) = recs s := by
  unfold setHalt
  dsimp only
  rw [gateHaltChange_recs, stationsHaltChange_recs, testDemand_recs]
  rfl

theorem joinEpisode_recs (c : Cause) (s : State) : recs (joinEpisode c s) = recs s := by
  unfold joinEpisode; repeat' split
  all_goals rfl

theorem closeEpisode_recs (b : EndedBy) (s : State) : recs (closeEpisode b s) = recs s := by
  unfold closeEpisode; repeat' split
  all_goals rfl

theorem raiseCause_recs (c : Cause) (subj : Subject) (s : State) :
    recs (raiseCause c subj s) = recs s := by
  unfold raiseCause
  dsimp only
  repeat' split
  all_goals (try simp only [setHalt_recs, joinEpisode_recs])
  all_goals rfl

theorem clearCause_recs (c : Cause) (s : State) : recs (clearCause c s) = recs s := by
  unfold clearCause
  dsimp only
  repeat' split
  all_goals (try simp only [setHalt_recs, closeEpisode_recs])
  all_goals rfl

theorem testMismatch_recs (s : State) : recs (testMismatch s) = recs s := by
  unfold testMismatch; repeat' split
  all_goals rfl

theorem endJogOf_recs (j : StationIx) (s : State) : recs (endJogOf j s) = recs s := by
  unfold endJogOf; split <;> rfl

theorem faultArm_recs (j : StationIx) (s : State) : recs (faultArm j s) = recs s := by
  unfold faultArm
  rw [raiseCause_recs, endJogOf_recs]
  rfl

theorem clearStuck_recs (s : State) : recs (clearStuck s) = recs s := by
  unfold clearStuck; split
  · rfl
  · exact clearCause_recs _ s

theorem testSpacing_recs (s : State) : recs (testSpacing s) = recs s := by
  unfold testSpacing; split
  · next h => exact recs_gate _ s rfl rfl rfl (by simp [GateState.cls, h.1])
  · rfl

theorem testExitBlocked_recs (s : State) : recs (testExitBlocked s) = recs s := by
  unfold testExitBlocked; split
  · exact raiseCause_recs _ _ s
  · rfl

theorem rosterChanged_recs (s : State) : recs (rosterChanged s) = recs s := by
  rw [rosterChanged, testSpacing_recs, evaluate_recs, testExitBlocked_recs]

theorem noteMoved_recs (e : Eye) (s : State) : recs (noteMoved e s) = recs s := by
  unfold noteMoved
  dsimp only
  repeat' split
  all_goals (try rw [raiseCause_recs])
  all_goals rfl

theorem testPark_recs (b s : State) : recs (testPark b s) = recs s := by
  unfold testPark; repeat' split
  all_goals rfl

theorem testDrain_recs (s : State) : recs (testDrain s) = recs s := by
  unfold testDrain; split
  · rw [retestDemand_recs]; rfl
  · rfl

theorem settleDrain_recs (b s : State) : recs (settleDrain b s) = recs s := by
  rw [settleDrain, testPark_recs, testDrain_recs]

/-- Rewriting the newest car's entry without touching its shape. -/
theorem updateNewest_recs (f : Car → Car) (hf : ∀ c, (f c).shape = c.shape) (s : State) :
    recs (updateNewest f s) = recs s := by
  apply recs_setRoster
  rcases List.eq_nil_or_concat s.track.roster with h | ⟨l, c, h⟩
  · simp [h]
  · simp [h, hf]

theorem captureFlags_recs (s : State) : recs (captureFlags s) = recs s :=
  updateNewest_recs (fun c => { c with flags := { c.flags with
    tall := c.flags.tall || s.inputs.heightEye
    wide := c.flags.wide || s.inputs.widthEye } }) (fun _ => rfl) s

theorem testCapture_recs (s : State) : recs (testCapture s) = recs s := by
  unfold testCapture; split
  · rw [rosterChanged_recs, captureFlags_recs]
  · rfl

theorem testMaxLen_recs (s : State) : recs (testMaxLen s) = recs s := by
  unfold testMaxLen; split
  · rw [raiseCause_recs]; rfl
  · rfl

theorem resumeMeasure_recs (s : State) : recs (resumeMeasure s) = recs s := by
  unfold resumeMeasure
  rw [testCapture_recs, testMaxLen_recs]
  rfl

theorem gateEntryRestore_recs (s : State) : recs (gateEntryRestore s) = recs s := by
  unfold gateEntryRestore; split <;> rfl

theorem entryRestore_recs (s : State) : recs (entryRestore s) = recs s := by
  unfold entryRestore
  rw [gateEntryRestore_recs, noteMoved_recs]
  rfl

theorem stands_elapse (i : Lane) (n : Nat) (x : SaleSlot) : (x.elapse n).stands i = x.stands i := by
  cases x <;> rfl

/-- Time passes. -/
theorem advance_recs (n : Nat) (s : State) : recs (advance n s) = recs s := by
  have h : ∀ i, (advance n s).saleSlot i = (s.saleSlot i).elapse n := by
    intro i; simp [advance, State.saleSlot]
  simp only [recs, riders, h, stands_elapse]
  rfl

theorem recordPulse_recs (s : State) : recs (recordPulse s) = recs s := by
  unfold recordPulse; split <;> rfl

theorem convPulse_recs (s : State) : recs (convPulse s) = recs s := by
  unfold convPulse
  dsimp only
  split
  · rfl
  · rw [recordPulse_recs]; rfl
  · exact (show _ = recs (recordPulse _) from rfl).trans ((recordPulse_recs _).trans rfl)
  · exact (show _ = recs (recordPulse _) from rfl).trans ((recordPulse_recs _).trans rfl)

theorem markSlips_shape (s : State) (c : Car) : (s.markSlips c).shape = c.shape := rfl

theorem testSlip_recs (s : State) : recs (testSlip s) = recs s := by
  unfold testSlip
  rw [recs_foldl (fun s c => raiseCause_recs _ _ s)]
  exact recs_mapRoster _ (markSlips_shape s) s

theorem verifyExit_recs (s : State) : recs (verifyExit s) = recs s := by
  unfold verifyExit; repeat' split
  · exact recs_setRoster _ s (mapFirst_map Car.shape _ _ (by intro c; rfl) _)
  · rfl
  · exact raiseCause_recs _ _ s

theorem exitBreak_recs (s : State) : recs (exitBreak s) = recs s := by
  unfold exitBreak
  dsimp only
  rw [testExitBlocked_recs]
  split
  · rw [noteMoved_recs]; rfl
  · rw [verifyExit_recs]; rfl

theorem checkpointRestore_recs (k : Checkpoint) (s : State) :
    recs (checkpointRestore k s) = recs s := by
  unfold checkpointRestore
  dsimp only
  split
  · rfl
  · rw [noteMoved_recs]; rfl

/-! ## The stations, the safety inputs and the modes -/

theorem armOpens_recs (j : StationIx) (s : State) : recs (armOpens j s) = recs s := by
  unfold armOpens; split
  · exact faultArm_recs j s
  all_goals rfl

theorem armCloses_recs (j : StationIx) (s : State) : recs (armCloses j s) = recs s := by
  have a : ∀ s, recs (stowArm j s) = recs s := fun _ => rfl
  unfold armCloses; split
  · rw [settleDrain_recs, evaluate_recs, a]
  · rw [settleDrain_recs, evaluate_recs, clearStuck_recs, a]
  all_goals rfl

theorem switchCloses_recs (c : Channel) (s : State) : recs (switchCloses c s) = recs s := by
  unfold switchCloses; split
  · rw [armCloses_recs]; rfl
  · rfl

theorem testTrip_recs (j : StationIx) (s : State) : recs (testTrip j s) = recs s := by
  unfold testTrip; split
  · rw [raiseCause_recs, endJogOf_recs]; rfl
  · rfl

theorem startMachine_recs (j : StationIx) (s : State) : recs (startMachine j s) = recs s := by
  unfold startMachine
  dsimp only
  repeat' split
  · rfl
  · rw [raiseCause_recs]; rfl
  · rfl

theorem writeStation_recs (j : StationIx) (st : StationCfg) (s : State) :
    recs (writeStation j st s) = recs s := by
  unfold writeStation
  dsimp only
  split
  · rw [clearStuck_recs, startMachine_recs]; rfl
  · rw [startMachine_recs]; rfl

theorem startCauses_recs (s : State) : recs (startCauses s) = recs s := by
  unfold startCauses
  dsimp only
  repeat' split
  all_goals simp only [raiseCause_recs]

/-! ## The ports -/

theorem setPort_recs (p : Port) (x : PortState) (s : State) : recs (s.setPort p x) = recs s := rfl

/-- The lines follow the records without touching them. -/
theorem drive_recs (s : State) : recs (drive s) = recs s := rfl

end Sys2Proof.Machine
end

