-- ==== Sys2Proof/Laws/Places.lean ====
section
/-!
SUPPORT. recordsFit sees the state through its records alone; and what each operation that moves a
ticket does to the places and the tickets that name them, counted.
-/

namespace Sys2Proof.Machine

/-! ## recordsFit sees the records alone -/

/-- The part of recordsFit about tickets, the gate and the queues. -/
abbrev State.ridersFit (s : State) : Prop :=
  s.ticketsStand ∧ s.numbersFit ∧ s.gateFits ∧ s.queuesFit

/-- The part about member entries and stored settings. -/
abbrev State.keptFits (s : State) : Prop := s.membersFit ∧ s.storedFits

theorem recordsFit_iff (s : State) :
    s.recordsFit ↔ s.ridersFit ∧ s.rosterFits ∧ s.keptFits :=
  ⟨fun ⟨a, b, c, d, e, f, g⟩ => ⟨⟨a, b, c, d⟩, e, f, g⟩,
    fun ⟨⟨a, b, c, d⟩, e, f, g⟩ => ⟨a, b, c, d, e, f, g⟩⟩

variable {s t : State}

theorem gateFits_cls (s : State) : s.gateFits ↔ s.gate.atGate.isSome = s.gate.state.cls.1 := by
  unfold State.gateFits
  cases s.gate.atGate <;> rcases s.gate.state with _ | _ | _ | _ | _ | r <;>
    (try cases r) <;> simp [GateState.cls]

/-- The places, from what recordsFit sees. -/
theorem places_eq (s : State) : s.places =
    (lanes.map (fun i => (s.saleSlot i).stands i)).flatten ++
      lanes.flatMap (fun i => (s.gate.laneQueues[i]).map (fun n => (n, .laneQueued, some i))) ++
      s.gate.merge.map (fun n => (n, .merged, none)) ++
      s.gate.atGate.toList.map (fun n => (n, .atGate, none)) ++
      (s.track.roster.map Car.shape).map (fun c => (c.1, .riding, none)) := by
  simp [State.places, List.flatMap, Car.shape, Function.comp_def, State.laneQueue]

theorem riders_iff : riders t = riders s ↔ t.sales.slots = s.sales.slots ∧
    (∀ i : Lane, (t.saleSlot i).stands i = (s.saleSlot i).stands i) ∧
    t.gate.laneQueues = s.gate.laneQueues ∧ t.gate.merge = s.gate.merge ∧
    t.gate.atGate = s.gate.atGate ∧ t.gate.state.cls = s.gate.state.cls ∧
    t.track.roster.map Car.shape = s.track.roster.map Car.shape ∧
    t.credits.map (fun c => c.code) = s.credits.map (fun c => c.code) := by
  have l3 : (∀ i : Lane, (t.saleSlot i).stands i = (s.saleSlot i).stands i) ↔
      (t.saleSlot 0).stands 0 = (s.saleSlot 0).stands 0 ∧
      (t.saleSlot 1).stands 1 = (s.saleSlot 1).stands 1 ∧
      (t.saleSlot 2).stands 2 = (s.saleSlot 2).stands 2 :=
    ⟨fun h => ⟨h 0, h 1, h 2⟩, fun h i => by
      match i with
      | 0 => exact h.1
      | 1 => exact h.2.1
      | 2 => exact h.2.2⟩
  rw [l3]
  simp [riders, lanes]

theorem ridersFit_congr (h : riders t = riders s) (f : s.ridersFit) : t.ridersFit := by
  obtain ⟨h1, h2, h3, h4, h5, h6, h7, h8⟩ := riders_iff.mp h
  obtain ⟨f1, f2, f3, f4⟩ := f
  have ht : t.tickets = s.tickets := by simp only [State.tickets, h1]
  have hp : t.places = s.places := by
    have hv : lanes.map (fun i => (t.saleSlot i).stands i) =
        lanes.map (fun i => (s.saleSlot i).stands i) := List.map_congr_left (fun i _ => h2 i)
    rw [places_eq, places_eq, hv, h3, h4, h5, h7]
  refine ⟨?_, ?_, ?_, ?_⟩
  · rw [State.ticketsStand, ht, hp]; exact f1
  · refine ⟨by rw [ht, h8]; exact f2.1, by rw [ht]; exact f2.2.1, ?_⟩
    intro c hc e
    have : c.code ∈ s.credits.map (fun c => c.code) := h8 ▸ List.mem_map_of_mem hc
    obtain ⟨d, hd, he⟩ := List.mem_map.mp this
    exact f2.2.2 d hd (he.trans e)
  · rw [gateFits_cls, h5, h6, ← gateFits_cls]; exact f3
  · refine ⟨fun i => ?_, by rw [h4, h5]; exact f4.2⟩
    have := f4.1 i
    rw [State.laneQueue] at this ⊢
    rw [h3, h2]; exact this

/-- A rear, from the shape. -/
def rearOf (x : Nat × Nat × Option Nat) : Int :=
  match x.2.2 with
  | none => 0
  | some l => (x.2.1 : Int) - (l : Int)

theorem rear_shape (c : Car) : c.rear = rearOf c.shape := rfl

/-- The order law of a list of shapes. -/
abbrev Ordered (l : List (Nat × Nat × Option Nat)) : Prop :=
  l.Pairwise (fun a b => b.2.1 < a.2.1 ∧ (b.2.1 : Int) < rearOf a)

/-- rosterFits, from the shapes and the class of the gate state. -/
def ShapesFit (l : List (Nat × Nat × Option Nat)) (c : Bool × Bool × Bool) : Prop :=
  Ordered l ∧ l.length ≤ 20 ∧ (c.2.2 = true ↔ ∃ x, l.getLast? = some x ∧ x.2.2 = none) ∧
    (c.2.1 = true → l.length < 20 ∧ ∀ x, l.getLast? = some x → 0 < rearOf x)

theorem rosterFits_iff (s : State) :
    s.rosterFits ↔ ShapesFit (s.track.roster.map Car.shape) s.gate.state.cls := by
  have c1 : s.gate.state = .measuring ↔ s.gate.state.cls.2.2 = true := by
    rcases s.gate.state with _ | _ | _ | _ | _ | r <;> (try cases r) <;> simp [GateState.cls]
  have c2 : (s.gate.state = .offer ∨ s.gate.state = .loading) ↔ s.gate.state.cls.2.1 = true := by
    rcases s.gate.state with _ | _ | _ | _ | _ | r <;> (try cases r) <;> simp [GateState.cls]
  unfold State.rosterFits ShapesFit Ordered
  rw [c1, c2, List.pairwise_map]
  simp [State.newestCar, rear_shape, Car.shape]

theorem rosterFits_congr (h : riders t = riders s) (f : s.rosterFits) : t.rosterFits := by
  obtain ⟨-, -, -, -, -, h6, h7, -⟩ := riders_iff.mp h
  rw [rosterFits_iff] at f ⊢
  rw [h6, h7]; exact f

theorem entry_range (h : t.memb.entries.toList.map MemberEntry.range =
    s.memb.entries.toList.map MemberEntry.range) (k : EntryIx) :
    (t.entry k).range = (s.entry k).range := by
  have := congrArg (fun l => l[k.val]?) h
  simpa [State.entry] using this

theorem keptFits_congr (h : kept t = kept s) (f : s.keptFits) : t.keptFits := by
  simp only [kept, Prod.mk.injEq] at h
  obtain ⟨h1, h2, h3, h4⟩ := h
  refine ⟨?_, by rw [h2]; exact f.2.1, by rw [h3]; exact f.2.2.1, ?_⟩
  · intro j k hjk
    have ej := entry_range h1 j
    have ek := entry_range h1 k
    simp only [MemberEntry.range, Prod.mk.injEq] at ej ek
    rw [ej.1, ej.2.1, ej.2.2, ek.1, ek.2.1, ek.2.2]
    exact f.1 j k hjk
  · intro j hj
    rw [hj] at h4
    rcases hs : s.store.save with _ | j'
    · rw [hs] at h4; cases h4
    · rw [hs] at h4
      simp only [Option.map_some, Option.some.injEq] at h4
      rw [h4]; exact f.2.2.2 j' hs

/-- recordsFit sees the records alone. -/
theorem recordsFit_congr (h : recs t = recs s) (f : s.recordsFit) : t.recordsFit := by
  simp only [recs, Prod.mk.injEq] at h
  rw [recordsFit_iff] at f ⊢
  exact ⟨ridersFit_congr h.1 f.1, rosterFits_congr h.1 f.2.1, keptFits_congr h.2 f.2.2⟩

/-! ## Counting the places -/

/-- The sum over the lanes. -/
def laneSum (f : Lane → Nat) : Nat := f 0 + f 1 + f 2

/-- A sum over the lanes changes by what one lane changes by. -/
theorem laneSum_change {f g : Lane → Nat} (i : Lane) (h : ∀ l, l ≠ i → g l = f l) :
    laneSum g + f i = laneSum f + g i := by
  unfold laneSum
  match i with
  | 0 => have := h 1 (by decide); have := h 2 (by decide); omega
  | 1 => have := h 0 (by decide); have := h 2 (by decide); omega
  | 2 => have := h 0 (by decide); have := h 1 (by decide); omega

/-- How often a place is a lane's sale slot. -/
def State.slotCount (s : State) (x : Standing) (i : Lane) : Nat := ((s.saleSlot i).stands i).count x

/-- How often a place is in a list of numbers in a state at a lane or elsewhere. -/
def numCount (st : TicketState) (o : Option Lane) (l : List Nat) (x : Standing) : Nat :=
  (l.map (fun n => (n, st, o))).count x

theorem numCount_nil (st : TicketState) (o : Option Lane) (x : Standing) :
    numCount st o [] x = 0 := rfl

theorem numCount_cons (st : TicketState) (o : Option Lane) (n : Nat) (l : List Nat) (x : Standing) :
    numCount st o (n :: l) x = numCount st o l x + if (n, st, o) = x then 1 else 0 := by
  simp [numCount, List.count_cons]

theorem numCount_append (st : TicketState) (o : Option Lane) (l m : List Nat) (x : Standing) :
    numCount st o (l ++ m) x = numCount st o l x + numCount st o m x := by
  simp [numCount]

/-- How often a place is left in a list without a number. -/
theorem numCount_filter (st : TicketState) (o : Option Lane) (n : Nat) (x : Standing) :
    ∀ q : List Nat, q.Nodup → numCount st o (q.filter (fun m => m ≠ n)) x +
      (if n ∈ q ∧ (n, st, o) = x then 1 else 0) = numCount st o q x
  | [], _ => by simp [numCount_nil]
  | m :: q, h => by
    have ih := numCount_filter st o n x q (List.nodup_cons.mp h).2
    by_cases e : m = n
    · subst e
      have hm := (List.nodup_cons.mp h).1
      rw [List.filter_cons_of_neg (by simp), numCount_cons]
      simp only [hm, false_and, if_false] at ih
      simp only [List.mem_cons, true_or, true_and]
      omega
    · have hn : n ≠ m := fun h => e h.symm
      rw [List.filter_cons_of_pos (by simpa using e), numCount_cons, numCount_cons]
      simp only [List.mem_cons, hn, false_or]
      omega

/-- How often a place is a place of the part. -/
theorem count_places (s : State) (x : Standing) : s.places.count x =
    laneSum (s.slotCount x) + laneSum (fun i => numCount .laneQueued (some i) (s.laneQueue i) x) +
      numCount .merged none s.gate.merge x + numCount .atGate none s.gate.atGate.toList x +
      numCount .riding none (s.track.roster.map (fun c => c.ticket)) x := by
  simp [State.places, lanes, List.flatMap, List.count_append, laneSum, State.slotCount, numCount,
    Function.comp_def]
  omega

theorem ticketsStand_iff (s : State) :
    s.ticketsStand ↔ ∀ x, s.named.count x = s.places.count x := List.perm_iff_count

/-- The numbers that are held. -/
def State.held (s : State) : List Nat :=
  s.tickets.map (fun t => t.number) ++ s.credits.map (fun c => c.code)

theorem numbersFit_iff (s : State) : s.numbersFit ↔ s.held.Nodup ∧ 0 ∉ s.held := by
  unfold State.numbersFit State.held
  simp

theorem subperm_nodup {l m : List Nat} (h : l.Subperm m) (n : m.Nodup) : l.Nodup := by
  obtain ⟨k, hp, hs⟩ := h
  exact hp.nodup_iff.mp (hs.nodup n)

theorem held_sub (h : t.held.Subperm s.held) (f : s.numbersFit) : t.numbersFit := by
  rw [numbersFit_iff] at f ⊢
  exact ⟨subperm_nodup h f.1, fun e => f.2 (h.subset e)⟩

theorem held_new {n : Nat} (h : t.held.Subperm (n :: s.held)) (hn : n ∉ s.held) (h0 : n ≠ 0)
    (f : s.numbersFit) : t.numbersFit := by
  rw [numbersFit_iff] at f ⊢
  refine ⟨subperm_nodup h (List.nodup_cons.mpr ⟨hn, f.1⟩), fun e => ?_⟩
  rcases List.mem_cons.mp (h.subset e) with h' | h'
  · exact h0 h'.symm
  · exact f.2 h'

/-- What a change of tickets and places must say to keep the tickets where they stand: both lose the
same places and gain the same. -/
theorem ridersFit_move (f : s.ridersFit) (old new : Standing → Nat)
    (hN : ∀ x, t.named.count x + old x = s.named.count x + new x)
    (hP : ∀ x, t.places.count x + old x = s.places.count x + new x)
    (h : t.numbersFit) (g : t.gateFits) (q : t.queuesFit) : t.ridersFit := by
  refine ⟨(ticketsStand_iff t).mpr fun x => ?_, h, g, q⟩
  have := (ticketsStand_iff s).mp f.1 x
  have := hN x
  have := hP x
  omega

/-! ## Who stands where -/

theorem numbers_nodup (f : s.numbersFit) : (s.tickets.map (fun t => t.number)).Nodup :=
  (List.nodup_append.mp f.1).1

/-- What stands at a place is a live ticket that names it. -/
theorem standing (f : s.ridersFit) {x : Standing} (h : x ∈ s.places) :
    ∃ k, s.ticket? x.1 = some k ∧ k.stands = x := by
  obtain ⟨k, hk, rfl⟩ := List.mem_map.mp (f.1.mem_iff.mpr h)
  exact ⟨k, ticket?_of_mem (numbers_nodup f.2.1) hk, rfl⟩

/-- No number stands at two places. -/
theorem places_nodup (f : s.ridersFit) : (s.places.map Prod.fst).Nodup := by
  have := (f.1.map Prod.fst).nodup_iff.mp
  refine this ?_
  rw [List.map_map]
  exact numbers_nodup f.2.1

theorem slot_mem {i : Lane} {x : Standing} (h : x ∈ (s.saleSlot i).stands i) : x ∈ s.places := by
  have : x ∈ lanes.flatMap (fun i => (s.saleSlot i).stands i) :=
    List.mem_flatMap.mpr ⟨i, by match i with | 0 => decide | 1 => decide | 2 => decide, h⟩
  simp only [State.places, List.mem_append]
  tauto

theorem queue_mem {i : Lane} {n : Nat} (h : n ∈ s.laneQueue i) :
    (n, .laneQueued, some i) ∈ s.places := by
  have : (n, TicketState.laneQueued, some i) ∈
      lanes.flatMap (fun i => (s.laneQueue i).map (fun n => (n, TicketState.laneQueued, some i))) :=
    List.mem_flatMap.mpr ⟨i, by match i with | 0 => decide | 1 => decide | 2 => decide,
      List.mem_map_of_mem h⟩
  simp only [State.places, List.mem_append]
  tauto

theorem merge_mem {n : Nat} (h : n ∈ s.gate.merge) : (n, .merged, none) ∈ s.places := by
  have : (n, TicketState.merged, (none : Option Lane)) ∈
      s.gate.merge.map (fun n => (n, TicketState.merged, (none : Option Lane))) :=
    List.mem_map_of_mem h
  simp only [State.places, List.mem_append]
  tauto

theorem gate_mem {n : Nat} (h : s.gate.atGate = some n) : (n, .atGate, none) ∈ s.places := by
  simp only [State.places, List.mem_append, h, Option.toList_some, List.map_cons, List.map_nil,
    List.mem_singleton]
  tauto

theorem car_mem {c : Car} (h : c ∈ s.track.roster) : (c.ticket, .riding, none) ∈ s.places := by
  have : (c.ticket, TicketState.riding, (none : Option Lane)) ∈
      s.track.roster.map (fun c => (c.ticket, TicketState.riding, (none : Option Lane))) :=
    List.mem_map_of_mem h
  simp only [State.places, List.mem_append]
  tauto

/-- No two cars share a ticket. -/
theorem cars_nodup (f : s.ridersFit) : (s.track.roster.map (fun c => c.ticket)).Nodup := by
  have h := places_nodup f
  simp only [State.places, List.map_append, List.map_map] at h
  exact (List.nodup_append.mp h).2.1

/-- A ticket rewritten under its own number keeps the numbers. -/
theorem held_updateTicket (n : Nat) (g : Ticket → Ticket) (hg : ∀ k, k.number = n → (g k).number = n)
    (s : State) : (updateTicket n g s).held = s.held := by
  unfold State.held
  rw [tickets_updateTicket, List.map_map]
  congr 1
  apply List.map_congr_left
  intro k _
  by_cases h : k.number = n
  · simp [h, hg k h]
  · simp [h]

theorem held_freeTicket (n : Nat) (s : State) : (freeTicket n s).held.Sublist s.held := by
  unfold State.held
  rw [tickets_freeTicket]
  exact (List.filter_sublist.map _).append (List.Sublist.refl _)

theorem held_addTicket (k : Ticket) (h : s.freeSlots ≠ 0) :
    (addTicket k s).held.Perm (k.number :: s.held) := by
  unfold State.held
  exact ((tickets_addTicket k h).map _).append_right _

end Sys2Proof.Machine
end

