-- ==== Sys2Proof/Laws/Moves.lean ====
section
/-!
SUPPORT. The operations that move a ticket between places keep the tickets where their states say,
one lemma for each: the sale slots, the lane queues, the merge queue, the gate, and the ticket's
retirement.
-/

namespace Sys2Proof.Machine

variable {s t : State}

/-! ## Writes of the places -/

theorem saleSlot_set (i l : Lane) (v : SaleSlot) (s : State) :
    (setSaleSlot i v s).saleSlot l = if i = l then v else s.saleSlot l := by
  exact vset_get _ _ _ _

theorem laneQueue_set (i l : Lane) (q : List Nat) (s : State) :
    (setLaneQueue i q s).laneQueue l = if i = l then q else s.laneQueue l := by
  exact vset_get _ _ _ _

/-- Writing a sale slot changes the places by what the slot holds. -/
theorem count_setSaleSlot (i : Lane) (v : SaleSlot) (s : State) (x : Standing) :
    (setSaleSlot i v s).places.count x + ((s.saleSlot i).stands i).count x =
      s.places.count x + (v.stands i).count x := by
  have h := laneSum_change (f := s.slotCount x) (g := (setSaleSlot i v s).slotCount x) i (by
    intro l hl
    simp [State.slotCount, saleSlot_set, Ne.symm hl])
  have e : (setSaleSlot i v s).slotCount x i = (v.stands i).count x := by
    simp [State.slotCount, saleSlot_set]
  have q : ∀ l, (setSaleSlot i v s).laneQueue l = s.laneQueue l := fun _ => rfl
  rw [count_places, count_places]
  simp only [q]
  rw [e] at h
  have : s.slotCount x i = ((s.saleSlot i).stands i).count x := rfl
  have : (setSaleSlot i v s).gate = s.gate := rfl
  have : (setSaleSlot i v s).track = s.track := rfl
  simp only [*] at *
  omega

/-- Writing a lane queue changes the places by what the queue holds. -/
theorem count_setLaneQueue (i : Lane) (q : List Nat) (s : State) (x : Standing) :
    (setLaneQueue i q s).places.count x + numCount .laneQueued (some i) (s.laneQueue i) x =
      s.places.count x + numCount .laneQueued (some i) q x := by
  have h := laneSum_change (f := fun l => numCount .laneQueued (some l) (s.laneQueue l) x)
    (g := fun l => numCount .laneQueued (some l) ((setLaneQueue i q s).laneQueue l) x) i (by
      intro l hl
      simp [laneQueue_set, Ne.symm hl])
  have e : (setLaneQueue i q s).laneQueue i = q := by simp [laneQueue_set]
  rw [count_places, count_places]
  have a : (setLaneQueue i q s).slotCount x = s.slotCount x := rfl
  have b : (setLaneQueue i q s).gate.merge = s.gate.merge := rfl
  have c : (setLaneQueue i q s).gate.atGate = s.gate.atGate := rfl
  have d : (setLaneQueue i q s).track = s.track := rfl
  simp only [e] at h
  simp only [a, b, c, d]
  omega

theorem stands_ticket {i : Lane} {n : Nat} (h : (s.saleSlot i).ticket? = some n) :
    ∃ st, (s.saleSlot i).stands i = [(n, st, some i)] := by
  cases hs : s.saleSlot i with
  | empty => rw [hs] at h; cases h
  | pending m _ _ _ =>
    rw [hs] at h
    simp only [SaleSlot.ticket?, Option.some.injEq] at h
    exact ⟨.pending, by rw [← h]; rfl⟩
  | lookup m _ _ =>
    rw [hs] at h
    simp only [SaleSlot.ticket?, Option.some.injEq] at h
    exact ⟨.lookup, by rw [← h]; rfl⟩

theorem stands_none {i : Lane} (h : (s.saleSlot i).ticket? = none) :
    (s.saleSlot i).stands i = [] := by
  cases hs : s.saleSlot i with
  | empty => rfl
  | pending m _ _ _ => rw [hs] at h; cases h
  | lookup m _ _ => rw [hs] at h; cases h

theorem count_singleton' (a x : Standing) : [a].count x = if a = x then 1 else 0 := by
  simp [List.count_cons]

/-- A slot that holds as much as before, or less, keeps the queues fit. -/
theorem queuesFit_setSaleSlot {i : Lane} {v : SaleSlot} (q : s.queuesFit)
    (h : (s.laneQueue i).length + (v.stands i).length ≤ 4) : (setSaleSlot i v s).queuesFit := by
  refine ⟨fun l => ?_, q.2⟩
  rw [saleSlot_set]
  by_cases e : i = l
  · subst e; rw [if_pos rfl]; exact h
  · rw [if_neg e]; exact q.1 l

/-- R18, R19: a cancelled slot. -/
theorem cancelSlot_fit (f : s.ridersFit) (i : Lane) : (cancelSlot i s).ridersFit := by
  unfold cancelSlot
  cases hn : (s.saleSlot i).ticket? with
  | none => exact f
  | some n =>
    obtain ⟨st, hs⟩ := stands_ticket hn
    obtain ⟨k, hk, hks⟩ := standing f (slot_mem (i := i) (by rw [hs]; exact List.mem_singleton.mpr rfl))
    refine ridersFit_move f (fun x => if k.stands = x then 1 else 0) (fun _ => 0) ?_ ?_ ?_ f.2.2.1 ?_
    · exact fun x => named_freeTicket (numbers_nodup f.2.1) hk x
    · intro x
      have := count_setSaleSlot i .empty (freeTicket n s) x
      have e : (freeTicket n s).saleSlot i = s.saleSlot i := rfl
      have p : (freeTicket n s).places = s.places := rfl
      rw [e, hs, p, count_singleton', ← hks] at this
      simpa [SaleSlot.stands] using this
    · exact held_sub (held_freeTicket n s).subperm f.2.1
    · refine queuesFit_setSaleSlot f.2.2.2 ?_
      have := f.2.2.2.1 i
      simp only [SaleSlot.stands, List.length_nil]
      exact Nat.le_trans (Nat.add_le_add_left (Nat.zero_le _) _) this

/-! ## A lane's sale (R12, R15, R34) -/

theorem tickets_length (s : State) : s.tickets.length ≤ 40 := by
  unfold State.tickets
  refine Nat.le_trans (List.length_filterMap_le _ _) ?_
  simp

/-- R11: the number of a new ticket is held by none. -/
theorem nextNumber_new (hc : s.creditsFit) : s.nextNumber ∉ s.held ∧ s.nextNumber ≠ 0 := by
  have hl := tickets_length s
  have h := nextNumberFrom_free (taken := s.numberTaken) (n := s.sales.lastNumber) s.held
    (fuel := s.tickets.length + s.credits.length) (by
      intro m hm
      unfold State.numberTaken at hm
      simp only [Bool.or_eq_true, List.any_eq_true, beq_iff_eq] at hm
      unfold State.held
      rcases hm with ⟨k, hk, rfl⟩ | ⟨k, hk, rfl⟩
      · exact List.mem_append_left _ (List.mem_map_of_mem hk)
      · exact List.mem_append_right _ (List.mem_map_of_mem hk)) (by simp [State.held]) (by
      have : s.credits.length ≤ 32 := hc
      omega)
  refine ⟨fun e => ?_, nextNumberFrom_pos _ _ _⟩
  unfold State.numberTaken at h
  simp only [Bool.or_eq_false_iff, List.any_eq_false, beq_iff_eq] at h
  rcases List.mem_append.mp e with e | e <;> obtain ⟨k, hk, he⟩ := List.mem_map.mp e
  · exact h.1 k hk he
  · exact h.2 k hk he

theorem freeSlots_eq (s : State) : s.freeSlots + s.tickets.length = 40 := by
  have h : ∀ l : List (Option Ticket),
      (l.filter Option.isNone).length + (l.filterMap id).length = l.length := by
    intro l
    induction l with
    | nil => rfl
    | cons o l ih =>
      cases o
      · rw [List.filterMap_cons_none rfl, List.filter_cons_of_pos rfl, List.length_cons,
          List.length_cons]
        omega
      · next a =>
        rw [show List.filterMap id (some a :: l) = a :: l.filterMap id from rfl,
          List.filter_cons_of_neg (by simp), List.length_cons, List.length_cons]
        omega
  have := h s.sales.slots.toList
  simpa [State.freeSlots, State.tickets] using this

/-- What a sale's ticket does to the table: what the slot held makes room for the new record. -/
theorem writeSale_named (f : s.ridersFit) (hc : s.creditsFit) {i : Lane}
    (room : s.slotRoom i = true) (record : Nat → Ticket) (hr : ∀ n, (record n).number = n) :
    (∀ x, (writeSale i record s).2.named.count x + ((s.saleSlot i).stands i).count x =
      s.named.count x + if (record (writeSale i record s).1).stands = x then 1 else 0) ∧
    (writeSale i record s).2.numbersFit := by
  unfold writeSale
  cases hk : s.keptTicket i with
  | some n =>
    have hp : ∃ a b c, s.saleSlot i = .pending n a b c := by
      unfold State.keptTicket at hk
      split at hk
      · next m a b c e =>
        split at hk
        · split at hk
          · simp only [Option.some.injEq] at hk; exact ⟨a, b, c, hk ▸ e⟩
          · cases hk
        · cases hk
      · cases hk
      · cases hk
    obtain ⟨a, b, c, hp⟩ := hp
    have hs : (s.saleSlot i).stands i = [(n, .pending, some i)] := by rw [hp]; rfl
    obtain ⟨k, h1, h2⟩ := standing f (slot_mem (i := i) (by rw [hs]; exact List.mem_singleton.mpr rfl))
    refine ⟨fun x => ?_, ?_⟩
    · have := named_updateTicket (fun _ => record n) (numbers_nodup f.2.1) h1 x
      rw [hs, count_singleton', ← h2]; exact this
    · apply held_sub _ f.2.1
      rw [held_updateTicket n _ (fun _ _ => hr n)]
  | none =>
    have room5 : 5 ≤ s.freeSlots + (if (s.saleSlot i).ticket?.isSome then 1 else 0) := by
      have := room
      simp only [State.slotRoom, hk, Config.saleReserve, Option.isSome_none, Bool.false_or] at this
      exact of_decide_eq_true this
    dsimp only
    cases hn : (s.saleSlot i).ticket? with
    | none =>
      have hne := nextNumber_new hc
      have room1 : (takeNumber s).2.freeSlots ≠ 0 := by
        have : (takeNumber s).2.freeSlots = s.freeSlots := rfl
        simp [hn] at room5; omega
      refine ⟨fun x => ?_, ?_⟩
      · have := named_addTicket (record s.nextNumber) room1 x
        rw [stands_none hn]
        exact this
      · refine held_new (held_addTicket (record s.nextNumber) room1).subperm ?_ ?_ f.2.1
        · rw [hr]; exact hne.1
        · rw [hr]; exact hne.2
    | some m =>
      obtain ⟨st, hs⟩ := stands_ticket hn
      obtain ⟨k, h1, h2⟩ :=
        standing f (slot_mem (i := i) (by rw [hs]; exact List.mem_singleton.mpr rfl))
      have hf : (freeTicket m s).numbersFit := held_sub (held_freeTicket m s).subperm f.2.1
      have hne := nextNumber_new (s := freeTicket m s) hc
      have room1 : (takeNumber (freeTicket m s)).2.freeSlots ≠ 0 := by
        have e : (takeNumber (freeTicket m s)).2.freeSlots = (freeTicket m s).freeSlots := rfl
        have a := freeSlots_eq (freeTicket m s)
        have b := freeSlots_eq s
        have : (freeTicket m s).tickets.length ≤ s.tickets.length := by
          rw [tickets_freeTicket]; exact List.length_filter_le _ _
        simp [hn] at room5; omega
      refine ⟨fun x => ?_, ?_⟩
      · have a := named_addTicket (record (freeTicket m s).nextNumber) room1 x
        have b := named_freeTicket (numbers_nodup f.2.1) h1 x
        rw [hs, count_singleton', ← h2]
        have e : (takeNumber (freeTicket m s)).2.named = (freeTicket m s).named := rfl
        rw [e] at a
        have : (takeNumber (freeTicket m s)).1 = (freeTicket m s).nextNumber := rfl
        simp only [this]
        simp only at b
        omega
      · refine held_new (held_addTicket (record (freeTicket m s).nextNumber) room1).subperm ?_ ?_ hf
        · rw [hr]; exact hne.1
        · rw [hr]; exact hne.2

/-- A sale's ticket leaves everything but the table and the counter alone. -/
theorem writeSale_rest (i : Lane) (record : Nat → Ticket) (s : State) :
    (writeSale i record s).2 = { s with sales := { s.sales with
      slots := (writeSale i record s).2.sales.slots
      lastNumber := (writeSale i record s).2.sales.lastNumber } } := by
  unfold writeSale
  split
  · rfl
  · dsimp only
    split <;> rfl

/-- A new sale stands in its lane's slot. -/
theorem newSale_fit (f : s.ridersFit) (hc : s.creditsFit) {i : Lane} (room : s.slotRoom i = true)
    (q : (s.laneQueue i).length < 4) (record : Nat → Ticket) (hr : ∀ n, (record n).number = n)
    (v : SaleSlot) (hv : v.stands i = [(record (writeSale i record s).1).stands]) :
    (setSaleSlot i v (writeSale i record s).2).ridersFit := by
  obtain ⟨h1, h2⟩ := writeSale_named f hc room record hr
  have e := writeSale_rest i record s
  have eg : (writeSale i record s).2.gate = s.gate := by rw [e]
  have ep : (writeSale i record s).2.places = s.places := by rw [e]; rfl
  have es : ∀ l, (writeSale i record s).2.saleSlot l = s.saleSlot l := by intro l; rw [e]; rfl
  have eq : (writeSale i record s).2.queuesFit := by
    have := f.2.2.2
    unfold State.queuesFit State.laneQueue at this ⊢
    simp only [es, eg]; exact this
  refine ridersFit_move f (fun x => ((s.saleSlot i).stands i).count x)
    (fun x => (v.stands i).count x) ?_ ?_ h2 (by rw [State.gateFits]; simp only [setSaleSlot, eg]; exact f.2.2.1) ?_
  · intro x
    rw [hv, count_singleton']
    exact h1 x
  · intro x
    have := count_setSaleSlot i v (writeSale i record s).2 x
    rw [es, ep] at this
    exact this
  · refine queuesFit_setSaleSlot eq ?_
    have : (writeSale i record s).2.laneQueue i = s.laneQueue i := by
      unfold State.laneQueue; rw [eg]
    rw [this, hv]
    simp only [List.length_singleton]
    omega

/-- R43: a ticket at a lane joins the lane's queue out of the sale slot. -/
theorem joinLane_fit (f : s.ridersFit) {u : State} {i : Lane} {n : Nat} {st : TicketState}
    {k : Ticket} (hk : u.ticket? n = some k) (hs : k.stands = (n, st, some i))
    (hu : ∀ x, u.named.count x + ((s.saleSlot i).stands i).count x =
      s.named.count x + if (n, st, some i) = x then 1 else 0)
    (hn : u.numbersFit) (hp : u.places = s.places) (hl : ∀ l, u.saleSlot l = s.saleSlot l)
    (hg : u.gate = s.gate) (q : (s.laneQueue i).length < 4) :
    (setSaleSlot i .empty (joinLaneQueue i n u)).ridersFit := by
  have hq : ∀ l, (joinLaneQueue i n u).laneQueue l =
      if i = l then s.laneQueue i ++ [n] else s.laneQueue l := by
    intro l
    unfold joinLaneQueue
    rw [laneQueue_set]
    have : ∀ l, (updateTicket n (fun t => { t with state := .laneQueued }) u).laneQueue l =
        s.laneQueue l := by intro l; show u.gate.laneQueues[l] = _; rw [hg]; rfl
    have hu' : u.laneQueue i = s.laneQueue i := by unfold State.laneQueue; rw [hg]
    rw [this, hu']
  have hsl : ∀ l, (joinLaneQueue i n u).saleSlot l = s.saleSlot l := hl
  have hkq : ({ k with state := .laneQueued } : Ticket).stands = (n, .laneQueued, some i) := by
    have h1 := congrArg Prod.fst hs
    have h2 := congrArg (fun x => x.2.2) hs
    simp only [Ticket.stands] at h1 h2
    rcases hst : k.state with _ | _ | _ | _ | _ | _ <;> rw [hst] at h2 <;>
      simp only [reduceCtorEq] at h2 <;>
      rcases ho : k.origin with l | _ <;> rw [ho] at h2 <;> simp only [reduceCtorEq] at h2 <;>
      simp [Ticket.stands, h1] <;> simpa using h2
  refine ridersFit_move f (fun x => ((s.saleSlot i).stands i).count x)
    (fun x => if (n, TicketState.laneQueued, some i) = x then 1 else 0) ?_ ?_ ?_ ?_ ?_
  · intro x
    have a := named_updateTicket (fun t => { t with state := .laneQueued }) (numbers_nodup hn) hk x
    have e : (setSaleSlot i .empty (joinLaneQueue i n u)).named =
      (updateTicket n (fun t => { t with state := .laneQueued }) u).named := rfl
    have := hu x
    rw [e]
    rw [hs, hkq] at a
    omega
  · intro x
    have a := count_setSaleSlot i .empty (joinLaneQueue i n u) x
    have b := count_setLaneQueue i (u.laneQueue i ++ [n])
      (updateTicket n (fun t => { t with state := .laneQueued }) u) x
    have e : (updateTicket n (fun t => { t with state := .laneQueued }) u).places = s.places := hp
    have e2 : (updateTicket n (fun t => { t with state := .laneQueued }) u).laneQueue i =
      u.laneQueue i := rfl
    have e3 : setLaneQueue i (u.laneQueue i ++ [n])
      (updateTicket n (fun t => { t with state := .laneQueued }) u) = joinLaneQueue i n u := rfl
    rw [hsl] at a
    rw [e, e2, e3, numCount_append, numCount_cons, numCount_nil] at b
    have e4 : (SaleSlot.stands i .empty).count x = 0 := rfl
    omega
  · apply held_sub _ hn
    have : (setSaleSlot i .empty (joinLaneQueue i n u)).held =
      (updateTicket n (fun t => { t with state := .laneQueued }) u).held := rfl
    rw [this, held_updateTicket n (fun t => { t with state := .laneQueued }) (fun _ h => h)]
  · have := f.2.2.1
    unfold State.gateFits at this ⊢
    simp only [setSaleSlot, joinLaneQueue, setLaneQueue, updateTicket, hg]
    exact this
  · have q2 : (joinLaneQueue i n u).gate.merge = s.gate.merge := by
      simp [joinLaneQueue, setLaneQueue, updateTicket, hg]
    have q3 : (joinLaneQueue i n u).gate.atGate = s.gate.atGate := by
      simp [joinLaneQueue, setLaneQueue, updateTicket, hg]
    refine ⟨fun l => ?_, ?_⟩
    · rw [saleSlot_set]
      have : (setSaleSlot i .empty (joinLaneQueue i n u)).laneQueue l =
        (joinLaneQueue i n u).laneQueue l := rfl
      rw [this, hq, hsl]
      by_cases h : i = l
      · subst h
        simp [SaleSlot.stands]
        omega
      · simpa [h] using f.2.2.2.1 l
    · show (joinLaneQueue i n u).gate.merge.length + _ ≤ 12
      have : (setSaleSlot i .empty (joinLaneQueue i n u)).gate = (joinLaneQueue i n u).gate := rfl
      rw [this, q2, q3]
      exact f.2.2.2.2

/-! ## A ticket between two places -/

/-- Every live ticket stands where its state says, but for k, which stands nowhere. -/
def Lifted (u : State) (k : Ticket) : Prop :=
  u.ticket? k.number = some k ∧ u.numbersFit ∧
    ∀ x, u.named.count x = u.places.count x + if k.stands = x then 1 else 0

/-- A ticket is lifted when the places lose the one where it stands. -/
theorem lift (f : s.ridersFit) {x : Standing} (hx : x ∈ s.places) {u : State}
    (h1 : u.sales.slots = s.sales.slots) (h2 : u.credits = s.credits)
    (h3 : ∀ y, u.places.count y + (if x = y then 1 else 0) = s.places.count y) :
    ∃ k, k.number = x.1 ∧ k.stands = x ∧ Lifted u k := by
  obtain ⟨k, hk, rfl⟩ := standing f hx
  have ht : u.tickets = s.tickets := by simp only [State.tickets, h1]
  refine ⟨k, rfl, rfl, ?_, ?_, fun y => ?_⟩
  · unfold State.ticket?; rw [ht]; exact hk
  · unfold State.numbersFit; rw [ht, h2]; exact f.2.1
  · have a := (ticketsStand_iff s).mp f.1 y
    have b : u.named = s.named := by simp only [State.named, ht]
    rw [b, a, h3]

theorem ticket?_map (g : Ticket → Ticket) (n : Nat) (hg : ∀ k, (g k).number = k.number)
    (l : List Ticket) : (l.map g).find? (fun t => t.number == n) =
      (l.find? (fun t => t.number == n)).map g := by
  induction l with
  | nil => rfl
  | cons a l ih =>
    simp only [List.map_cons, List.find?_cons, hg]
    split <;> simp [ih]

theorem ticket?_updateTicket (g : Ticket → Ticket) (n : Nat) (hg : ∀ k, (g k).number = k.number)
    (u : State) : (updateTicket n g u).ticket? n = (u.ticket? n).map g := by
  unfold State.ticket?
  rw [tickets_updateTicket, ticket?_map _ n (by intro k; split <;> simp [hg])]
  cases h : u.tickets.find? (fun t => t.number == n) with
  | none => rfl
  | some k =>
    have : k.number = n := by simpa using List.find?_some h
    simp [this]

/-- A lifted ticket can be rewritten. -/
theorem Lifted.rewrite {u : State} {k : Ticket} (h : Lifted u k) (g : Ticket → Ticket)
    (hg : ∀ k, (g k).number = k.number) : Lifted (updateTicket k.number g u) (g k) := by
  refine ⟨?_, ?_, fun x => ?_⟩
  · rw [hg, ticket?_updateTicket g _ hg, h.1]; rfl
  · apply held_sub _ h.2.1
    rw [held_updateTicket _ g (fun k e => (hg k).trans e)]
  · have a := named_updateTicket g (numbers_nodup h.2.1) h.1 x
    have b := h.2.2 x
    have : (updateTicket k.number g u).places = u.places := rfl
    rw [this]
    omega

/-- A lifted ticket lands where its state says. -/
theorem Lifted.lands {u t : State} {k : Ticket} (h : Lifted u k)
    (h1 : t.sales.slots = u.sales.slots) (h2 : t.credits = u.credits)
    (h3 : ∀ x, t.places.count x = u.places.count x + if k.stands = x then 1 else 0) :
    t.ticketsStand ∧ t.numbersFit := by
  have ht : t.tickets = u.tickets := by simp only [State.tickets, h1]
  refine ⟨(ticketsStand_iff t).mpr fun x => ?_, ?_⟩
  · have b : t.named = u.named := by simp only [State.named, ht]
    rw [b, h.2.2, h3]
  · unfold State.numbersFit; rw [ht, h2]; exact h.2.1

/-- A new ticket is lifted. -/
theorem lifted_new (f : s.ridersFit) {u : State} (hu : u.sales.slots = s.sales.slots)
    (hc : u.credits = s.credits) (hp : u.places = s.places) (k : Ticket) (room : s.freeSlots ≠ 0)
    (hn : k.number ∉ s.held) (h0 : k.number ≠ 0) : Lifted (addTicket k u) k := by
  have ht : u.tickets = s.tickets := by simp only [State.tickets, hu]
  have room' : u.freeSlots ≠ 0 := by unfold State.freeSlots at *; rw [hu]; exact room
  have hh : u.held = s.held := by unfold State.held; rw [ht, hc]
  have hnum : (addTicket k u).numbersFit :=
    held_new (s := s) (by rw [← hh]; exact (held_addTicket k room').subperm) hn h0 f.2.1
  refine ⟨?_, hnum, fun x => ?_⟩
  · exact ticket?_of_mem (numbers_nodup hnum)
      ((tickets_addTicket k room').mem_iff.mpr (List.mem_cons_self))
  · have a := named_addTicket k room' x
    have b : u.named = s.named := by simp only [State.named, ht]
    have c : (addTicket k u).places = s.places := hp
    rw [a, b, c, (ticketsStand_iff s).mp f.1 x]

theorem dropOldestCredit_rest (u : State) : (dropOldestCredit u).sales.slots = u.sales.slots ∧
    (∀ i, ((dropOldestCredit u).saleSlot i).stands i = (u.saleSlot i).stands i) ∧
    (dropOldestCredit u).gate = u.gate ∧ (dropOldestCredit u).track = u.track ∧
    kept (dropOldestCredit u) = kept u ∧
    (dropOldestCredit u).credits = u.credits.drop 1 := by
  unfold dropOldestCredit
  split
  · next h => simp [h]
  · next c rest h =>
    refine ⟨rfl, fun i => ?_, rfl, rfl, rfl, ?_⟩
    · have : (vmap (SaleSlot.forget c.code) u.sales.saleSlots)[i] =
        (u.saleSlot i).forget c.code := by simp [State.saleSlot]
      show SaleSlot.stands i ((vmap (SaleSlot.forget c.code) u.sales.saleSlots)[i]) = _
      rw [this]
      cases u.saleSlot i <;> rfl
    · rw [h]; rfl

/-! ## The retirement of a ticket (R22, R38, R39) -/

/-- What a retirement leaves alone: what the sale slots hold, the gate, the roster, and the kept
records. -/
def around (s : State) :=
  (lanes.map (fun i => (s.saleSlot i).stands i), s.gate, s.track, kept s)

theorem around_stands {u v : State} (h : around u = around v) (i : Lane) :
    (u.saleSlot i).stands i = (v.saleSlot i).stands i := by
  simp only [around, lanes, List.map_cons, List.map_nil, Prod.mk.injEq, List.cons.injEq] at h
  match i with
  | 0 => exact h.1.1
  | 1 => exact h.1.2.1
  | 2 => exact h.1.2.2.1

theorem around_gate {u v : State} (h : around u = around v) : u.gate = v.gate :=
  congrArg (fun x => x.2.1) h

theorem around_track {u v : State} (h : around u = around v) : u.track = v.track :=
  congrArg (fun x => x.2.2.1) h

theorem around_kept {u v : State} (h : around u = around v) : kept u = kept v :=
  congrArg (fun x => x.2.2.2) h

theorem around_places {u v : State} (h : around u = around v) : u.places = v.places := by
  have hs : ∀ l : List Lane, l.map (fun i => (u.saleSlot i).stands i) =
      l.map (fun i => (v.saleSlot i).stands i) := fun l =>
    List.map_congr_left (fun i _ => around_stands h i)
  rw [places_eq, places_eq, around_gate h, around_track h, hs]

theorem dropOldestCredit_around (u : State) : around (dropOldestCredit u) = around u := by
  obtain ⟨-, h2, h3, h4, h5, -⟩ := dropOldestCredit_rest u
  simp only [around, h3, h4, h5, List.map_congr_left (fun i (_ : i ∈ lanes) => h2 i)]

theorem issueCredit_around (k : Ticket) (r : Result) (u : State) :
    around (issueCredit k r u) = around u ∧
      (issueCredit k r u).sales.slots = u.sales.slots ∧
      ((issueCredit k r u).credits.map (fun c => c.code)).Sublist
        (u.credits.map (fun c => c.code) ++ [k.number]) := by
  unfold issueCredit
  dsimp only
  split
  · refine ⟨dropOldestCredit_around u, (dropOldestCredit_rest u).1, ?_⟩
    rw [(dropOldestCredit_rest u).2.2.2.2.2, List.map_append]
    exact ((List.drop_sublist 1 _).map _).append (List.Sublist.refl _)
  · refine ⟨rfl, rfl, ?_⟩
    rw [List.map_append]
    exact List.Sublist.refl _

theorem clearStamp_around (t : Word32) (u : State) : around (clearStamp t u) = around u := by
  have h : (clearStamp t u).memb.entries.toList.map MemberEntry.range =
      u.memb.entries.toList.map MemberEntry.range := by
    simp only [clearStamp, vmap_toList, List.map_map]
    apply List.map_congr_left
    intro e _
    simp only [Function.comp_apply]
    split <;> rfl
  have e : kept (clearStamp t u) = kept u := by unfold kept; rw [h]; rfl
  unfold around
  rw [e]
  rfl

/-- R22: a retirement frees the ticket and leaves the rest of the records where they were; its number
may be a credit's from then on. -/
theorem retireTicket_around {n : Nat} (r : Result) {u : State} {k : Ticket}
    (hk : u.ticket? n = some k) :
    around (retireTicket n r u) = around u ∧
      (retireTicket n r u).sales.slots = (freeTicket n u).sales.slots ∧
      ((retireTicket n r u).credits.map (fun c => c.code)).Sublist
        (u.credits.map (fun c => c.code) ++ [n]) := by
  have hn : k.number = n := (ticket?_mem hk).2
  have freed : ∀ v : State, v.sales.slots = u.sales.slots →
      (freeTicket n v).sales.slots = (freeTicket n u).sales.slots := by
    intro v h
    simp only [freeTicket, h]
  have base : (u.credits.map (fun c : Credit => c.code)).Sublist
      (u.credits.map (fun c : Credit => c.code) ++ [n]) := List.sublist_append_left _ _
  unfold retireTicket
  rw [hk]
  dsimp only
  generalize ho : k.origin = o
  by_cases hc : (r != Result.full && k.kind.earnsCredit) = true
  · obtain ⟨h1, h2, h3⟩ := issueCredit_around k r u
    rw [hn] at h3
    simp only [if_pos hc]
    cases o with
    | lane i => exact ⟨h1, freed _ h2, h3⟩
    | console => exact ⟨h1, freed _ h2, h3⟩
  · by_cases hm : r ≠ .full ∧ k.kind = .member
    · simp only [if_neg hc, if_pos hm]
      cases k.tag with
      | none =>
        cases o with
        | lane i => exact ⟨rfl, rfl, base⟩
        | console => exact ⟨rfl, rfl, base⟩
      | some t =>
        cases o with
        | lane i => exact ⟨clearStamp_around t u, rfl, base⟩
        | console => exact ⟨clearStamp_around t u, rfl, base⟩
    · simp only [if_neg hc, if_neg hm]
      cases o with
      | lane i => exact ⟨rfl, rfl, base⟩
      | console => exact ⟨rfl, rfl, base⟩

/-- A lifted ticket retires. -/
theorem Lifted.retires {u : State} {k : Ticket} (h : Lifted u k) (r : Result) :
    (retireTicket k.number r u).ticketsStand ∧ (retireTicket k.number r u).numbersFit := by
  obtain ⟨h1, h2, h3⟩ := retireTicket_around r h.1
  have ht : (retireTicket k.number r u).tickets = (freeTicket k.number u).tickets := by
    simp only [State.tickets, h2]
  refine ⟨(ticketsStand_iff _).mpr fun x => ?_, ?_⟩
  · have a := named_freeTicket (numbers_nodup h.2.1) h.1 x
    have b := h.2.2 x
    have c : (retireTicket k.number r u).named = (freeTicket k.number u).named := by
      simp only [State.named, ht]
    rw [c, around_places h1]
    omega
  · apply held_sub (s := u) _ h.2.1
    refine (List.Sublist.subperm (l₂ := ((freeTicket k.number u).tickets.map (fun t => t.number)) ++
      (u.credits.map (fun c => c.code) ++ [k.number])) ?_).trans ?_
    · unfold State.held
      rw [ht]
      exact (List.Sublist.refl _).append h3
    · apply List.Perm.subperm
      have hp : u.tickets.Perm (k :: (freeTicket k.number u).tickets) := by
        rw [tickets_freeTicket]
        have hm := (ticket?_mem h.1).1
        have nd := numbers_nodup h.2.1
        revert hm nd
        generalize u.tickets = l
        intro hm nd
        induction l with
        | nil => cases hm
        | cons a l ih =>
          simp only [List.map_cons, List.nodup_cons] at nd
          rcases List.mem_cons.mp hm with rfl | h'
          · rw [List.filter_cons_of_neg (by simp)]
            refine List.Perm.cons _ ?_
            rw [List.filter_eq_self.mpr]
            intro b hb
            have : b.number ≠ k.number := fun e => nd.1 (e ▸ List.mem_map_of_mem hb)
            simpa using this
          · have : a.number ≠ k.number := fun e => nd.1 (e ▸ List.mem_map_of_mem h')
            rw [List.filter_cons_of_pos (by simpa using this)]
            exact ((ih h' nd.2).cons a).trans (.swap k a _)
      unfold State.held
      have := hp.map (fun t => t.number)
      rw [← List.append_assoc]
      refine (List.perm_append_comm).trans ?_
      exact (this.symm.append_right _)

end Sys2Proof.Machine
end

