-- ==== Sys2Proof/Laws/GateMoves.lean ====
section
/-!
SUPPORT. The gate's and the merge's moves keep the records fit: joining the merge, taking its head,
returning to it, selling and removing a ticket at the gate, and the tests that follow an event.
-/

namespace Sys2Proof.Machine

variable {s t u : State} {k : Ticket}

/-! ## The parts of recordsFit -/

theorem recordsFit_of (f : s.recordsFit) (r : t.ridersFit) (c : t.rosterFits)
    (e : kept t = kept s) : t.recordsFit :=
  (recordsFit_iff t).mpr ⟨r, c, keptFits_congr e ((recordsFit_iff s).mp f).2.2⟩

/-- The roster's part sees the gate through two of its classes. -/
theorem rosterFits_of (f : s.rosterFits)
    (h : t.track.roster.map Car.shape = s.track.roster.map Car.shape)
    (c : t.gate.state.cls.2 = s.gate.state.cls.2) : t.rosterFits := by
  rw [rosterFits_iff] at f ⊢
  unfold ShapesFit at *
  rw [h, c]; exact f

/-- What the places count apart from the lanes. -/
def frontCount (s : State) (x : Standing) : Nat :=
  numCount .merged none s.gate.merge x + numCount .atGate none s.gate.atGate.toList x +
    numCount .riding none (s.track.roster.map (fun c => c.ticket)) x

/-- A change that leaves the lanes alone changes the places by their front part. -/
theorem count_front (hs : t.sales.saleSlots = u.sales.saleSlots)
    (hl : t.gate.laneQueues = u.gate.laneQueues) (x : Standing) :
    t.places.count x + frontCount u x = u.places.count x + frontCount t x := by
  have a : t.slotCount x = u.slotCount x := by
    unfold State.slotCount State.saleSlot; rw [hs]
  have b : ∀ l, t.laneQueue l = u.laneQueue l := by
    intro l; unfold State.laneQueue; rw [hl]
  rw [count_places, count_places]
  simp only [a, b, frontCount]
  omega

/-- The merge's head taken away. -/
theorem frontCount_merge {n : Nat} {rest : List Nat} (hm : s.gate.merge = n :: rest)
    (h1 : t.gate.merge = rest) (h2 : t.gate.atGate = s.gate.atGate) (h3 : t.track = s.track)
    (x : Standing) :
    frontCount t x + (if (n, TicketState.merged, (none : Option Lane)) = x then 1 else 0) =
      frontCount s x := by
  unfold frontCount
  rw [h1, h2, h3, hm, numCount_cons]
  omega

/-- The gate's ticket taken away. -/
theorem frontCount_gate {n : Nat} (hg : s.gate.atGate = some n) (h1 : t.gate.merge = s.gate.merge)
    (h2 : t.gate.atGate = none) (h3 : t.track = s.track) (x : Standing) :
    frontCount t x + (if (n, TicketState.atGate, (none : Option Lane)) = x then 1 else 0) =
      frontCount s x := by
  unfold frontCount
  rw [h1, h2, h3, hg, Option.toList_some, Option.toList_none, numCount_cons, numCount_nil]
  omega

/-! ## Into the merge (R45 to R48) -/

/-- A lifted ticket joins the merge queue. -/
theorem Lifted.joinsMerge (h : Lifted u k) :
    (joinMergeTail k.number u).ticketsStand ∧ (joinMergeTail k.number u).numbersFit := by
  refine (h.rewrite (fun t => { t with state := .merged }) (fun _ => rfl)).lands rfl rfl
    (fun x => ?_)
  have := count_front (t := joinMergeTail k.number u) (u := u) rfl rfl x
  have e : frontCount (joinMergeTail k.number u) x =
      frontCount u x + if (k.number, TicketState.merged, (none : Option Lane)) = x then 1 else 0 := by
    unfold frontCount
    have h1 : (joinMergeTail k.number u).gate.merge = u.gate.merge ++ [k.number] := rfl
    have h2 : (joinMergeTail k.number u).gate.atGate = u.gate.atGate := rfl
    have h3 : (joinMergeTail k.number u).track = u.track := rfl
    rw [h1, h2, h3, numCount_append, numCount_cons, numCount_nil]
    omega
  have p : (updateTicket k.number (fun t => { t with state := .merged }) u).places = u.places := rfl
  rw [e] at this
  rw [p]
  have st : ({ k with state := .merged } : Ticket).stands = (k.number, .merged, none) := rfl
  rw [st]
  omega

theorem queuesFit_joinMerge {n : Nat} (q : u.queuesFit) (room : u.mergeFull = false) :
    (joinMergeTail n u).queuesFit := by
  refine ⟨q.1, ?_⟩
  have e : (joinMergeTail n u).gate.merge = u.gate.merge ++ [n] := rfl
  have e2 : (joinMergeTail n u).gate.atGate = u.gate.atGate := rfl
  rw [e, e2, List.length_append]
  unfold State.mergeFull Config.mergeMax at room
  have := of_decide_eq_false room
  generalize u.gate.atGate = a at *
  cases a <;> simp at this ⊢ <;> omega

/-- R45: the head of a lane queue passes the lane exit eye. -/
theorem laneHead_fit (f : s.recordsFit) {i : Lane} {n : Nat} {rest : List Nat}
    (hq : s.laneQueue i = n :: rest) (room : s.mergeFull = false) :
    (joinMergeTail n (setLaneQueue i rest s)).recordsFit := by
  obtain ⟨r, c, -⟩ := (recordsFit_iff s).mp f
  obtain ⟨k, rfl, -, hk⟩ := lift (u := setLaneQueue i rest s) r
    (queue_mem (i := i) (n := n) (by rw [hq]; exact List.mem_cons_self)) rfl rfl (by
      intro y
      have := count_setLaneQueue i rest s y
      rw [hq, numCount_cons] at this
      omega)
  obtain ⟨h1, h2⟩ := hk.joinsMerge
  refine recordsFit_of f ⟨h1, h2, r.2.2.1, queuesFit_joinMerge ⟨fun l => ?_, r.2.2.2.2⟩ room⟩
    (rosterFits_of c rfl rfl) rfl
  have a := r.2.2.2.1 l
  rw [laneQueue_set]
  by_cases e : i = l
  · subst e
    rw [hq] at a
    simp only [List.length_cons] at a
    rw [if_pos rfl]
    exact Nat.le_trans (by
      show rest.length + ((s.saleSlot i).stands i).length ≤ _; omega) a
  · rw [if_neg e]; exact a

/-- R45, R46: a break of a lane exit eye. -/
theorem laneBreak_fit (i : Lane) (hc : s.creditsFit) (f : s.recordsFit) :
    (laneBreak i s).recordsFit := by
  have ovr : ∀ r, (overrun i r s).recordsFit := fun r => recordsFit_congr rfl f
  unfold laneBreak
  split
  · next n rest hq =>
    split
    · exact ovr _
    · next h => exact laneHead_fit f hq (by simpa using h)
  · split
    · exact ovr _
    · next h =>
      split
      · exact ovr _
      · next room =>
        obtain ⟨r, c, -⟩ := (recordsFit_iff s).mp f
        obtain ⟨n1, n0⟩ := nextNumber_new hc
        have hk : Lifted (addTicket (placeholder i s.nextNumber) (takeNumber s).2)
            (placeholder i s.nextNumber) :=
          lifted_new r rfl rfl rfl (placeholder i s.nextNumber) room n1 n0
        obtain ⟨h1, h2⟩ := hk.joinsMerge
        exact recordsFit_of f ⟨h1, h2, r.2.2.1, queuesFit_joinMerge (u := addTicket
            (placeholder i s.nextNumber) (takeNumber s).2) r.2.2.2 (by
              have : s.mergeFull = false := by simpa using h
              exact this)⟩
          (rosterFits_of c rfl rfl) rfl

/-- No number stands twice in the lane queues. -/
theorem laneQueues_nodup (f : s.ridersFit) :
    (∀ i, (s.laneQueue i).Nodup) ∧
      ∀ i j n, n ∈ s.laneQueue i → n ∈ s.laneQueue j → i = j := by
  have h := places_nodup f
  refine ⟨fun i => ?_, fun i j n hi hj => ?_⟩
  · have hsub : ((s.laneQueue i).map (fun n => (n, TicketState.laneQueued, some i))).Sublist
        s.places := by
      unfold State.places
      simp only [List.append_assoc]
      refine List.Sublist.trans ?_ (List.sublist_append_right _ _)
      refine List.Sublist.trans ?_ (List.sublist_append_left _ _)
      rw [List.flatMap_def]
      have hm : (s.laneQueue i).map (fun n => (n, TicketState.laneQueued, some i)) ∈
          lanes.map (fun i => (s.laneQueue i).map (fun n => (n, TicketState.laneQueued, some i))) :=
        List.mem_map.mpr ⟨i, by match i with | 0 => decide | 1 => decide | 2 => decide, rfl⟩
      exact List.sublist_flatten_of_mem hm
    have := (hsub.map Prod.fst).nodup h
    simpa [Function.comp_def] using this
  · obtain ⟨k, h1, h2⟩ := standing f (queue_mem hi)
    obtain ⟨k', h3, h4⟩ := standing f (queue_mem hj)
    have : k = k' := Option.some.inj (h1.symm.trans h3)
    subst this
    have := h2.symm.trans h4
    simpa using this

/-- PLACE (R48): the ticket leaves its lane queue, wherever it stands there. -/
theorem place_fit (f : s.recordsFit) {n : Nat} {t : Ticket} (ht : s.ticket? n = some t)
    (hs : t.state = .laneQueued) (room : s.mergeFull = false) :
    (joinMergeTail n { s with gate := { s.gate with
      laneQueues := vmap (fun q => q.filter (fun x => x ≠ n)) s.gate.laneQueues } }).recordsFit := by
  obtain ⟨r, c, -⟩ := (recordsFit_iff s).mp f
  generalize hu : ({ s with gate := { s.gate with
      laneQueues := vmap (fun q => q.filter (fun x => x ≠ n)) s.gate.laneQueues } } : State) = u
  have hq : ∀ l, u.laneQueue l = (s.laneQueue l).filter (fun x => x ≠ n) := by
    intro l
    rw [← hu]
    simp [State.laneQueue]
  obtain ⟨nd, one⟩ := laneQueues_nodup r
  -- the lane where the ticket stands
  have hin : t.stands ∈ s.places := r.1.mem_iff.mp (List.mem_map_of_mem (ticket?_mem ht).1)
  have hn : t.number = n := (ticket?_mem ht).2
  obtain ⟨i, hi, hst⟩ : ∃ i, n ∈ s.laneQueue i ∧ t.stands = (n, .laneQueued, some i) := by
    have e : t.stands.1 = n := hn
    have e2 : t.stands.2.1 = .laneQueued := hs
    unfold State.places at hin
    simp only [List.mem_append, List.mem_flatMap, List.mem_map, Option.mem_toList] at hin
    rcases hin with (((⟨l, _, h⟩ | ⟨l, _, m, hm, h⟩) | ⟨m, _, h⟩) | ⟨m, _, h⟩) | ⟨m, _, h⟩
    · exfalso
      cases hsl : s.saleSlot l <;> rw [hsl] at h <;>
        simp only [SaleSlot.stands, List.mem_singleton, List.not_mem_nil] at h <;>
        rw [h] at e2 <;> cases e2
    · have hmn : m = n := by rw [← e, ← h]
      rw [hmn] at hm h
      exact ⟨l, hm, h.symm⟩
    all_goals (rw [← h] at e2; cases e2)
  have cnt : ∀ y, u.places.count y + (if (n, TicketState.laneQueued, some i) = y then 1 else 0) =
      s.places.count y := by
    intro y
    have a : ∀ l, numCount .laneQueued (some l) (u.laneQueue l) y +
        (if i = l ∧ (n, TicketState.laneQueued, some l) = y then 1 else 0) =
        numCount .laneQueued (some l) (s.laneQueue l) y := by
      intro l
      rw [hq, ← numCount_filter _ _ n y _ (nd l)]
      congr 1
      have : n ∈ s.laneQueue l ↔ i = l := ⟨fun h => one i l n hi h, fun h => h ▸ hi⟩
      simp only [this]
    have b : laneSum (fun l => if i = l ∧ (n, TicketState.laneQueued, some l) = y then 1 else 0) =
        if (n, TicketState.laneQueued, some i) = y then 1 else 0 := by
      unfold laneSum
      match i with
      | 0 => simp
      | 1 => simp
      | 2 => simp
    rw [← b, count_places, count_places]
    have a0 := a 0
    have a1 := a 1
    have a2 := a 2
    have e1 : u.slotCount y = s.slotCount y := by rw [← hu]; rfl
    have e2 : u.gate.merge = s.gate.merge := by rw [← hu]
    have e3 : u.gate.atGate = s.gate.atGate := by rw [← hu]
    have e4 : u.track = s.track := by rw [← hu]
    rw [e1, e2, e3, e4]
    simp only [laneSum]
    omega
  obtain ⟨k, hk1, -, hk⟩ := lift (u := u) r (queue_mem hi) (by rw [← hu]) (by rw [← hu]) cnt
  simp only at hk1
  subst hk1
  obtain ⟨h1, h2⟩ := hk.joinsMerge
  have eg : u.gate.atGate = s.gate.atGate := by rw [← hu]
  refine recordsFit_of f ⟨h1, h2, ?_, queuesFit_joinMerge ⟨fun l => ?_, ?_⟩ ?_⟩
    (rosterFits_of c ?_ ?_) ?_
  · have := r.2.2.1
    rw [← hu]; exact this
  · rw [hq]
    have es : u.saleSlot l = s.saleSlot l := by rw [← hu]; rfl
    rw [es]
    exact Nat.le_trans (Nat.add_le_add_right (List.length_filter_le _ _) _) (r.2.2.2.1 l)
  · rw [← hu]; exact r.2.2.2.2
  · rw [← hu]; exact room
  · rw [← hu]; rfl
  · rw [← hu]; rfl
  · rw [← hu]; rfl

/-! ## Through the gate (R50 to R53, R64 to R67) -/

/-- With no ticket at the gate, the head of the merge can become AT_GATE. -/
theorem takeHead_stands (f : s.ridersFit) {n : Nat} {rest : List Nat}
    (hm : s.gate.merge = n :: rest) (hg : s.gate.atGate = none) :
    (takeHead n rest s).ticketsStand ∧ (takeHead n rest s).numbersFit ∧
      (takeHead n rest s).queuesFit := by
  obtain ⟨k, rfl, -, hk⟩ := lift (u := { s with gate := { s.gate with merge := rest } }) f
    (merge_mem (n := n) (by rw [hm]; exact List.mem_cons_self)) rfl rfl (by
      intro y
      have := count_front (t := { s with gate := { s.gate with merge := rest } }) (u := s) rfl rfl y
      have := frontCount_merge hm rfl rfl rfl y (t := { s with gate := { s.gate with merge := rest } })
      omega)
  obtain ⟨h1, h2⟩ := (hk.rewrite (fun t => { t with state := .atGate }) (fun _ => rfl)).lands
    (t := takeHead k.number rest s) rfl rfl (by
      intro x
      have := count_front (t := takeHead k.number rest s)
        (u := { s with gate := { s.gate with merge := rest } }) rfl rfl x
      have e : frontCount (takeHead k.number rest s) x =
          frontCount { s with gate := { s.gate with merge := rest } } x +
            if (k.number, TicketState.atGate, (none : Option Lane)) = x then 1 else 0 := by
        unfold frontCount
        have h1 : (takeHead k.number rest s).gate.merge = rest := rfl
        have h2 : (takeHead k.number rest s).gate.atGate = some k.number := rfl
        have h3 : (takeHead k.number rest s).track = s.track := rfl
        simp only [h1, h2, h3, hg, Option.toList_some, Option.toList_none, numCount_cons,
          numCount_nil]
        omega
      rw [e] at this
      have p : (updateTicket k.number (fun t => { t with state := .atGate })
        { s with gate := { s.gate with merge := rest } }).places =
          State.places { s with gate := { s.gate with merge := rest } } := rfl
      have st : ({ k with state := .atGate } : Ticket).stands = (k.number, .atGate, none) := rfl
      rw [p, st]
      omega)
  refine ⟨h1, h2, f.2.2.2.1, ?_⟩
  have := f.2.2.2.2
  rw [hm, hg] at this
  simpa [takeHead] using this

theorem atGate_none (f : s.ridersFit) (h : s.gate.state.cls.1 = false) : s.gate.atGate = none := by
  have := (gateFits_cls s).mp f.2.2.1
  rw [h] at this
  simpa using this

theorem atGate_some (f : s.ridersFit) (h : s.gate.state.cls.1 = true) :
    ∃ n, s.gate.atGate = some n := by
  have := (gateFits_cls s).mp f.2.2.1
  rw [h] at this
  exact Option.isSome_iff_exists.mp this

/-- R51, R52: the tests in IDLE. -/
theorem testIdleOnce_fit (f : s.recordsFit) : (testIdleOnce s).recordsFit := by
  obtain ⟨r, c, -⟩ := (recordsFit_iff s).mp f
  unfold testIdleOnce
  split
  · exact f
  · next hi =>
    have hi : s.gate.state = .idle := by simpa using hi
    have hg := atGate_none r (by rw [hi]; rfl)
    split
    · refine recordsFit_congr ?_ f
      unfold holdGate
      rw [raiseTo_recs]
      exact recs_gate _ s rfl rfl rfl (by rw [hi]; rfl)
    · split
      · exact f
      · next n rest hm =>
        obtain ⟨h1, h2, h3⟩ := takeHead_stands r hm hg
        split
        · refine recordsFit_of f ⟨h1, h2, ?_, h3⟩ ?_ rfl
          · rw [gateFits_cls]; rfl
          · exact rosterFits_of c rfl (by rw [hi]; rfl)
        · split
          · next hw =>
            split
            · refine recordsFit_congr (testTire_recs _) ?_
              refine recordsFit_of f ⟨h1, h2, ?_, h3⟩ ?_ rfl
              · rw [gateFits_cls]; rfl
              · have hw' : s.track.roster.length < 20 ∧ s.gapOpen = true := by
                  simp only [State.offerWanted, Bool.and_eq_true, decide_eq_true_eq] at hw
                  exact ⟨hw.1.1.1.2, hw.2⟩
                refine ⟨c.1, c.2.1, ⟨fun h => ?_, fun h => ?_⟩, fun _ => ⟨hw'.1, fun x hx => ?_⟩⟩
                · cases h
                · have := c.2.2.1.mpr h
                  rw [hi] at this; cases this
                · have hx : s.newestCar = some x := hx
                  have h10 := ((recordsFit_iff s).mp f).2.2.2.1.1
                  have hgap := hw'.2
                  simp only [State.gapOpen, hx, Bool.and_eq_true, decide_eq_true_eq] at hgap
                  omega
            · split
              · exact recordsFit_congr (retestDemand_recs _) (recordsFit_congr rfl f)
              · exact f
          · exact f

theorem testIdle_fit (f : s.recordsFit) : (testIdle s).recordsFit :=
  testIdleOnce_fit (testIdleOnce_fit f)

theorem settle_fit (b : State) (f : s.recordsFit) : (settle b s).recordsFit :=
  recordsFit_congr (settleDrain_recs _ _) (testIdle_fit f)

theorem settleHalted_fit (b : State) (f : s.recordsFit) : (settleHalted b s).recordsFit := by
  unfold settleHalted; split
  · exact f
  · exact settle_fit b f

/-! ## The decisions (R64 to R67) -/

/-- The ticket AT_GATE is lifted. -/
theorem lift_gate (f : s.ridersFit) {n : Nat} (hg : s.gate.atGate = some n) :
    ∃ k, k.number = n ∧ k.state = .atGate ∧
      Lifted { s with gate := { s.gate with atGate := none } } k := by
  obtain ⟨k, h1, h2, hk⟩ := lift (u := { s with gate := { s.gate with atGate := none } }) f
    (gate_mem hg) rfl rfl (by
      intro y
      have := count_front (t := { s with gate := { s.gate with atGate := none } }) (u := s) rfl rfl y
      have := frontCount_gate hg rfl rfl rfl y (t := { s with gate := { s.gate with atGate := none } })
      omega)
  exact ⟨k, h1, congrArg (fun x => x.2.1) h2, hk⟩

/-- A ticket lifted from the gate returns to the head of the merge queue, and the gate is IDLE. -/
theorem Lifted.returns (f : s.recordsFit) {n : Nat} (hg : s.gate.atGate = some n)
    {u : State} (h : Lifted { u with gate := { u.gate with atGate := none } } k)
    (eg : u.gate = s.gate) (et : u.track = s.track) (es : u.sales.saleSlots = s.sales.saleSlots)
    (ek : kept u = kept s) (hm : s.gate.state.cls = (true, false, false)) :
    State.recordsFit { returnToMergeHead k.number u with
      gate := { (returnToMergeHead k.number u).gate with state := .idle } } := by
  obtain ⟨r, c, -⟩ := (recordsFit_iff s).mp f
  obtain ⟨h1, h2⟩ := (h.rewrite (fun t => { t with state := .merged }) (fun _ => rfl)).lands
    (t := returnToMergeHead k.number u) rfl rfl (by
      intro x
      have := count_front (t := returnToMergeHead k.number u)
        (u := { u with gate := { u.gate with atGate := none } }) rfl rfl x
      have e : frontCount (returnToMergeHead k.number u) x =
          frontCount { u with gate := { u.gate with atGate := none } } x +
            if (k.number, TicketState.merged, (none : Option Lane)) = x then 1 else 0 := by
        unfold frontCount
        have h1 : (returnToMergeHead k.number u).gate.merge = k.number :: u.gate.merge := rfl
        have h2 : (returnToMergeHead k.number u).gate.atGate = none := rfl
        have h3 : (returnToMergeHead k.number u).track = u.track := rfl
        simp only [h1, h2, h3, numCount_cons]
        omega
      rw [e] at this
      have p : (updateTicket k.number (fun t => { t with state := .merged })
        { u with gate := { u.gate with atGate := none } }).places =
          State.places { u with gate := { u.gate with atGate := none } } := rfl
      have st : ({ k with state := .merged } : Ticket).stands = (k.number, .merged, none) := rfl
      rw [p, st]
      omega)
  refine recordsFit_of f ⟨h1, h2, ?_, ?_, ?_⟩ ?_ ek
  · rw [gateFits_cls]; rfl
  · intro l
    have := r.2.2.2.1 l
    unfold State.laneQueue State.saleSlot at this ⊢
    simp only [returnToMergeHead, updateTicket, eg, es]
    exact this
  · have := r.2.2.2.2
    rw [hg] at this
    simp only [returnToMergeHead, updateTicket, eg]
    simpa using this
  · refine rosterFits_of c ?_ (by rw [hm]; rfl)
    show u.track.roster.map Car.shape = _
    rw [et]

/-- RETRY (R64). -/
theorem decideRetry_fit (f : s.recordsFit) : (decideRetry s).2.recordsFit := by
  obtain ⟨r, c, -⟩ := (recordsFit_iff s).mp f
  unfold decideRetry
  split
  · next hs =>
    split
    · next n hg =>
      obtain ⟨k, rfl, -, hk⟩ := lift_gate r hg
      exact settle_fit s (hk.returns f hg rfl rfl rfl rfl (by rw [hs]; rfl))
    · exact f
  · next hs =>
    exact settle_fit s (recordsFit_congr
      ((recs_gate { s.gate with mergeCheck := false, state := .idle } s rfl rfl rfl
        (by rw [hs]; rfl))) f)
  all_goals exact f

/-- WAVE (R65). -/
theorem decideWave_fit (f : s.recordsFit) : (decideWave s).2.recordsFit := by
  obtain ⟨r, c, -⟩ := (recordsFit_iff s).mp f
  unfold decideWave
  split
  · next hs =>
    split
    · next n hg =>
      obtain ⟨k, rfl, -, hk⟩ := lift_gate r hg
      exact settle_fit s ((hk.rewrite (fun t => { t with
        kind := .waved
        baseRow := some s.settings.timing.waveRow
        features := (s.row s.settings.timing.waveRow).features
        cap := (s.row s.settings.timing.waveRow).cap
        price := 0 }) (fun _ => rfl)).returns
          (u := updateTicket k.number (fun t => { t with
            kind := .waved
            baseRow := some s.settings.timing.waveRow
            features := (s.row s.settings.timing.waveRow).features
            cap := (s.row s.settings.timing.waveRow).cap
            price := 0 }) s) f hg rfl rfl rfl rfl (by rw [hs]; rfl))
    · exact f
  all_goals exact f

/-- A lifted ticket's record is replaced by that of a new number. -/
theorem Lifted.replace (h : Lifted u k) (k' : Ticket)
    (hn : k'.number ∉ (freeTicket k.number u).held) (h0 : k'.number ≠ 0) :
    Lifted (replaceTicket k.number k' u) k' := by
  have ht : (replaceTicket k.number k' u).tickets =
      u.tickets.map (fun x => if x.number = k.number then k' else x) :=
    tickets_map (fun x => if x.number = k.number then k' else x) u
  have nd := numbers_nodup h.2.1
  have hm := (ticket?_mem h.1).1
  have hp : (u.tickets.map (fun x => if x.number = k.number then k' else x)).Perm
      (k' :: u.tickets.filter (fun t => t.number ≠ k.number)) := by
    clear ht
    revert nd hm
    generalize u.tickets = l
    intro nd hm
    induction l with
    | nil => cases hm
    | cons a l ih =>
      simp only [List.map_cons, List.nodup_cons] at nd
      rcases List.mem_cons.mp hm with rfl | h'
      · have hl : ∀ b ∈ l, b.number ≠ k.number := fun b hb e => nd.1 (e ▸ List.mem_map_of_mem hb)
        rw [List.filter_cons_of_neg (by simp), List.filter_eq_self.mpr (by simpa using hl),
          List.map_cons, if_pos rfl]
        refine List.Perm.cons _ (List.Perm.of_eq ?_)
        conv_rhs => rw [← List.map_id l]
        exact List.map_congr_left (fun b hb => if_neg (hl b hb))
      · have : a.number ≠ k.number := fun e => nd.1 (e ▸ List.mem_map_of_mem h')
        rw [List.filter_cons_of_pos (by simpa using this), List.map_cons, if_neg this]
        exact ((ih nd.2 h').cons a).trans (.swap k' a _)
  have hf : (freeTicket k.number u).numbersFit := held_sub (held_freeTicket _ u).subperm h.2.1
  have hnum : (replaceTicket k.number k' u).numbersFit := by
    refine held_new (s := freeTicket k.number u) (n := k'.number) ?_ hn h0 hf
    apply List.Perm.subperm
    unfold State.held
    rw [ht, tickets_freeTicket]
    exact (hp.map _).append_right _
  refine ⟨?_, hnum, fun x => ?_⟩
  · refine ticket?_of_mem (numbers_nodup hnum) ?_
    rw [ht]
    exact hp.mem_iff.mpr List.mem_cons_self
  · have a := count_map_replace Ticket.stands (fun t => t.number) (fun _ => k') x k.number k
      u.tickets nd hm rfl
    have b := h.2.2 x
    have p : (replaceTicket k.number k' u).places = u.places := rfl
    unfold State.named at b ⊢
    rw [ht, p]
    omega

theorem countRow_slots (r : Row) (a : Nat) (s : State) :
    (countRow r a s).sales.slots = s.sales.slots := rfl

/-- SELL (R66). -/
theorem decideSell_fit (row : Nat) (hc : s.creditsFit) (f : s.recordsFit) :
    (decideSell row s).2.recordsFit := by
  obtain ⟨r, c, -⟩ := (recordsFit_iff s).mp f
  unfold decideSell
  split
  · next hs =>
    split
    · exact f
    · next w hw =>
      split
      · exact f
      · split
        · exact f
        · next old hg =>
          obtain ⟨k, rfl, -, hk⟩ := lift_gate r hg
          obtain ⟨n1, n0⟩ := nextNumber_new (s := freeTicket k.number s) hc
          have hk' := hk.replace (soldTicket w (priceOf (s.row w) [] s.discount)
            (soldNumber k.number s)) n1 n0
          exact settle_fit s (Lifted.returns f hg (k := soldTicket w
            (priceOf (s.row w) [] s.discount) (soldNumber k.number s))
            (u := countRow w ((priceOf (s.row w) [] s.discount).lines.headD 0)
              (replaceTicket k.number (soldTicket w (priceOf (s.row w) [] s.discount)
                (soldNumber k.number s))
                { s with sales := { s.sales with lastNumber := soldNumber k.number s } }))
            hk' rfl rfl rfl rfl (by rw [hs]; rfl))
  all_goals exact f

/-- REMOVE (R67). -/
theorem removed_fit (f : s.recordsFit) {n : Nat} {g : Gate}
    (hk : ∃ k, k.number = n ∧ Lifted { s with gate := g } k)
    (hl : g.laneQueues = s.gate.laneQueues)
    (hm : g.merge.length + g.atGate.toList.length ≤ 12) (ha : g.atGate = none)
    (hs : s.gate.state.cls.2 = (false, false)) (before : State) (rs : Response) :
    (decided before rs (retireTicket n .removed { s with gate := g })).2.recordsFit := by
  obtain ⟨r, c, -⟩ := (recordsFit_iff s).mp f
  obtain ⟨k, rfl, hk⟩ := hk
  obtain ⟨h1, h2⟩ := hk.retires .removed
  obtain ⟨e, -, -⟩ := retireTicket_around .removed hk.1
  refine settle_fit before (recordsFit_of f ⟨h1, h2, ?_, ?_, ?_⟩ ?_ (by have := around_kept e; exact this))
  · rw [gateFits_cls]
    show (retireTicket k.number .removed { s with gate := g }).gate.atGate.isSome = false
    rw [around_gate e]
    show g.atGate.isSome = false
    rw [ha]; rfl
  · intro l
    have a := r.2.2.2.1 l
    have b := around_stands e l
    show ((retireTicket k.number .removed { s with gate := g }).gate.laneQueues[l]).length +
      (((retireTicket k.number .removed { s with gate := g }).saleSlot l).stands l).length ≤ 4
    rw [b, around_gate e]
    simp only [hl]
    exact a
  · show (retireTicket k.number .removed { s with gate := g }).gate.merge.length +
      (retireTicket k.number .removed { s with gate := g }).gate.atGate.toList.length ≤ 12
    rw [around_gate e]
    exact hm
  · refine rosterFits_of c ?_ (by rw [hs]; rfl)
    show (retireTicket k.number .removed { s with gate := g }).track.roster.map Car.shape = _
    rw [around_track e]

theorem decideRemove_fit (f : s.recordsFit) : (decideRemove s).2.recordsFit := by
  obtain ⟨r, c, -⟩ := (recordsFit_iff s).mp f
  have held : s.gate.state.cls = (true, false, false) → ∀ n, s.gate.atGate = some n →
      (decided s (okWith (u16 n))
        (retireTicket n .removed { s with gate := { s.gate with atGate := none } })).2.recordsFit := by
    intro hs n hg
    obtain ⟨k, h1, -, hk⟩ := lift_gate r hg
    refine removed_fit f ⟨k, h1, hk⟩ rfl ?_ rfl (by rw [hs]) s _
    have := r.2.2.2.2
    exact Nat.le_trans (Nat.add_le_add_left (Nat.zero_le _) _) this
  unfold decideRemove
  split
  · next hs => split
               · next hg => exact held (by rw [hs]; rfl) _ hg
               · exact f
  · next hs => split
               · next hg => exact held (by rw [hs]; rfl) _ hg
               · exact f
  · next hs =>
    split
    · exact f
    · next n rest hm =>
      have hg := atGate_none r (by rw [hs]; rfl)
      obtain ⟨k, h1, -, hk⟩ := lift
        (u := { s with gate := { s.gate with merge := rest, mergeCheck := false } }) r
        (merge_mem (n := n) (by rw [hm]; exact List.mem_cons_self)) rfl rfl (by
          intro y
          have := count_front
            (t := { s with gate := { s.gate with merge := rest, mergeCheck := false } })
            (u := s) rfl rfl y
          have := frontCount_merge hm rfl rfl rfl y
            (t := { s with gate := { s.gate with merge := rest, mergeCheck := false } })
          omega)
      refine removed_fit f ⟨k, h1, hk⟩ rfl ?_ hg (by rw [hs]; rfl) s _
      have := r.2.2.2.2
      rw [hm] at this
      simp only [List.length_cons] at this
      show rest.length + s.gate.atGate.toList.length ≤ 12
      omega
  all_goals exact f

/-- PLACE (R48). -/
theorem placeRequest_fit (b : List Byte) (f : s.recordsFit) : (placeRequest b s).2.recordsFit := by
  unfold placeRequest
  dsimp only
  split
  · exact f
  · next t ht =>
    split
    · exact f
    · next hs =>
      split
      · exact f
      · next room =>
        exact settle_fit s (place_fit f ht (by simpa using hs) (by simpa using room))

/-- GATE DECIDE (R63). -/
theorem gateDecideRequest_fit (b : List Byte) (hc : s.creditsFit) (f : s.recordsFit) :
    (gateDecideRequest b s).2.recordsFit := by
  unfold gateDecideRequest
  split
  · exact decideRetry_fit f
  · exact decideWave_fit f
  · exact decideSell_fit _ hc f
  · exact decideRemove_fit f
  · exact f

end Sys2Proof.Machine
end

