-- ==== Sys2Proof/Laws/Shapes.lean ====
section
/-!
SUPPORT. The order law of the roster (R91) over the cars' shapes: what a removal, a pulse, a
correction, a new car and a fixed length do to it.
-/

namespace Sys2Proof.Machine

variable {l m : List (Nat × Nat × Option Nat)} {c d : Bool × Bool × Bool}

/-- The part of ShapesFit that does not speak of the order. -/
def SetFit (l : List (Nat × Nat × Option Nat)) (c : Bool × Bool × Bool) : Prop :=
  l.length ≤ 20 ∧ (c.2.2 = true ↔ ∃ x ∈ l, x.2.2 = none) ∧
    (∀ x ∈ l, ∀ y ∈ l, x.2.2 = none → y.2.2 = none → x = y) ∧
    (c.2.1 = true → l.length < 20 ∧ ∀ x ∈ l, 0 < rearOf x)

theorem rearOf_le (x : Nat × Nat × Option Nat) : rearOf x ≤ x.2.1 := by
  unfold rearOf; split <;> omega

theorem rearOf_none {x : Nat × Nat × Option Nat} (h : x.2.2 = none) : rearOf x = 0 := by
  unfold rearOf; rw [h]

theorem rearOf_some {x : Nat × Nat × Option Nat} {n : Nat} (h : x.2.2 = some n) :
    rearOf x = (x.2.1 : Int) - n := by
  unfold rearOf; rw [h]

/-- In the order law, only the newest car can lack its length. -/
theorem last_of_none (h : Ordered l) {x : Nat × Nat × Option Nat} (hx : x ∈ l)
    (hn : x.2.2 = none) : l.getLast? = some x := by
  induction l with
  | nil => cases hx
  | cons a l ih =>
    have ⟨h1, h2⟩ := List.pairwise_cons.mp h
    rcases List.mem_cons.mp hx with rfl | hx
    · cases l with
      | nil => rfl
      | cons b l =>
        have := (h1 b List.mem_cons_self).2
        rw [rearOf_none hn] at this
        omega
    · have := ih h2 hx
      rw [List.getLast?_cons, this]; rfl

theorem shapesFit_iff : ShapesFit l c ↔ Ordered l ∧ SetFit l c := by
  constructor
  · intro ⟨h1, h2, h3, h4⟩
    refine ⟨h1, h2, h3.trans ⟨?_, ?_⟩, ?_, ?_⟩
    · intro ⟨x, hx, hn⟩; exact ⟨x, List.mem_of_getLast? hx, hn⟩
    · intro ⟨x, hx, hn⟩; exact ⟨x, last_of_none h1 hx hn, hn⟩
    · intro x hx y hy nx ny
      exact Option.some.inj ((last_of_none h1 hx nx).symm.trans (last_of_none h1 hy ny))
    · intro ho
      refine ⟨(h4 ho).1, fun x hx => ?_⟩
      rcases List.eq_nil_or_concat l with e | ⟨l', z, e⟩
      · rw [e] at hx; cases hx
      · have hz : l.getLast? = some z := by rw [e]; simp
        have hz0 := (h4 ho).2 z hz
        rw [e, List.concat_eq_append] at hx h1
        simp only [List.mem_append, List.mem_singleton] at hx
        rcases hx with hx | rfl
        · have := ((List.pairwise_append.mp h1).2.2 x hx z (by simp)).2
          have := rearOf_le z
          omega
        · exact hz0
  · intro ⟨h1, h2, h3, h4, h5⟩
    refine ⟨h1, h2, h3.trans ⟨?_, ?_⟩, fun ho => ⟨(h5 ho).1, fun x hx => ?_⟩⟩
    · intro ⟨x, hx, hn⟩; exact ⟨x, last_of_none h1 hx hn, hn⟩
    · intro ⟨x, hx, hn⟩; exact ⟨x, List.mem_of_getLast? hx, hn⟩
    · exact (h5 ho).2 x (List.mem_of_getLast? hx)

/-- R106, R61: a car is removed; when it is the car measured, the gate is IDLE from then on. -/
theorem SetFit.drop (h : SetFit l c) (n : Nat)
    (hd : d = if c.2.2 = true ∧ ∃ x ∈ l, x.1 = n ∧ x.2.2 = none then (false, false, false) else c) :
    SetFit (l.filter (fun x => x.1 ≠ n)) d := by
  obtain ⟨h1, h2, h3, h4⟩ := h
  have sub : ∀ x ∈ l.filter (fun x => x.1 ≠ n), x ∈ l ∧ x.1 ≠ n := by
    intro x hx
    simpa using hx
  have hlen : (l.filter (fun x => x.1 ≠ n)).length ≤ l.length := List.length_filter_le _ _
  refine ⟨by omega, ?_, fun x hx y hy => h3 x (sub x hx).1 y (sub y hy).1, ?_⟩
  · split at hd
    · next hm =>
      obtain ⟨-, x, hx, hxn, hxl⟩ := hm
      rw [hd]
      constructor
      · intro e; cases e
      · intro ⟨y, hy, hyl⟩
        have := h3 y (sub y hy).1 x hx hyl hxl
        exact absurd (this ▸ hxn) (sub y hy).2
    · next hm =>
      rw [hd, h2]
      constructor
      · intro ⟨x, hx, hxl⟩
        have hxn : x.1 ≠ n := fun e => hm ⟨h2.mpr ⟨x, hx, hxl⟩, x, hx, e, hxl⟩
        exact ⟨x, List.mem_filter.mpr ⟨hx, by simpa using hxn⟩, hxl⟩
      · intro ⟨x, hx, hxl⟩; exact ⟨x, (sub x hx).1, hxl⟩
  · intro ho
    have : c.2.1 = true := by
      split at hd
      · rw [hd] at ho; cases ho
      · rw [hd] at ho; exact ho
    have := h4 this
    exact ⟨by omega, fun x hx => this.2 x (sub x hx).1⟩

/-- R94: a shape after a pulse, below the position limit. -/
def pulseShape (x : Nat × Nat × Option Nat) : Nat × Nat × Option Nat :=
  if x.2.1 < Config.frontMax then (x.1, x.2.1 + 1, x.2.2) else x

theorem pulseShape_length (x : Nat × Nat × Option Nat) : (pulseShape x).2.2 = x.2.2 := by
  unfold pulseShape; split <;> rfl

theorem pulseShape_ticket (x : Nat × Nat × Option Nat) : (pulseShape x).1 = x.1 := by
  unfold pulseShape; split <;> rfl

theorem rearOf_pulse (x : Nat × Nat × Option Nat) : rearOf x ≤ rearOf (pulseShape x) := by
  unfold pulseShape; split
  · rcases x with ⟨a, b, _ | e⟩ <;> simp [rearOf]
  · exact Int.le_refl _

/-- R94: the fronts advance. -/
theorem SetFit.pulse (h : SetFit l c) : SetFit (l.map pulseShape) c := by
  obtain ⟨h1, h2, h3, h4⟩ := h
  refine ⟨by simpa using h1, h2.trans ⟨?_, ?_⟩, ?_, fun ho => ⟨by simpa using (h4 ho).1, ?_⟩⟩
  · intro ⟨x, hx, hn⟩
    exact ⟨pulseShape x, List.mem_map_of_mem hx, by rw [pulseShape_length]; exact hn⟩
  · intro ⟨y, hy, hn⟩
    obtain ⟨x, hx, rfl⟩ := List.mem_map.mp hy
    exact ⟨x, hx, by rw [pulseShape_length] at hn; exact hn⟩
  · intro x' hx' y' hy' nx ny
    obtain ⟨x, hx, rfl⟩ := List.mem_map.mp hx'
    obtain ⟨y, hy, rfl⟩ := List.mem_map.mp hy'
    rw [pulseShape_length] at nx ny
    rw [h3 x hx y hy nx ny]
  · intro y hy
    obtain ⟨x, hx, rfl⟩ := List.mem_map.mp hy
    have := (h4 ho).2 x hx
    have := rearOf_pulse x
    omega

/-- R91, R94, R95: without the cars at the position limit, the order law holds after a pulse. -/
theorem ordered_pulse (h : Ordered l) (p : Nat × Nat × Option Nat → Bool)
    (hp : ∀ x ∈ l, p (pulseShape x) = true → x.2.1 < Config.frontMax) :
    Ordered ((l.map pulseShape).filter p) := by
  rw [List.filter_map]
  refine List.pairwise_map.mpr ?_
  have h' : Ordered (l.filter (p ∘ pulseShape)) := List.Pairwise.sublist List.filter_sublist h
  refine List.Pairwise.imp_of_mem ?_ h'
  intro a b ha hb hab
  have fa : a.2.1 < Config.frontMax := by
    obtain ⟨h1, h2⟩ := List.mem_filter.mp ha
    exact hp a h1 h2
  have fb : b.2.1 < Config.frontMax := by
    obtain ⟨h1, h2⟩ := List.mem_filter.mp hb
    exact hp b h1 h2
  unfold pulseShape
  rw [if_pos fa, if_pos fb]
  rcases a with ⟨a1, a2, _ | a3⟩
  · have := hab.2
    simp only [rearOf] at this
    omega
  · have h1 := hab.1
    have h2 := hab.2
    simp only [rearOf] at h1 h2 ⊢
    exact ⟨by omega, by omega⟩

/-- R56, R92: a new car joins the roster while the gate loads, and the gate measures it. -/
theorem ShapesFit.join (h : ShapesFit l c) (hc : c.2.1 = true) (n : Nat) (hd : d.2 = (false, true)) :
    ShapesFit (l ++ [(n, 0, none)]) d := by
  obtain ⟨h1, h2, h3, h4, h5⟩ := shapesFit_iff.mp h
  obtain ⟨h6, h7⟩ := h5 hc
  have hp : ∀ x ∈ l, x.2.2 ≠ none := by
    intro x hx e
    have := h7 x hx
    rw [rearOf_none e] at this
    omega
  refine shapesFit_iff.mpr ⟨?_, ?_, ?_, ?_, ?_⟩
  · refine List.pairwise_append.mpr ⟨h1, List.pairwise_singleton _ _, ?_⟩
    intro a ha b hb
    simp only [List.mem_singleton] at hb
    subst hb
    have := h7 a ha
    have := rearOf_le a
    exact ⟨by show 0 < a.2.1; omega, by show ((0 : Nat) : Int) < rearOf a; omega⟩
  · simp; omega
  · rw [hd]
    exact ⟨fun _ => ⟨(n, 0, none), by simp, rfl⟩, fun _ => rfl⟩
  · intro x hx y hy nx ny
    simp only [List.mem_append, List.mem_singleton] at hx hy
    rcases hx with hx | rfl
    · exact absurd nx (hp x hx)
    · rcases hy with hy | rfl
      · exact absurd ny (hp y hy)
      · rfl
  · rw [hd]; intro e; cases e

/-- R58, R59: the length of the car measured is fixed, and the gate measures no more. -/
theorem ShapesFit.fix (h : ShapesFit (l ++ [(n, f, none)]) c) (len : Nat)
    (hd : d.2 = (false, false)) : ShapesFit (l ++ [(n, f, some len)]) d := by
  obtain ⟨h1, h2, h3, h4, h5⟩ := shapesFit_iff.mp h
  obtain ⟨g1, g2, g3⟩ := List.pairwise_append.mp h1
  have hp : ∀ x ∈ l, x.2.2 ≠ none := by
    intro x hx e
    have := (g3 x hx (n, f, none) (by simp)).2
    rw [rearOf_none e] at this
    simp only at this
    omega
  have none_absent : ∀ x ∈ l ++ [(n, f, some len)], x.2.2 ≠ none := by
    intro x hx
    simp only [List.mem_append, List.mem_singleton] at hx
    rcases hx with hx | rfl
    · exact hp x hx
    · simp
  refine shapesFit_iff.mpr ⟨?_, ?_, ?_, ?_, ?_⟩
  · refine List.pairwise_append.mpr ⟨g1, List.pairwise_singleton _ _, ?_⟩
    intro a ha b hb
    simp only [List.mem_singleton] at hb
    subst hb
    exact g3 a ha (n, f, none) (by simp)
  · simpa using h2
  · rw [hd]
    exact ⟨fun e => by simp at e, fun ⟨x, hx, e⟩ => absurd e (none_absent x hx)⟩
  · intro x hx y hy nx ny; exact absurd nx (none_absent x hx)
  · rw [hd]; intro e; cases e

/-- R100: a correction that keeps the neighbours' order keeps the order law. -/
theorem ShapesFit.correct (h : ShapesFit l c) {i pos : Nat} {x : Nat × Nat × Option Nat}
    (hx : l[i]? = some x)
    (older : ∀ o, 0 < i → l[i - 1]? = some o → (pos : Int) < rearOf o)
    (newer : ∀ len, x.2.2 = some len → (0 : Int) < (pos : Int) - len ∧
      ∀ y, l[i + 1]? = some y → (y.2.1 : Int) < (pos : Int) - len) :
    ShapesFit (l.set i (x.1, pos, x.2.2)) c := by
  obtain ⟨h1, h2, h3, h4, h5⟩ := shapesFit_iff.mp h
  obtain ⟨hi, hxi⟩ := List.getElem?_eq_some_iff.mp hx
  have h1' := List.pairwise_iff_getElem.mp h1
  have mem : ∀ y ∈ l.set i (x.1, pos, x.2.2), y = (x.1, pos, x.2.2) ∨ y ∈ l := by
    intro y hy
    rcases List.mem_or_eq_of_mem_set hy with h | h
    · exact Or.inr h
    · exact Or.inl h
  have xm : x ∈ l := hxi ▸ List.getElem_mem hi
  refine shapesFit_iff.mpr ⟨List.pairwise_iff_getElem.mpr ?_, ?_, ?_, ?_, ?_⟩
  · intro p q hp hq hpq
    simp only [List.length_set] at hp hq
    rw [List.getElem_set, List.getElem_set]
    by_cases e1 : i = p
    · -- a newer car behind the corrected one
      subst e1
      rw [if_pos rfl, if_neg (by omega)]
      have hxq := h1' i q hi hq hpq
      rw [hxi] at hxq
      by_cases hl : x.2.2 = none
      · rw [rearOf_none hl] at hxq
        omega
      · obtain ⟨len, hl⟩ := Option.ne_none_iff_exists'.mp hl
        obtain ⟨n1, n2⟩ := newer len hl
        have hq' : (l[q].2.1 : Int) < (pos : Int) - len := by
          by_cases e2 : q = i + 1
          · subst e2
            exact n2 _ (List.getElem?_eq_getElem hq)
          · have h6 : i + 1 < l.length := by omega
            have a := n2 _ (List.getElem?_eq_getElem h6)
            have b := (h1' (i + 1) q h6 hq (by omega)).1
            omega
        exact ⟨by show l[q].2.1 < pos; omega, by
          rw [rearOf_some (show (x.1, pos, x.2.2).2.2 = some len from hl)]
          exact hq'⟩
    · rw [if_neg e1]
      by_cases e2 : i = q
      · -- an older car in front of the corrected one
        subst e2
        rw [if_pos rfl]
        have h6 : i - 1 < l.length := by omega
        have a := older _ (by omega) (List.getElem?_eq_getElem h6)
        have key : (pos : Int) < rearOf l[p] := by
          by_cases e3 : p = i - 1
          · subst e3; exact a
          · have b := (h1' p (i - 1) hp h6 (by omega)).2
            have := rearOf_le l[i - 1]
            omega
        have := rearOf_le l[p]
        exact ⟨by show pos < l[p].2.1; omega, key⟩
      · rw [if_neg e2]
        exact h1' p q hp hq hpq
  · simpa using h2
  · rw [h3]
    constructor
    · intro ⟨y, hy, hn⟩
      by_cases e : y = x
      · subst e
        exact ⟨(y.1, pos, y.2.2), List.mem_set (by exact hi) _, hn⟩
      · obtain ⟨j, hj, hjy⟩ := List.getElem_of_mem hy
        have hji : i ≠ j := fun e' => e (by subst e'; exact hjy.symm.trans hxi)
        refine ⟨y, ?_, hn⟩
        have : (l.set i (x.1, pos, x.2.2))[j]'(by simpa using hj) = y := by
          rw [List.getElem_set, if_neg hji, hjy]
        rw [← this]; exact List.getElem_mem _
    · intro ⟨y, hy, hn⟩
      rcases mem y hy with rfl | hy
      · exact ⟨x, xm, hn⟩
      · exact ⟨y, hy, hn⟩
  · intro y hy z hz ny nz
    -- every absent length is the last shape's, on either side
    have last : ∀ w ∈ l.set i (x.1, pos, x.2.2), w.2.2 = none → x.2.2 = none →
        w = (x.1, pos, x.2.2) := by
      intro w hw hwn hxn
      rcases mem w hw with e | hwl
      · exact e
      · obtain ⟨j, hj, hjw⟩ := List.getElem_of_mem hw
        rw [List.getElem_set] at hjw
        by_cases e : i = j
        · rw [if_pos e] at hjw; exact hjw.symm
        · rw [if_neg e] at hjw
          simp only [List.length_set] at hj
          -- two absent lengths at two places of the order law
          exfalso
          rcases Nat.lt_or_gt_of_ne e with lt | gt
          · have := (h1' i j hi hj lt).2
            rw [hxi, rearOf_none hxn] at this
            omega
          · have := (h1' j i hj hi gt).2
            rw [hjw, rearOf_none hwn] at this
            omega
    by_cases hxn : x.2.2 = none
    · rw [last y hy ny hxn, last z hz nz hxn]
    · rcases mem y hy with rfl | hyl
      · exact absurd ny hxn
      · rcases mem z hz with rfl | hzl
        · exact absurd nz hxn
        · exact h4 y hyl z hzl ny nz
  · intro ho
    obtain ⟨h6, h7⟩ := h5 ho
    refine ⟨by simpa using h6, fun y hy => ?_⟩
    rcases mem y hy with rfl | hy
    · by_cases hl : x.2.2 = none
      · have := h7 x xm
        rw [rearOf_none hl] at this
        omega
      · obtain ⟨len, hl⟩ := Option.ne_none_iff_exists'.mp hl
        rw [rearOf_some (show (x.1, pos, x.2.2).2.2 = some len from hl)]
        exact (newer len hl).1
    · exact h7 y hy

end Sys2Proof.Machine
end

