-- ==== Sys2Proof/Laws/RosterMoves.lean ====
section
/-!
SUPPORT. The gate's loads and measurements and the roster's moves keep the records fit: a load, a
fixed length, a removal, the encoder pulse and the eyes.
-/

namespace Sys2Proof.Machine

variable {s t u : State} {k : Ticket}

/-! ## The shapes of the roster -/

/-- The part of the roster's fit that does not speak of the order. -/
def State.setFits (s : State) : Prop := SetFit (s.track.roster.map Car.shape) s.gate.state.cls

/-- The order law of the roster. -/
def State.ordered (s : State) : Prop := Ordered (s.track.roster.map Car.shape)

theorem rosterFits_split (s : State) : s.rosterFits ↔ s.ordered ∧ s.setFits :=
  (rosterFits_iff s).trans shapesFit_iff

/-- The tickets' part sees the roster through its tickets. -/
theorem ridersFit_roster (f : s.ridersFit) {r : List Car}
    (h : r.map (fun c => c.ticket) = s.track.roster.map (fun c => c.ticket)) :
    (setRoster r s).ridersFit := by
  refine ⟨(ticketsStand_iff _).mpr fun x => ?_, f.2.1, f.2.2.1, f.2.2.2⟩
  have a := count_front (t := setRoster r s) (u := s) rfl rfl x
  have b : frontCount (setRoster r s) x = frontCount s x := by
    unfold frontCount
    have : (setRoster r s).track.roster.map (fun c => c.ticket) =
      s.track.roster.map (fun c => c.ticket) := h
    rw [this]; rfl
  have c : (setRoster r s).named = s.named := rfl
  have := (ticketsStand_iff s).mp f.1 x
  rw [c]
  omega

theorem tickets_of_shapes (l : List Car) :
    l.map (fun c => c.ticket) = (l.map Car.shape).map (fun x => x.1) := by
  simp [Car.shape, Function.comp_def]

/-! ## Removals (R95, R104 to R108, R61) -/

theorem roster_count (f : s.ridersFit) {n : Nat} (hn : n ∈ s.track.roster.map (fun c => c.ticket))
    (x : Standing) :
    (setRoster (s.track.roster.filter (fun c => c.ticket ≠ n)) s).places.count x +
      (if (n, TicketState.riding, (none : Option Lane)) = x then 1 else 0) = s.places.count x := by
  have a := count_front (t := setRoster (s.track.roster.filter (fun c => c.ticket ≠ n)) s) (u := s)
    rfl rfl x
  have b := numCount_filter .riding none n x _ (cars_nodup f)
  have e : (s.track.roster.filter (fun c => c.ticket ≠ n)).map (fun c => c.ticket) =
      (s.track.roster.map (fun c => c.ticket)).filter (fun m => m ≠ n) := by
    rw [List.filter_map]; rfl
  have c : frontCount (setRoster (s.track.roster.filter (fun c => c.ticket ≠ n)) s) x +
      (if (n, TicketState.riding, (none : Option Lane)) = x then 1 else 0) = frontCount s x := by
    unfold frontCount
    have e' : (setRoster (s.track.roster.filter (fun c => c.ticket ≠ n)) s).track.roster.map
        (fun c => c.ticket) = (s.track.roster.map (fun c => c.ticket)).filter (fun m => m ≠ n) := e
    have g : (setRoster (s.track.roster.filter (fun c => c.ticket ≠ n)) s).gate = s.gate := rfl
    rw [e', g]
    simp only [hn, true_and] at b
    omega
  omega

theorem filter_shape (l : List Car) (n : Nat) :
    (l.filter (fun c => c.ticket ≠ n)).map Car.shape =
      (l.map Car.shape).filter (fun x => x.1 ≠ n) := by
  rw [List.filter_map]; rfl

/-- What a removal of a car on the roster does to the records. -/
theorem dropCar_facts {n : Nat} (res : Result) (f : s.ridersFit) (g : s.setFits)
    (hn : n ∈ s.track.roster.map (fun c => c.ticket)) :
    (dropCar n res s).ridersFit ∧ (dropCar n res s).setFits ∧
      (dropCar n res s).track.roster.map Car.shape =
        (s.track.roster.map Car.shape).filter (fun x => x.1 ≠ n) ∧
      kept (dropCar n res s) = kept s := by
  obtain ⟨c, hc, hcn⟩ := List.mem_map.mp hn
  have hcar := car_mem hc
  rw [hcn] at hcar
  obtain ⟨k, h1, -, hk⟩ := lift (u := setRoster (s.track.roster.filter (fun c => c.ticket ≠ n)) s)
    f hcar rfl rfl (roster_count f hn)
  simp only at h1
  subst h1
  obtain ⟨h2, h3⟩ := hk.retires res
  obtain ⟨e, -, -⟩ := retireTicket_around res hk.1
  generalize hv : retireTicket k.number res
    (setRoster (s.track.roster.filter (fun c => c.ticket ≠ k.number)) s) = v at h2 h3 e
  have eg : v.gate = s.gate := (around_gate e).trans rfl
  have ek : kept v = kept s := (around_kept e).trans rfl
  have ek' : kept (abandonMeasure v) = kept v := rfl
  have et : v.track.roster = s.track.roster.filter (fun c => c.ticket ≠ k.number) := by
    rw [around_track e]; rfl
  have q : v.queuesFit := by
    refine ⟨fun l => ?_, by rw [eg]; exact f.2.2.2.2⟩
    have := around_stands e l
    rw [this]
    unfold State.laneQueue
    rw [eg]
    exact f.2.2.2.1 l
  have meas : (s.gate.state == .measuring && s.track.roster.any
      (fun c => c.ticket == k.number && c.length.isNone)) = true ↔
      s.gate.state.cls.2.2 = true ∧ ∃ x ∈ s.track.roster.map Car.shape,
        x.1 = k.number ∧ x.2.2 = none := by
    have a : s.gate.state = .measuring ↔ s.gate.state.cls.2.2 = true := by
      rcases s.gate.state with _ | _ | _ | _ | _ | r <;> (try cases r) <;> simp [GateState.cls]
    rw [← a]
    simp [Car.shape]
  unfold dropCar
  dsimp only
  rw [hv]
  by_cases hm : (s.gate.state == .measuring && s.track.roster.any
      (fun c => c.ticket == k.number && c.length.isNone)) = true
  · rw [if_pos hm]
    have hs : s.gate.state = .measuring := by
      simp only [Bool.and_eq_true, beq_iff_eq] at hm; exact hm.1
    have er : recs (evaluate (abandonMeasure v)) = recs (abandonMeasure v) := evaluate_recs _
    have es : (evaluate (abandonMeasure v)).track.roster.map Car.shape =
        (s.track.roster.map Car.shape).filter (fun x => x.1 ≠ k.number) := by
      have := (riders_iff.mp (riders_of er)).2.2.2.2.2.2.1
      rw [this, ← filter_shape]
      show v.track.roster.map Car.shape = _
      rw [et]
    have ec : (evaluate (abandonMeasure v)).gate.state.cls = (false, false, false) := by
      rw [(riders_iff.mp (riders_of er)).2.2.2.2.2.1]
      rfl
    have ha : (abandonMeasure v).ridersFit := by
      refine ⟨h2, h3, ?_, q⟩
      rw [gateFits_cls]
      show v.gate.atGate.isSome = false
      rw [eg, (gateFits_cls s).mp f.2.2.1, hs]; rfl
    have erR : riders (evaluate (abandonMeasure v)) = riders (abandonMeasure v) :=
      riders_of er
    refine ⟨ridersFit_congr erR ha, ?_, es, ?_⟩
    · unfold State.setFits
      rw [es, ec]
      exact g.drop k.number (by rw [if_pos (meas.mp hm)])
    · exact ((kept_of er).trans ek').trans ek
  · rw [if_neg hm]
    have er : recs (evaluate v) = recs v := evaluate_recs _
    have es : (evaluate v).track.roster.map Car.shape =
        (s.track.roster.map Car.shape).filter (fun x => x.1 ≠ k.number) := by
      have := (riders_iff.mp (riders_of er)).2.2.2.2.2.2.1
      rw [this, ← filter_shape, et]
    have ec : (evaluate v).gate.state.cls = s.gate.state.cls := by
      rw [(riders_iff.mp (riders_of er)).2.2.2.2.2.1, eg]
    refine ⟨ridersFit_congr (riders_of er) ⟨h2, h3, ?_, q⟩, ?_, es, ?_⟩
    · unfold State.gateFits
      rw [eg]
      exact f.2.2.1
    · unfold State.setFits
      rw [es, ec]
      exact g.drop k.number (by rw [if_neg (fun h => hm (meas.mpr h))])
    · exact (kept_of er).trans ek

/-- A removal that follows the roster's rule for the car it is told. -/
def Drops (f : State → Nat → State) : Prop :=
  ∀ s n, s.ridersFit → s.setFits → n ∈ s.track.roster.map (fun c => c.ticket) →
    (f s n).ridersFit ∧ (f s n).setFits ∧
      (f s n).track.roster.map Car.shape =
        (s.track.roster.map Car.shape).filter (fun x => x.1 ≠ n) ∧
      kept (f s n) = kept s

theorem drops_atLimit : Drops dropAtLimit := by
  intro s n f g hn
  obtain ⟨h1, h2, h3, h4⟩ := dropCar_facts .removed f g hn
  have er : recs (dropAtLimit s n) = recs (dropCar n .removed s) := raiseCause_recs _ _ _
  have e := riders_iff.mp (riders_of er)
  refine ⟨ridersFit_congr (riders_of er) h1, ?_, e.2.2.2.2.2.2.1.trans h3,
    (kept_of er).trans h4⟩
  unfold State.setFits at *
  rw [e.2.2.2.2.2.2.1, e.2.2.2.2.2.1]
  exact h2

theorem drops_atExit : Drops dropAtExit := by
  intro s n f g hn
  unfold dropAtExit
  split
  · exact dropCar_facts _ f g hn
  · next h =>
    obtain ⟨c, hc, hcn⟩ := List.mem_map.mp hn
    exact absurd (List.find?_eq_none.mp h c hc) (by simp [hcn])

/-- Several removals, one after the other. -/
theorem drops_foldl {f : State → Nat → State} (hf : Drops f) : ∀ (l : List Nat) (s : State),
    s.ridersFit → s.setFits → l.Nodup → (∀ n ∈ l, n ∈ s.track.roster.map (fun c => c.ticket)) →
    (l.foldl f s).ridersFit ∧ (l.foldl f s).setFits ∧
      (l.foldl f s).track.roster.map Car.shape =
        (s.track.roster.map Car.shape).filter (fun x => x.1 ∉ l) ∧
      kept (l.foldl f s) = kept s
  | [], s, h1, h2, _, _ => ⟨h1, h2, by simp, rfl⟩
  | n :: l, s, h1, h2, nd, hl => by
    obtain ⟨a, b, c, d⟩ := hf s n h1 h2 (hl n List.mem_cons_self)
    obtain ⟨nd1, nd2⟩ := List.nodup_cons.mp nd
    have hm : ∀ m ∈ l, m ∈ (f s n).track.roster.map (fun c => c.ticket) := by
      intro m hm
      have h3 := hl m (List.mem_cons_of_mem _ hm)
      rw [tickets_of_shapes] at h3 ⊢
      obtain ⟨x, hx, hxm⟩ := List.mem_map.mp h3
      rw [c]
      refine List.mem_map.mpr ⟨x, List.mem_filter.mpr ⟨hx, ?_⟩, hxm⟩
      have : m ≠ n := fun e => nd1 (e ▸ hm)
      simpa [hxm] using this
    obtain ⟨a', b', c', d'⟩ := drops_foldl hf l (f s n) a b nd2 hm
    refine ⟨a', b', ?_, d'.trans d⟩
    rw [List.foldl_cons, c', c, List.filter_filter]
    congr 1
    funext x
    by_cases e : x.1 = n <;> simp [e]

/-- Removals keep the order law. -/
theorem Ordered.filter {l : List (Nat × Nat × Option Nat)} (h : Ordered l)
    (p : Nat × Nat × Option Nat → Bool) : Ordered (l.filter p) :=
  List.Pairwise.sublist List.filter_sublist h

theorem dropCar_fit {n : Nat} (res : Result) (f : s.recordsFit)
    (hn : n ∈ s.track.roster.map (fun c => c.ticket)) : (dropCar n res s).recordsFit := by
  obtain ⟨r, c, -⟩ := (recordsFit_iff s).mp f
  obtain ⟨o, g⟩ := (rosterFits_split s).mp c
  obtain ⟨h1, h2, h3, h4⟩ := dropCar_facts res r g hn
  refine recordsFit_of f h1 ((rosterFits_split _).mpr ⟨?_, h2⟩) h4
  unfold State.ordered
  rw [h3]
  exact o.filter _

/-- R104: the removals at the exit. -/
theorem clearExit_fit : ∀ (fuel : Nat) (s : State), s.recordsFit → (clearExit fuel s).recordsFit
  | 0, _, f => f
  | fuel + 1, s, f => by
    unfold clearExit
    split
    · exact f
    · next c l h =>
      split
      · exact clearExit_fit fuel _ (dropCar_fit _ f (by rw [h]; exact List.mem_cons_self))
      · exact f

/-- R105: the overdue cars. -/
theorem testOverdue_fit (f : s.recordsFit) : (testOverdue s).recordsFit := by
  unfold testOverdue
  split
  · exact f
  · obtain ⟨r, c, -⟩ := (recordsFit_iff s).mp f
    obtain ⟨o, g⟩ := (rosterFits_split s).mp c
    have sub : ((s.track.roster.filter s.overdue).map (fun c => c.ticket)).Sublist
        (s.track.roster.map (fun c => c.ticket)) := List.filter_sublist.map _
    obtain ⟨h1, h2, h3, h4⟩ := drops_foldl drops_atExit _ s r g (sub.nodup (cars_nodup r))
      (fun n hn => sub.subset hn)
    refine recordsFit_of f h1 ((rosterFits_split _).mpr ⟨?_, h2⟩) h4
    unfold State.ordered
    rw [h3]
    exact o.filter _

/-- R94: TRACK's part of a pulse. -/
theorem trackPulse_fit (f : s.recordsFit) : (trackPulse s).recordsFit := by
  obtain ⟨r, c, -⟩ := (recordsFit_iff s).mp f
  obtain ⟨o, g⟩ := (rosterFits_split s).mp c
  unfold trackPulse
  dsimp only
  refine recordsFit_congr (testExitBlocked_recs _) (testOverdue_fit
    (recordsFit_congr (testSlip_recs _) ?_))
  have hsh : (advanceFronts s).track.roster.map Car.shape =
      (s.track.roster.map Car.shape).map pulseShape := by
    show (s.track.roster.map _).map Car.shape = _
    rw [List.map_map, List.map_map]
    apply List.map_congr_left
    intro c _
    show (if c.front < Config.frontMax then { c with front := c.front + 1 } else c).shape =
      if c.front < Config.frontMax then (c.ticket, c.front + 1, c.length) else c.shape
    by_cases h : c.front < Config.frontMax
    · rw [if_pos h, if_pos h]; rfl
    · rw [if_neg h, if_neg h]
  have r' : (advanceFronts s).ridersFit := by
    refine ridersFit_roster r ?_
    rw [List.map_map]
    apply List.map_congr_left
    intro c _
    simp only [Function.comp_apply]
    split <;> rfl
  have g' : (advanceFronts s).setFits := by
    unfold State.setFits
    rw [hsh]
    exact g.pulse
  have tk : (advanceFronts s).track.roster.map (fun c => c.ticket) =
      s.track.roster.map (fun c => c.ticket) := by
    rw [tickets_of_shapes, hsh, tickets_of_shapes, List.map_map]
    apply List.map_congr_left
    intro x _
    exact pulseShape_ticket x
  have sub : ((s.track.roster.filter (fun c => decide (Config.frontMax ≤ c.front))).map
      (fun c => c.ticket)).Sublist (s.track.roster.map (fun c => c.ticket)) :=
    List.filter_sublist.map _
  obtain ⟨h1, h2, h3, h4⟩ := drops_foldl drops_atLimit _ (advanceFronts s) r' g'
    (sub.nodup (cars_nodup r)) (fun n hn => by rw [tk]; exact sub.subset hn)
  refine recordsFit_of f h1 ((rosterFits_split _).mpr ⟨?_, h2⟩) (h4.trans rfl)
  unfold State.ordered
  rw [h3, hsh]
  refine ordered_pulse o _ ?_
  intro x hx hp
  obtain ⟨c, hc, rfl⟩ := List.mem_map.mp hx
  rw [pulseShape_ticket] at hp
  by_contra hge
  have : c.ticket ∈ (s.track.roster.filter (fun c => decide (Config.frontMax ≤ c.front))).map
      (fun c => c.ticket) :=
    List.mem_map_of_mem (List.mem_filter.mpr ⟨hc, by
      simp only [Car.shape, Nat.not_lt] at hge; simpa using hge⟩)
  simp only [Car.shape, this, not_true_eq_false, decide_false, Bool.false_eq_true] at hp

/-! ## The gate's loads and measurements (R55 to R60) -/

/-- R55: an expired load distance. -/
theorem enterOffer_recs (s : State) (h : s.gate.state.cls = (true, true, false)) :
    recs (enterOffer s) = recs s := by
  unfold enterOffer
  rw [testTire_recs]
  exact recs_gate _ s rfl rfl rfl (by rw [h]; rfl)

theorem testLoadDistance_recs (s : State) : recs (testLoadDistance s) = recs s := by
  unfold testLoadDistance
  split
  · next h =>
    have hs : s.gate.state = .loading := by
      simp only [State.loadDue, Bool.and_eq_true, beq_iff_eq] at h; exact h.1
    have er : ∀ c sub, recs (raiseCause c sub s) = recs s := fun c sub => raiseCause_recs c sub s
    have hc : ∀ c sub, (raiseCause c sub s).gate.state.cls = (true, true, false) := by
      intro c sub
      rw [(riders_iff.mp (riders_of (er c sub))).2.2.2.2.2.1, hs]; rfl
    rw [enterOffer_recs _ (hc _ _), er]
  · rfl

/-- R53: an expired offer holds the gate. -/
theorem offerExpiry_fit (f : s.recordsFit) : (offerExpiry s).recordsFit := by
  obtain ⟨r, c, -⟩ := (recordsFit_iff s).mp f
  unfold offerExpiry
  split
  · next h =>
    refine recordsFit_of f ⟨r.1, r.2.1, ?_, r.2.2.2⟩ ?_ rfl
    · rw [gateFits_cls]
      show s.gate.atGate.isSome = true
      rw [(gateFits_cls s).mp r.2.2.1, h.1]; rfl
    · rw [rosterFits_iff] at c ⊢
      refine ⟨c.1, c.2.1, ?_, fun e => by cases e⟩
      have h3 := c.2.2.1
      rw [h.1] at h3
      exact h3
  · exact f

/-- R56, R92: a load begins to be measured. -/
theorem beginMeasure_fit {n : Nat} (f : s.recordsFit) (hg : s.gate.atGate = some n)
    (hs : s.gate.state = .loading) : (beginMeasure n s).recordsFit := by
  obtain ⟨r, c, -⟩ := (recordsFit_iff s).mp f
  unfold beginMeasure
  dsimp only
  refine recordsFit_congr (rosterChanged_recs _) (recordsFit_congr (captureFlags_recs _) ?_)
  obtain ⟨k, rfl, -, hk⟩ := lift_gate r hg
  have h := (hk.rewrite (fun t => { t with state := .riding }) (fun _ => rfl)).lands
    (t := { setRoster (s.track.roster ++ [newCar k.number])
        (updateTicket k.number (fun t => { t with state := .riding }) s) with
      gate := { s.gate with
        state := .measuring, atGate := none, measCount := 0, restoreCount := 0,
        settleCount := 0, tailgated := false } }) rfl rfl (by
      intro x
      generalize hT : ({ setRoster (s.track.roster ++ [newCar k.number])
          (updateTicket k.number (fun t => { t with state := .riding }) s) with
        gate := { s.gate with
          state := .measuring, atGate := none, measCount := 0, restoreCount := 0,
          settleCount := 0, tailgated := false } } : State) = T
      generalize hU : (updateTicket k.number (fun t => { t with state := .riding })
        { s with gate := { s.gate with atGate := none } } : State) = U
      have a := count_front (t := T) (u := U) (by rw [← hT, ← hU]; rfl) (by rw [← hT, ← hU]; rfl) x
      have b : frontCount T x = frontCount U x +
          if (k.number, TicketState.riding, (none : Option Lane)) = x then 1 else 0 := by
        unfold frontCount
        have h1 : T.gate.merge = U.gate.merge := by rw [← hT, ← hU]; rfl
        have h2 : T.gate.atGate = U.gate.atGate := by rw [← hT, ← hU]; rfl
        have h3 : T.track.roster.map (fun c => c.ticket) =
            U.track.roster.map (fun c => c.ticket) ++ [k.number] := by
          rw [← hT, ← hU]
          show (s.track.roster ++ [newCar k.number]).map (fun c => c.ticket) =
            s.track.roster.map (fun c => c.ticket) ++ [k.number]
          simp [newCar]
        rw [h1, h2, h3, numCount_append, numCount_cons, numCount_nil]
        omega
      have st : ({ k with state := .riding } : Ticket).stands = (k.number, .riding, none) := rfl
      rw [st]
      omega)
  refine recordsFit_of f ⟨h.1, h.2, ?_, r.2.2.2.1, ?_⟩ ?_ rfl
  · rw [gateFits_cls]; rfl
  · exact Nat.le_trans (Nat.add_le_add_left (Nat.zero_le _) _) r.2.2.2.2
  · rw [rosterFits_iff] at c ⊢
    have := c.join (d := GateState.cls .measuring) (by rw [hs]; rfl) k.number rfl
    show ShapesFit ((s.track.roster ++ [newCar k.number]).map Car.shape) _
    rw [List.map_append]
    exact this

/-- R58, R59: the length of the car measured is fixed. -/
theorem fixLength_fit (len : Nat) (short : Bool) (f : s.recordsFit)
    (hs : s.gate.state = .measuring) : (fixLength len short s).recordsFit := by
  obtain ⟨r, c, -⟩ := (recordsFit_iff s).mp f
  unfold fixLength
  dsimp only
  refine recordsFit_congr (rosterChanged_recs _) ?_
  obtain ⟨x, hx, hn⟩ := c.2.2.1.mp hs
  have hl : ∃ l, s.track.roster = l ++ [x] := by
    rcases List.eq_nil_or_concat s.track.roster with e | ⟨l, z, e⟩
    · unfold State.newestCar at hx
      rw [e] at hx; cases hx
    · refine ⟨l, ?_⟩
      unfold State.newestCar at hx
      rw [e, List.concat_eq_append] at hx
      simp at hx
      rw [e, hx, List.concat_eq_append]
  obtain ⟨l, hl⟩ := hl
  generalize hF : (fun c : Car => ({ c with
    length := some len
    flags := { c.flags with short := c.flags.short || short } } : Car)) = F
  have ht : ∀ c, (F c).ticket = c.ticket := by intro c; rw [← hF]
  have hsh : (F x).shape = (x.ticket, x.front, some len) := by rw [← hF]; rfl
  have er : (updateNewest F s).track.roster = l ++ [F x] := by
    show s.track.roster.dropLast ++ (s.track.roster.getLast?.map F).toList = _
    rw [hl]; simp
  have r' : (updateNewest F s).ridersFit := by
    refine ridersFit_roster r ?_
    rw [hl]; simp [ht]
  refine recordsFit_of f ⟨r'.1, r'.2.1, ?_, r'.2.2.2⟩ ?_ rfl
  · rw [gateFits_cls]
    show s.gate.atGate.isSome = false
    rw [(gateFits_cls s).mp r.2.2.1, hs]; rfl
  · rw [rosterFits_iff] at c ⊢
    show ShapesFit ((updateNewest F s).track.roster.map Car.shape) (GateState.cls .spacing)
    have hxs : x.shape = (x.ticket, x.front, none) := by unfold Car.shape; rw [hn]
    rw [hl, List.map_append, List.map_cons, List.map_nil, hxs] at c
    rw [er, List.map_append, List.map_cons, List.map_nil, hsh]
    exact c.fix len rfl

theorem testSettled_fit (f : s.recordsFit) : (testSettled s).recordsFit := by
  unfold testSettled
  split
  · next h =>
    have hs : s.gate.state = .measuring := by
      simp only [State.settleDue, Bool.and_eq_true, beq_iff_eq] at h; exact h.1.1.1
    split
    · exact fixLength_fit _ _ f hs
    · exact fixLength_fit _ _ f hs
  · exact f

theorem fixTailgated_fit (f : s.recordsFit) : (fixTailgated s).recordsFit := by
  unfold fixTailgated
  split
  · next h => exact fixLength_fit _ _ f h.1
  · exact f

theorem gatePulse_fit (f : s.recordsFit) : (gatePulse s).recordsFit := by
  unfold gatePulse
  split
  · exact recordsFit_congr (testLoadDistance_recs _) (recordsFit_congr rfl f)
  · refine testSettled_fit (recordsFit_congr (testMaxLen_recs _) ?_)
    repeat' split
    · exact f
    · exact recordsFit_congr rfl f
    · exact recordsFit_congr rfl f
  · exact recordsFit_congr (testSpacing_recs _) f
  all_goals exact f

/-- An encoder pulse. -/
theorem pulse_fit (n : Nat) (f : s.recordsFit) : (pulse n s).recordsFit := by
  unfold pulse
  refine settle_fit s (gatePulse_fit (recordsFit_congr (evaluate_recs _) (trackPulse_fit ?_)))
  exact recordsFit_congr (convPulse_recs _) (recordsFit_congr (advance_recs n s) f)

theorem inputs_fit (i : Inputs) (f : s.recordsFit) : State.recordsFit { s with inputs := i } :=
  recordsFit_congr rfl f

/-- R56: a break of the entry eye. -/
theorem entryBreak_fit (f : s.recordsFit) : (entryBreak s).recordsFit := by
  unfold entryBreak
  generalize hv : noteMoved .entry { s with inputs := { s.inputs with entryEye := true } } = v
  have fv : v.recordsFit := by
    rw [← hv]
    exact recordsFit_congr (noteMoved_recs _ _) (inputs_fit _ f)
  unfold gateEntryBreak
  split
  · next hs =>
    split
    · next n hg => exact beginMeasure_fit fv hg hs
    · exact fv
  · exact recordsFit_congr (resumeMeasure_recs _) fv
  all_goals exact recordsFit_congr (raiseCause_recs _ _ _) fv

/-! ## The checkpoint and exit eyes (R98 to R104) -/

/-- R99 to R101: a verified break of a checkpoint eye. -/
theorem verifyCheckpoint_fit (k : Checkpoint) (g : CheckpointCfg) (f : s.recordsFit) :
    (verifyCheckpoint k g s).recordsFit := by
  obtain ⟨r, c, -⟩ := (recordsFit_iff s).mp f
  unfold verifyCheckpoint
  split
  · next i hi =>
    split
    · exact f
    · next x hx =>
      have hxs : (s.track.roster.map Car.shape)[i]? = some x.shape := by simp [hx]
      have hxi : ∀ h : i < s.track.roster.length, s.track.roster[i] = x :=
        fun h => Option.some.inj ((List.getElem?_eq_getElem h).symm.trans hx)
      dsimp only
      by_cases ok : correctionOk (if i = 0 then none else s.track.roster[i - 1]?)
          s.track.roster[i + 1]? x g.position = true
      · rw [if_pos ok]
        refine recordsFit_congr (rosterChanged_recs _) ?_
        have esh : (s.track.roster.set i { x with
              marks := vset x.marks k true, front := g.position }).map Car.shape =
            (s.track.roster.map Car.shape).set i (x.shape.1, g.position, x.shape.2.2) := by
          rw [List.map_set]; rfl
        refine recordsFit_of f (ridersFit_roster r ?_) ?_ rfl
        · rw [tickets_of_shapes, esh, tickets_of_shapes, List.map_set]
          refine List.ext_getElem? fun j => ?_
          rw [List.getElem?_set]
          split
          · next e =>
            subst e
            have hlt := (List.getElem?_eq_some_iff.mp hxs).1
            simp only [List.length_map] at hlt
            simp [hxi hlt, hlt, Car.shape]
          · rfl
        · rw [rosterFits_iff] at c ⊢
          show ShapesFit ((s.track.roster.set i { x with
              marks := vset x.marks k true, front := g.position }).map Car.shape) _
          rw [esh]
          simp only [correctionOk, Bool.and_eq_true] at ok
          refine c.correct hxs ?_ ?_
          · intro o hpos ho
            rw [List.getElem?_map] at ho
            obtain ⟨oc, h1, h2⟩ := Option.map_eq_some_iff.mp ho
            have := ok.1
            rw [if_neg (by omega), h1] at this
            simp only [decide_eq_true_eq] at this
            rw [← h2, ← rear_shape]
            exact this
          · intro len hlen
            have hlen : x.length = some len := hlen
            have := ok.2
            rw [hlen] at this
            rcases hnew : s.track.roster[i + 1]? with _ | y
            · rw [hnew] at this
              simp only [decide_eq_true_eq] at this
              refine ⟨this, fun y hy => ?_⟩
              rw [List.getElem?_map, hnew] at hy
              cases hy
            · rw [hnew] at this
              simp only [decide_eq_true_eq] at this
              refine ⟨by omega, fun z hz => ?_⟩
              rw [List.getElem?_map, hnew] at hz
              simp only [Option.map_some, Option.some.injEq] at hz
              rw [← hz]
              exact this
      · rw [if_neg ok]
        refine recordsFit_congr (raiseCause_recs _ _ _) (recordsFit_congr (recs_setRoster _ s ?_) f)
        rw [List.map_set]
        refine List.ext_getElem? fun j => ?_
        rw [List.getElem?_set]
        split
        · next e =>
          subst e
          have hlt := (List.getElem?_eq_some_iff.mp hxs).1
          simp only [List.length_map] at hlt
          simp [hxi hlt, hlt, Car.shape]
        · rfl
  · split
    · exact f
    · exact recordsFit_congr (raiseCause_recs _ _ _) f

theorem checkpointBreak_fit (k : Checkpoint) (f : s.recordsFit) :
    (checkpointBreak k s).recordsFit := by
  unfold checkpointBreak
  dsimp only
  split
  · exact inputs_fit _ f
  · split
    · exact recordsFit_congr (noteMoved_recs _ _) (inputs_fit _ f)
    · exact verifyCheckpoint_fit k _ (inputs_fit _ f)

theorem exitRestore_fit (f : s.recordsFit) : (exitRestore s).recordsFit := by
  unfold exitRestore
  dsimp only
  have h := clearExit_fit s.track.roster.length
    { s with inputs := { s.inputs with exitEye := false } } (inputs_fit _ f)
  refine recordsFit_congr (clearCause_recs _ _) ?_
  split
  · exact recordsFit_congr (rosterChanged_recs _) h
  · exact recordsFit_congr (noteMoved_recs _ _) h

theorem removal_fit {n : Nat} (f : s.recordsFit)
    (h : s.track.roster.any (fun c => c.ticket == n) = true) :
    (settle s (rosterChanged (dropCar n .removed s))).recordsFit := by
  refine settle_fit s (recordsFit_congr (rosterChanged_recs _) (dropCar_fit .removed f ?_))
  simp only [List.any_eq_true, beq_iff_eq] at h
  obtain ⟨c, hc, hn⟩ := h
  exact List.mem_map.mpr ⟨c, hc, hn⟩

theorem removeCarRequest_fit (b : List Byte) (f : s.recordsFit) :
    (removeCarRequest b s).2.recordsFit := by
  unfold removeCarRequest
  generalize wordAt b 0 = n
  dsimp only
  split
  · exact f
  · split
    · next h =>
      have r := removal_fit f h
      dsimp only
      exact r
    · exact f

end Sys2Proof.Machine
end

