-- ==== Sys2Proof/Laws/SaleMoves.lean ====
section
/-!
SUPPORT. The lanes' sales keep the records fit: quotes, payments, cancels, tags, lookups, redemptions
and dropped credits.
-/

namespace Sys2Proof.Machine

variable {s t u : State} {k : Ticket}

/-! ## Small changes -/

/-- Counting rows changes the totals alone. -/
theorem countRows_totals (rows : List Row) (lines : List Nat) (s : State) :
    ∃ x, countRows rows lines s = { s with sales := { s.sales with totals := x } } := by
  unfold countRows
  generalize rows.zip lines = l
  induction l generalizing s with
  | nil => exact ⟨s.sales.totals, rfl⟩
  | cons a l ih =>
    obtain ⟨x, hx⟩ := ih (countRow a.1 a.2 s)
    exact ⟨x, hx⟩

/-- A credit leaves the list. -/
theorem removeCredit_numbers (code : Nat) (f : s.numbersFit) : (removeCredit code s).numbersFit := by
  apply held_sub _ f
  apply List.Sublist.subperm
  unfold State.held
  exact (List.Sublist.refl _).append (List.filter_sublist.map _)

theorem dropCredit_fit (code : Nat) (f : s.recordsFit) : (removeCredit code s).recordsFit := by
  obtain ⟨r, c, -⟩ := (recordsFit_iff s).mp f
  exact recordsFit_of f ⟨r.1, removeCredit_numbers code r.2.1, r.2.2.1, r.2.2.2⟩ c rfl

/-- An entry rewritten without touching its range. -/
theorem setEntry_kept (k : EntryIx) (e : MemberEntry) (s : State)
    (h : e.range = (s.entry k).range) : kept (setEntry k e s) = kept s := by
  have : (vset s.memb.entries k e).toList.map MemberEntry.range =
      s.memb.entries.toList.map MemberEntry.range := by
    refine List.ext_getElem (by simp) fun i h1 h2 => ?_
    simp only [List.getElem_map, Vector.getElem_toList, vset, Vector.getElem_set]
    split
    · next e' => subst e'; exact h
    · rfl
  unfold kept setEntry
  dsimp only
  rw [this]

/-! ## The end of a sale slot (R16, R18, R19, R37) -/

theorem cancelSlot_records (f : s.recordsFit) (i : Lane) : (cancelSlot i s).recordsFit := by
  obtain ⟨r, c, -⟩ := (recordsFit_iff s).mp f
  refine recordsFit_of f (cancelSlot_fit r i) ?_ ?_
  · unfold cancelSlot; split
    · exact c
    · exact rosterFits_of c rfl rfl
  · unfold cancelSlot; split <;> rfl

theorem endWait_fit (f : s.recordsFit) (i : Lane) (st : Status) : (endWait i st s).recordsFit :=
  recordsFit_congr (raiseTo_recs _ _ _) (cancelSlot_records f i)

theorem settleDrain_fit (b : State) (f : s.recordsFit) : (settleDrain b s).recordsFit :=
  recordsFit_congr (settleDrain_recs _ _) f

theorem cancelRequest_fit (i : Lane) (f : s.recordsFit) : (cancelRequest i s).2.recordsFit := by
  unfold cancelRequest
  split
  · exact f
  · exact settleDrain_fit s (cancelSlot_records f i)

theorem pendingExpiry_fit (i : Lane) (f : s.recordsFit) : (pendingExpiry i s).recordsFit := by
  unfold pendingExpiry
  split
  · split
    · exact settleDrain_fit s (recordsFit_congr (raiseTo_recs _ _ _) (cancelSlot_records f i))
    · exact f
  all_goals exact f

theorem lookupExpiry_fit (i : Lane) (f : s.recordsFit) : (lookupExpiry i s).recordsFit := by
  unfold lookupExpiry
  split
  · split
    · exact settleDrain_fit s (endWait_fit f i _)
    · exact f
  all_goals exact f

theorem noMemberRequest_fit (b : List Byte) (f : s.recordsFit) :
    (noMemberRequest b s).2.recordsFit := by
  unfold noMemberRequest
  generalize longAt b 0 = t
  dsimp only
  split
  · refine settleDrain_fit s ?_
    have : ∀ (l : List Lane) (v : State), v.recordsFit →
        (l.foldl (fun s' i => if s.waitsFor t i then endWait i .notFound s' else s') v).recordsFit := by
      intro l
      induction l with
      | nil => exact fun v h => h
      | cons i l ih =>
        intro v h
        refine ih _ ?_
        dsimp only
        split
        · exact endWait_fit h i _
        · exact h
    exact this lanes s f
  · exact f

/-! ## New sales (R14, R15, R32, R35, R41) -/

/-- What a sale's ticket leaves of the other records. -/
theorem writeSale_other (i : Lane) (record : Nat → Ticket) (s : State) :
    (writeSale i record s).2.track = s.track ∧ (writeSale i record s).2.gate = s.gate ∧
      kept (writeSale i record s).2 = kept s ∧ (writeSale i record s).2.places = s.places ∧
      ∀ l, (writeSale i record s).2.saleSlot l = s.saleSlot l := by
  rw [writeSale_rest i record s]
  exact ⟨rfl, rfl, rfl, rfl, fun _ => rfl⟩

/-- A new sale that stands in its lane's slot. -/
theorem newSale_records (f : s.recordsFit) (hc : s.creditsFit) {i : Lane}
    (room : s.slotRoom i = true) (q : s.laneRoom i = true) (record : Nat → Ticket)
    (hr : ∀ n, (record n).number = n) (v : SaleSlot)
    (hv : v.stands i = [(record (writeSale i record s).1).stands]) :
    (setSaleSlot i v (writeSale i record s).2).recordsFit := by
  obtain ⟨r, c, -⟩ := (recordsFit_iff s).mp f
  obtain ⟨h1, h2, h3, -, -⟩ := writeSale_other i record s
  have q' : (s.laneQueue i).length < 4 := of_decide_eq_true q
  refine recordsFit_of f (newSale_fit r hc room q' record hr v hv) (rosterFits_of c ?_ ?_) h3
  · show (writeSale i record s).2.track.roster.map Car.shape = _
    rw [h1]
  · show (writeSale i record s).2.gate.state.cls.2 = _
    rw [h2]

theorem quoteRequest_fit (i : Lane) (b : List Byte) (hc : s.creditsFit) (f : s.recordsFit) :
    (quoteRequest i b s).2.recordsFit := by
  unfold quoteRequest
  split
  · exact f
  · split
    · exact f
    · exact f
    · next base adds _ =>
      split
      · exact f
      · split
        · exact f
        · next q =>
          split
          · exact f
          · next room =>
            exact newSale_records f hc (by simpa using room) (by simpa using q) _ (fun _ => rfl) _
              rfl

theorem redeemRequest_fit (i : Lane) (b : List Byte) (hc : s.creditsFit) (f : s.recordsFit) :
    (redeemRequest i b s).2.recordsFit := by
  unfold redeemRequest
  generalize wordAt b 0 = code
  dsimp only
  split
  · exact f
  · split
    · exact f
    · split
      · exact f
      · split
        · exact f
        · next q =>
          split
          · exact f
          · next room =>
            exact newSale_records f hc (by simpa using room) (by simpa using q) _ (fun _ => rfl) _
              rfl

/-- The sale's ticket stands in the table. -/
theorem writeSale_ticket (f : s.ridersFit) (hc : s.creditsFit) {i : Lane}
    (room : s.slotRoom i = true) (record : Nat → Ticket) (hr : ∀ n, (record n).number = n) :
    (writeSale i record s).2.ticket? (writeSale i record s).1 =
      some (record (writeSale i record s).1) := by
  obtain ⟨h1, h2⟩ := writeSale_named f hc room record hr
  have hm : record (writeSale i record s).1 ∈ (writeSale i record s).2.tickets := by
    clear h1 h2
    unfold writeSale
    cases hk : s.keptTicket i with
    | some n =>
      dsimp only
      have hp : ∃ tk, s.ticket? n = some tk := by
        unfold State.keptTicket at hk
        split at hk
        · split at hk
          · next tk e =>
            split at hk
            · simp only [Option.some.injEq] at hk; exact ⟨tk, hk ▸ e⟩
            · cases hk
          · cases hk
        · cases hk
        · cases hk
      obtain ⟨tk, htk⟩ := hp
      obtain ⟨m1, m2⟩ := ticket?_mem htk
      rw [tickets_updateTicket]
      exact List.mem_map.mpr ⟨tk, m1, if_pos m2⟩
    | none =>
      have room5 : 5 ≤ s.freeSlots + (if (s.saleSlot i).ticket?.isSome then 1 else 0) := by
        have := room
        simp only [State.slotRoom, hk, Config.saleReserve, Option.isSome_none, Bool.false_or] at this
        exact of_decide_eq_true this
      dsimp only
      cases hn : (s.saleSlot i).ticket? with
      | none =>
        have room1 : (takeNumber s).2.freeSlots ≠ 0 := by
          have : (takeNumber s).2.freeSlots = s.freeSlots := rfl
          simp [hn] at room5; omega
        exact (tickets_addTicket _ room1).mem_iff.mpr List.mem_cons_self
      | some m =>
        have room1 : (takeNumber (freeTicket m s)).2.freeSlots ≠ 0 := by
          have e : (takeNumber (freeTicket m s)).2.freeSlots = (freeTicket m s).freeSlots := rfl
          have a := freeSlots_eq (freeTicket m s)
          have b := freeSlots_eq s
          have : (freeTicket m s).tickets.length ≤ s.tickets.length := by
            rw [tickets_freeTicket]; exact List.length_filter_le _ _
          simp [hn] at room5; omega
        exact (tickets_addTicket _ room1).mem_iff.mpr List.mem_cons_self
  have := ticket?_of_mem (numbers_nodup h2) hm
  rw [hr] at this
  exact this

/-- A hit's end: the ticket joins its lane queue out of the sale slot. -/
theorem finishHit_fit (f : s.recordsFit) {i : Lane} {n : Nat} {e : EntryIx} (k : Ticket)
    (hk : u.ticket? n = some k) (hs : k.stands = (n, .laneQueued, some i))
    (hu : ∀ x, u.named.count x + ((s.saleSlot i).stands i).count x =
      s.named.count x + if (n, .laneQueued, some i) = x then 1 else 0)
    (hn : u.numbersFit) (hp : u.places = s.places) (hl : ∀ l, u.saleSlot l = s.saleSlot l)
    (hg : u.gate = s.gate) (ht : u.track = s.track) (hq : kept u = kept s)
    (q : (s.laneQueue i).length < 4) : (finishHit i e n u).recordsFit := by
  obtain ⟨r, c, -⟩ := (recordsFit_iff s).mp f
  have h := joinLane_fit r hk hs hu hn hp hl hg q
  have er : riders (finishHit i e n u) = riders (setSaleSlot i .empty (joinLaneQueue i n u)) := rfl
  have cu : (setSaleSlot i .empty (joinLaneQueue i n u)).rosterFits := by
    refine rosterFits_of c ?_ ?_
    · show u.track.roster.map Car.shape = _
      rw [ht]
    · show u.gate.state.cls.2 = _
      rw [hg]
  refine recordsFit_of f (ridersFit_congr er h) (rosterFits_congr er cu) ?_
  have ek : kept (finishHit i e n u) =
      kept (setEntry e { u.entry e with stamp := some u.stamp } (joinLaneQueue i n u)) := rfl
  exact (ek.trans (setEntry_kept e _ (joinLaneQueue i n u) rfl)).trans hq

theorem tagRequest_fit (i : Lane) (b : List Byte) (hc : s.creditsFit) (f : s.recordsFit) :
    (tagRequest i b s).2.recordsFit := by
  obtain ⟨r, c, -⟩ := (recordsFit_iff s).mp f
  unfold tagRequest
  generalize longAt b 0 = t
  dsimp only
  split
  · exact f
  · split
    · exact f
    · next q =>
      split
      · exact f
      · next room =>
        have q' : s.laneRoom i = true := by simpa using q
        have room' : s.slotRoom i = true := by simpa using room
        split
        · next e _ =>
          split
          · exact f
          · have hr : ∀ n, (memberTicket s i (s.entry e) t n).number = n := fun _ => rfl
            obtain ⟨h1, h2⟩ := writeSale_named r hc room' _ hr
            obtain ⟨w1, w2, w3, w4, w5⟩ := writeSale_other i (memberTicket s i (s.entry e) t) s
            exact finishHit_fit f _ (writeSale_ticket r hc room' _ hr) rfl h1 h2 w4 w5 w2 w1 w3
              (of_decide_eq_true q')
        · exact recordsFit_congr (raiseTo_recs _ _ _)
            (newSale_records f hc room' q' (lookupTicket i t) (fun _ => rfl) _ rfl)

/-! ## PAY (R17) -/

/-- The ticket of a lane's sale slot. -/
theorem slot_ticket (f : s.ridersFit) {i : Lane} {n : Nat} (h : (s.saleSlot i).ticket? = some n) :
    ∃ k st, s.ticket? n = some k ∧ k.stands = (n, st, some i) ∧
      (s.saleSlot i).stands i = [(n, st, some i)] := by
  obtain ⟨st, hs⟩ := stands_ticket h
  obtain ⟨k, h1, h2⟩ :=
    standing f (slot_mem (i := i) (by rw [hs]; exact List.mem_singleton.mpr rfl))
  exact ⟨k, st, h1, h2, hs⟩

theorem slot_room (f : s.ridersFit) {i : Lane} {n : Nat} (h : (s.saleSlot i).ticket? = some n) :
    (s.laneQueue i).length < 4 := by
  obtain ⟨st, hs⟩ := stands_ticket h
  have := f.2.2.2.1 i
  rw [hs] at this
  simp only [List.length_singleton] at this
  omega

/-- What PAY ends with, whatever else it writes. -/
theorem paid_fit (f : s.recordsFit) {i : Lane} {n : Nat} (h : (s.saleSlot i).ticket? = some n)
    {k : Ticket} (hk : u.ticket? n = some k) (hs : ∀ k', s.ticket? n = some k' → k.stands = k'.stands)
    (hu : u.named = s.named) (hn : u.numbersFit) (hp : u.places = s.places)
    (hl : ∀ l, u.saleSlot l = s.saleSlot l) (hg : u.gate = s.gate) (ht : u.track = s.track)
    (hq : kept u = kept s) : (setSaleSlot i .empty (joinLaneQueue i n u)).recordsFit := by
  obtain ⟨r, c, -⟩ := (recordsFit_iff s).mp f
  obtain ⟨k', st, h1, h2, h3⟩ := slot_ticket r h
  refine recordsFit_of f (joinLane_fit r hk ((hs k' h1).trans h2) (fun x => ?_) hn hp hl hg
    (slot_room r h)) (rosterFits_of c ?_ ?_) hq
  · rw [hu, h3, count_singleton']
  · show u.track.roster.map Car.shape = _
    rw [ht]
  · show u.gate.state.cls.2 = _
    rw [hg]

theorem payRequest_fit (i : Lane) (b : List Byte) (f : s.recordsFit) :
    (payRequest i b s).2.recordsFit := by
  obtain ⟨r, c, -⟩ := (recordsFit_iff s).mp f
  unfold payRequest
  split
  · exact f
  · split
    · exact f
    · exact f
    · next n lines tm names hslot =>
      split
      · exact f
      · next t ht =>
        have h : (s.saleSlot i).ticket? = some n := by rw [hslot]; rfl
        have same : ∀ k', s.ticket? n = some k' → t.stands = k'.stands :=
          fun k' e => congrArg _ (Option.some.inj (ht.symm.trans e))
        dsimp only
        split
        · -- a redemption
          have base : ∀ v : State, v = s ∨ (∃ code, v = removeCredit code s) →
              (setSaleSlot i .empty (joinLaneQueue i n v)).recordsFit ∧ ∀ row,
              (setSaleSlot i .empty (joinLaneQueue i n (countRow row 0 v))).recordsFit := by
            intro v hv
            rcases hv with rfl | ⟨code, rfl⟩
            · exact ⟨paid_fit f h ht same rfl r.2.1 rfl (fun _ => rfl) rfl rfl rfl, fun row =>
                paid_fit (u := countRow row 0 v) f h ht same rfl r.2.1 rfl (fun _ => rfl) rfl rfl
                  rfl⟩
            · have hn := removeCredit_numbers code r.2.1
              exact ⟨paid_fit (u := removeCredit code s) f h ht same rfl hn rfl (fun _ => rfl) rfl
                rfl rfl, fun row => paid_fit (u := countRow row 0 (removeCredit code s)) f h ht same
                  rfl hn rfl (fun _ => rfl) rfl rfl rfl⟩
          cases names with
          | none =>
            obtain ⟨b1, b2⟩ := base s (Or.inl rfl)
            cases t.baseRow with
            | none => exact b1
            | some row => exact b2 row
          | some code =>
            obtain ⟨b1, b2⟩ := base (removeCredit code s) (Or.inr ⟨code, rfl⟩)
            cases t.baseRow with
            | none => exact b1
            | some row => exact b2 row
        · -- a sale
          have hnum : ∀ k : Ticket, ({ k with receipt := some (longAt b 0) } : Ticket).number =
            k.number := fun _ => rfl
          generalize hv : updateTicket n (fun t => { t with receipt := some (longAt b 0) }) s = v
          have hvn : v.named = s.named := by
            rw [← hv]
            unfold State.named
            rw [tickets_updateTicket, List.map_map]
            apply List.map_congr_left
            intro k _
            simp only [Function.comp_apply]
            split <;> rfl
          have hvt : v.ticket? n = some { t with receipt := some (longAt b 0) } := by
            rw [← hv, ticket?_updateTicket _ _ hnum, ht]; rfl
          have hvf : v.numbersFit := by
            rw [← hv]
            apply held_sub _ r.2.1
            rw [held_updateTicket n _ (fun k e => (hnum k).trans e)]
          obtain ⟨x, hx⟩ := countRows_totals (t.baseRow.toList ++ t.addOns) lines v
          rw [hx]
          refine paid_fit (u := { v with sales := { v.sales with totals := x } }) f h hvt same hvn
            hvf ?_ ?_ ?_ ?_ ?_
          · rw [← hv]; rfl
          · intro l; rw [← hv]; rfl
          · rw [← hv]; rfl
          · rw [← hv]; rfl
          · rw [← hv]; rfl

/-! ## The end of a lookup wait (R36) -/

theorem completeWait_fit (e : EntryIx) (i : Lane) (f : s.recordsFit) :
    (completeWait e s i).recordsFit := by
  obtain ⟨r, c, -⟩ := (recordsFit_iff s).mp f
  unfold completeWait
  split
  · next n t tm hslot =>
    split
    · split
      · exact endWait_fit f i _
      · refine recordsFit_congr (raiseTo_recs _ _ _) ?_
        have h : (s.saleSlot i).ticket? = some n := by rw [hslot]; rfl
        obtain ⟨k, st, h1, h2, h3⟩ := slot_ticket r h
        generalize hrec : memberTicket s i (s.entry e) t n = rec
        have hrn : rec.number = n := by rw [← hrec]; rfl
        have hrs : rec.stands = (n, .laneQueued, some i) := by rw [← hrec]; rfl
        have hf : (updateTicket n (fun _ => rec) s).numbersFit := by
          apply held_sub _ r.2.1
          rw [held_updateTicket n _ (fun _ _ => hrn)]
        have hm : rec ∈ (updateTicket n (fun _ => rec) s).tickets := by
          rw [tickets_updateTicket]
          exact List.mem_map.mpr ⟨k, (ticket?_mem h1).1, if_pos (ticket?_mem h1).2⟩
        have hk := ticket?_of_mem (numbers_nodup hf) hm
        rw [hrn] at hk
        refine finishHit_fit f rec hk hrs (fun x => ?_) hf rfl (fun _ => rfl) rfl rfl rfl
          (slot_room r h)
        have := named_updateTicket (fun _ => rec) (numbers_nodup r.2.1) h1 x
        rw [h3, count_singleton', ← h2, ← hrs]
        exact this
    · exact f
  all_goals exact f

theorem completeWaits_fit (e : EntryIx) (f : s.recordsFit) : (completeWaits e s).recordsFit := by
  have : ∀ (l : List Lane) (v : State), v.recordsFit → (l.foldl (completeWait e) v).recordsFit := by
    intro l
    induction l with
    | nil => exact fun v h => h
    | cons i l ih => exact fun v h => ih _ (completeWait_fit e i h)
  exact this lanes s f

theorem dropCreditRequest_fit (b : List Byte) (f : s.recordsFit) :
    (dropCreditRequest b s).2.recordsFit := by
  unfold dropCreditRequest
  generalize wordAt b 0 = code
  dsimp only
  split
  · exact f
  · split
    · exact f
    · exact dropCredit_fit code f

end Sys2Proof.Machine
end

