-- ==== Sys2Proof/Laws/StoreMoves.lean ====
section
/-!
SUPPORT. The member table, the settings, the store and the device reset keep the records fit.
-/

namespace Sys2Proof.Machine

variable {s t : State}

/-- A change of the member entries and stored records that fits. -/
theorem recordsFit_kept (f : s.recordsFit) (h : riders t = riders s) (k : t.keptFits) :
    t.recordsFit := by
  obtain ⟨r, c, -⟩ := (recordsFit_iff s).mp f
  exact (recordsFit_iff t).mpr ⟨ridersFit_congr h r, rosterFits_congr h c, k⟩

/-! ## The member table (R26 to R30) -/

theorem entry_setEntry (j k : EntryIx) (e : MemberEntry) (s : State) :
    (setEntry k e s).entry j = if k = j then e else s.entry j := by
  exact vset_get _ _ _ _

/-- R28 step 5: a load that overlaps no valid entry keeps the entries apart. -/
theorem place_entry (f : s.membersFit) (k : EntryIx) (a : LoadArgs)
    (h : entryIxs.any (fun k => (s.entry k).overlaps a.base a.order) = false) :
    (setEntry k a.entry s).membersFit := by
  have hno : ∀ j, (s.entry j).valid = true →
      (s.entry j).base.toNat + 2 ^ (s.entry j).order ≤ a.base.toNat ∨
        a.base.toNat + 2 ^ a.order ≤ (s.entry j).base.toNat := by
    intro j hv
    have := List.any_eq_false.mp h j (List.mem_finRange j)
    simp only [MemberEntry.overlaps, rangeSize, hv, Bool.true_and, Bool.and_eq_true, not_and] at this
    by_cases h1 : (s.entry j).base.toNat < a.base.toNat + 2 ^ a.order
    · exact Or.inl (Nat.not_lt.mp fun h2 => this (decide_eq_true h1) (decide_eq_true h2))
    · exact Or.inr (Nat.not_lt.mp h1)
  intro i j hij
  rw [entry_setEntry, entry_setEntry]
  by_cases h1 : k = i
  · have h2 : k ≠ j := fun e => hij (h1.symm.trans e)
    rw [if_pos h1, if_neg h2]
    intro _ hv
    exact (hno j hv).symm
  · by_cases h2 : k = j
    · rw [if_neg h1, if_pos h2]
      intro hv _
      exact hno i hv
    · rw [if_neg h1, if_neg h2]
      exact f i j hij

theorem loadMemberRequest_fit (b : List Byte) (f : s.recordsFit) :
    (loadMemberRequest b s).2.recordsFit := by
  unfold loadMemberRequest
  split
  · exact f
  · next a _ =>
    have done : ∀ k (v : State), v.recordsFit → (loaded s k v).2.recordsFit :=
      fun k v h => settleDrain_fit s (completeWaits_fit k h)
    split
    · exact f
    · split
      · exact f
      · split
        · next k _ =>
          exact done k _ (recordsFit_kept f rfl
            (keptFits_congr (setEntry_kept k { s.entry k with row := a.row, status := a.status } s rfl)
              ((recordsFit_iff s).mp f).2.2))
        · split
          · exact f
          · next hno =>
            split
            · exact f
            · next k up _ =>
              have hk : (setEntry k a.entry s).recordsFit :=
                recordsFit_kept f rfl ⟨place_entry ((recordsFit_iff s).mp f).2.2.1 k a
                  (by simpa using hno), ((recordsFit_iff s).mp f).2.2.2⟩
              dsimp only
              split
              · exact done k _ (recordsFit_congr rfl hk)
              · exact done k _ hk

theorem dropMemberRequest_fit (b : List Byte) (f : s.recordsFit) :
    (dropMemberRequest b s).2.recordsFit := by
  unfold dropMemberRequest
  split
  · exact f
  · next k _ =>
    split
    · exact f
    · obtain ⟨-, -, m, st⟩ := (recordsFit_iff s).mp f
      refine recordsFit_kept (t := setEntry k { s.entry k with valid := false } s) f rfl ⟨?_, st⟩
      intro i j hij
      rw [entry_setEntry, entry_setEntry]
      by_cases h1 : k = i
      · rw [if_pos h1]; intro hv; cases hv
      · by_cases h2 : k = j
        · rw [if_neg h1, if_pos h2]; intro _ hv; cases hv
        · rw [if_neg h1, if_neg h2]; exact m i j hij

theorem setWiredRequest_fit (b : List Byte) (f : s.recordsFit) :
    (setWiredRequest b s).2.recordsFit := by
  unfold setWiredRequest
  split
  · exact f
  · exact recordsFit_congr rfl f

/-! ## SET TIMING (R68) -/

theorem setTimingRequest_fit (b : List Byte) (f : s.recordsFit) :
    (setTimingRequest b s).2.recordsFit := by
  unfold setTimingRequest
  split
  · exact f
  · next t ht =>
    split
    · exact f
    · have hv : t.valid = true := by
        unfold parseTiming at ht
        split at ht
        · cases ht
        · dsimp only at ht
          split at ht
          · next h =>
            simp only [Bool.and_eq_true] at h
            rw [← Option.some.inj ht]; exact h.1
          · cases ht
      have hg : 10 ≤ t.minGap ∧ t.minGap ≤ 500 := by
        simp only [Timing.valid, Bool.and_eq_true, inRange, decide_eq_true_eq] at hv
        omega
      obtain ⟨-, -, m, st⟩ := (recordsFit_iff s).mp f
      have h1 : State.recordsFit { s with settings := { s.settings with timing := t } } :=
        recordsFit_kept f rfl ⟨m, hg, st.2⟩
      dsimp only
      split
      · exact h1
      · exact settleDrain_fit s (recordsFit_congr (evalIfPaceMoved_recs _ _) h1)

/-! ## The store (R166 to R171) -/

/-- R169: the copy of a save fits. -/
theorem copySettings_fits (f : s.keptFits) : s.copySettings.fits := by
  refine ⟨f.2.1, ?_⟩
  show ((entryIxs.take s.settings.wired).map (fun k => (s.entry k).stored k)).Pairwise _
  refine List.pairwise_map.mpr ?_
  have nd : (entryIxs.take s.settings.wired).Nodup :=
    (List.take_sublist _ _).nodup (List.nodup_finRange 48)
  exact List.Pairwise.imp (fun {i j} h => f.1 i j h) nd

theorem saveRequest_fit (f : s.recordsFit) : (saveRequest s).2.recordsFit := by
  unfold saveRequest
  split
  · exact f
  · obtain ⟨-, -, k⟩ := (recordsFit_iff s).mp f
    refine recordsFit_kept f rfl ⟨k.1, k.2.1, k.2.2.1, ?_⟩
    intro j hj
    rw [← Option.some.inj hj]
    exact copySettings_fits k

theorem spoilRow_recs (j : SaveJob) (s : State) : recs (spoilRow j s) = recs s := by
  unfold spoilRow; split <;> rfl

theorem rowWritten_fit (agrees : Bool) (f : s.recordsFit) : (rowWritten agrees s).recordsFit := by
  obtain ⟨-, -, k⟩ := (recordsFit_iff s).mp f
  unfold rowWritten
  split
  · exact f
  · next j hj =>
    have hc := k.2.2.2 j hj
    split
    · unfold rowAgrees
      split
      · refine recordsFit_kept f rfl ⟨k.1, k.2.1, k.2.2.1, ?_⟩
        intro j' hj'
        rw [← Option.some.inj hj']
        exact hc
      · refine recordsFit_kept f rfl ⟨k.1, k.2.1, k.2.2.1, ?_⟩
        intro j' hj'
        rw [← Option.some.inj hj']
        exact hc
      · refine recordsFit_congr (raiseTo_recs _ _ _)
          (recordsFit_kept f rfl ⟨k.1, k.2.1, hc, ?_⟩)
        intro j' hj'
        cases hj'
    · unfold failSave
      refine recordsFit_congr (raiseTo_recs _ _ _) ?_
      have h1 : (spoilRow j s).recordsFit := recordsFit_congr (spoilRow_recs j s) f
      obtain ⟨-, -, k1⟩ := (recordsFit_iff _).mp h1
      refine recordsFit_kept h1 rfl ⟨k1.1, k1.2.1, k1.2.2.1, ?_⟩
      intro j' hj'
      cases hj'

/-! ## Device reset (R167) -/

/-- R167: the entries after start-up: each is invalid or a stored one, at its own index. -/
theorem startEntries (l : List StoredEntry) : ∀ v : Vector MemberEntry 48,
    (∀ k : EntryIx, v[k].valid = false) →
    l.Pairwise (fun a b => Apart a.valid b.valid a.base b.base a.order b.order) →
    ∀ j k : EntryIx, j ≠ k →
      Apart (l.foldl (fun v e => vset v e.index e.load) v)[j].valid
        (l.foldl (fun v e => vset v e.index e.load) v)[k].valid
        (l.foldl (fun v e => vset v e.index e.load) v)[j].base
        (l.foldl (fun v e => vset v e.index e.load) v)[k].base
        (l.foldl (fun v e => vset v e.index e.load) v)[j].order
        (l.foldl (fun v e => vset v e.index e.load) v)[k].order := by
  -- what stands at an index is what stood there, or a stored entry of that index
  have split : ∀ (l : List StoredEntry) (v : Vector MemberEntry 48) (k : EntryIx),
      (l.foldl (fun v e => vset v e.index e.load) v)[k] = v[k] ∨
        ∃ e ∈ l, e.index = k ∧ (l.foldl (fun v e => vset v e.index e.load) v)[k] = e.load := by
    intro l
    induction l with
    | nil => exact fun v k => Or.inl rfl
    | cons a l ih =>
      intro v k
      rcases ih (vset v a.index a.load) k with h | ⟨e, h1, h2, h3⟩
      · rw [List.foldl_cons, h, vset_get]
        by_cases e : a.index = k
        · rw [if_pos e]
          exact Or.inr ⟨a, List.mem_cons_self, e, rfl⟩
        · rw [if_neg e]
          exact Or.inl rfl
      · exact Or.inr ⟨e, List.mem_cons_of_mem _ h1, h2, h3⟩
  intro v hv hl j k hjk
  rcases split l v j with h1 | ⟨a, ha, haj, h1⟩
  · rw [h1]; intro h; rw [hv j] at h; cases h
  · rcases split l v k with h2 | ⟨b, hb, hbk, h2⟩
    · rw [h2]; intro _ h; rw [hv k] at h; cases h
    · rw [h1, h2]
      have hab : a ≠ b := fun e => hjk (by rw [← haj, ← hbk, e])
      have sym : ∀ x y : StoredEntry, Apart x.valid y.valid x.base y.base x.order y.order →
          Apart y.valid x.valid y.base x.base y.order x.order :=
        fun x y h h3 h4 => (h h4 h3).symm
      exact List.Pairwise.forall_of_forall_of_flip
        (R := fun x y => x ≠ y → Apart x.valid y.valid x.base y.base x.order y.order)
        (fun x _ h => absurd rfl h) (List.Pairwise.imp (S := fun x y : StoredEntry => x ≠ y →
          Apart x.valid y.valid x.base y.base x.order y.order) (fun {x y} h _ => h) hl)
        (List.Pairwise.imp (S := flip fun x y : StoredEntry => x ≠ y →
          Apart x.valid y.valid x.base y.base x.order y.order) (fun {x y} h _ => sym x y h) hl)
        ha hb hab

/-- The tickets' and the roster's parts see nothing of a fresh part. -/
theorem fresh_fits : State.reset.ridersFit ∧ State.reset.rosterFits := by
  decide

/-- R167: the member table and the stored records after start-up. -/
theorem resetRecords_fit (f : s.keptFits) : (resetRecords s).recordsFit := by
  have hb : ∀ t : State, t.sales = State.reset.sales → t.credits = State.reset.credits →
      t.gate = State.reset.gate → t.track = State.reset.track → riders t = riders State.reset := by
    intro t h1 h2 h3 h4
    simp only [riders, State.saleSlot, h1, h2, h3, h4]
  have mk : ∀ t : State, riders t = riders State.reset → t.keptFits → t.recordsFit :=
    fun t h k => (recordsFit_iff t).mpr
      ⟨ridersFit_congr h fresh_fits.1, rosterFits_congr h fresh_fits.2, k⟩
  have img : (startStore s.store).image = s.store.image := rfl
  have sv : (startStore s.store).save = none := rfl
  unfold resetRecords
  dsimp only
  split
  · refine mk _ (hb _ rfl rfl rfl rfl) ⟨?_, f.2.2.1.1, f.2.2.1, fun j hj => by cases hj⟩
    exact startEntries s.store.image.wired _ (fun k => by simp [MemberEntry.clear]) f.2.2.1.2
  · refine mk _ (hb _ rfl rfl rfl rfl) ⟨?_, ?_, f.2.2.1, fun j hj => by cases hj⟩
    · intro j k _ h
      have : (MemberEntry.clear).valid = false := rfl
      have e : ((Vector.replicate 48 MemberEntry.clear)[j]).valid = true := h
      simp [MemberEntry.clear] at e
    · exact (show 10 ≤ SiteSettings.default.timing.minGap ∧
        SiteSettings.default.timing.minGap ≤ 500 by decide)

theorem deviceReset_fit (f : s.recordsFit) : (deviceReset s).recordsFit := by
  have h0 : (abandonSave s).recordsFit := by
    unfold abandonSave
    split
    · exact f
    · exact recordsFit_congr (spoilRow_recs _ _) f
  have h1 := resetRecords_fit ((recordsFit_iff _).mp h0).2.2
  unfold deviceReset
  dsimp only
  refine recordsFit_congr (raiseAll_recs _ _) (recordsFit_congr (testMismatch_recs _) ?_)
  exact recordsFit_congr (recs_foldl (fun s j => startMachine_recs j s) _ _)
    (recordsFit_congr (startCauses_recs _) h1)

end Sys2Proof.Machine
end

