-- ==== Sys2Proof/Laws/Fits.lean ====
section
/-!
SUPPORT. Every request that the link serves, and every event that no request brings, keeps the records
fit.
-/

namespace Sys2Proof.Machine

variable {s t : State}

/-! ## Requests -/

theorem serveLane_fit (i : Lane) (k : RequestKind) (b : List Byte) (hc : s.creditsFit)
    (f : s.recordsFit) : (serveLane i k b s).2.recordsFit := by
  unfold serveLane
  split
  · exact quoteRequest_fit i b hc f
  · exact payRequest_fit i b f
  · exact cancelRequest_fit i f
  · exact tagRequest_fit i b hc f
  · exact redeemRequest_fit i b hc f
  · exact f
  · exact f

/-- A request that leaves the records alone. -/
theorem recs_fit (f : s.recordsFit) (h : recs t = recs s) : t.recordsFit := recordsFit_congr h f

theorem haltRequest_fit (p : Port) (f : s.recordsFit) : (haltRequest p s).2.recordsFit :=
  settleHalted_fit s (recordsFit_congr (raiseCause_recs _ _ _) f)

theorem carryOutResume_fit (f : s.recordsFit) : (carryOutResume s).recordsFit := by
  have h : recs ({ endJog s with halt := { (endJog s).halt with causes := s.heldCauses } } : State) =
    recs s := rfl
  unfold carryOutResume
  dsimp only
  refine settle_fit s (fixTailgated_fit (recordsFit_congr (setHalt_recs _ _) ?_))
  split
  · exact recordsFit_congr (closeEpisode_recs _ _) (recordsFit_congr h f)
  · exact recordsFit_congr h f

theorem resumeRequest_fit (f : s.recordsFit) : (resumeRequest s).2.recordsFit := by
  unfold resumeRequest
  split
  · exact f
  · have h := carryOutResume_fit f
    dsimp only
    exact h

theorem setStationRequest_fit (b : List Byte) (f : s.recordsFit) :
    (setStationRequest b s).2.recordsFit := by
  have h : ∀ j st, (settleHalted s (writeStation j st s)).recordsFit := fun j st =>
    settleHalted_fit s (recordsFit_congr (writeStation_recs j st s) f)
  unfold setStationRequest
  split
  · exact f
  · split
    · exact f
    · next j st _ =>
      have h := h j st
      split
      · exact f
      · split
        · exact f
        · dsimp only
          exact h

theorem openRequest_fit (f : s.recordsFit) : (openRequest s).2.recordsFit := by
  have h : (settle s (retestDemand { s with mode := .openMode })).recordsFit :=
    settle_fit s (recordsFit_congr (retestDemand_recs _) (recordsFit_congr rfl f))
  unfold openRequest
  split
  all_goals first | exact h | exact f

theorem closeRequest_fit (f : s.recordsFit) : (closeRequest s).2.recordsFit := by
  have h : (settleDrain s { s with mode := .draining }).recordsFit :=
    settleDrain_fit s (recordsFit_congr rfl f)
  unfold closeRequest
  split
  all_goals first | exact h | exact f

/-- R180: what a block serves. -/
theorem serve_fit (p : Port) (k : RequestKind) (b : List Byte) (hc : s.creditsFit)
    (f : s.recordsFit) : (serve p k b s).2.recordsFit := by
  have lane : (match p with
      | .lane i => serveLane i k b s
      | .console => (refuse .notPermitted, s)
      | .site => (refuse .notPermitted, s)).2.recordsFit := by
    cases p with
    | lane i => exact serveLane_fit i k b hc f
    | console => exact f
    | site => exact f
  cases k
  case quote => exact lane
  case pay => exact lane
  case cancel => exact lane
  case tag => exact lane
  case redeem => exact lane
  case laneStatus => exact lane
  case halt => exact haltRequest_fit p f
  case resume => exact resumeRequest_fit f
  case removeCar => exact removeCarRequest_fit b f
  case gateDecide => exact gateDecideRequest_fit b hc f
  case place => exact placeRequest_fit b f
  case setTiming => exact setTimingRequest_fit b f
  case setStation => exact setStationRequest_fit b f
  case loadMember => exact loadMemberRequest_fit b f
  case dropMember => exact dropMemberRequest_fit b f
  case noMember => exact noMemberRequest_fit b f
  case setWired => exact setWiredRequest_fit b f
  case dropCredit => exact dropCreditRequest_fit b f
  case openTunnel => exact openRequest_fit f
  case close => exact closeRequest_fit f
  case save => exact saveRequest_fit f
  case readStatus => exact f
  case readHaltHistory => exact f
  case readConveyor => exact f
  case clearTotals => exact recs_fit f rfl
  case takeNotice => show (takeNoticeRequest p s).2.recordsFit
                     unfold takeNoticeRequest
                     split
                     · exact f
                     · exact recs_fit f rfl
  case setMask => show (setMaskRequest p b s).2.recordsFit
                  unfold setMaskRequest
                  dsimp only
                  split
                  · exact recs_fit f rfl
                  · exact f
  case readTicket => show (readTicketRequest b s).2.recordsFit
                     unfold readTicketRequest
                     split <;> exact f
  case confirmRoster => show (confirmRosterRequest s).2.recordsFit
                        unfold confirmRosterRequest
                        split
                        · exact recs_fit f rfl
                        · exact f
  case jog => show (jogRequest b s).2.recordsFit
              unfold jogRequest
              repeat' split
              all_goals exact f
  case jogStop => show (jogStopRequest s).2.recordsFit
                  unfold jogStopRequest
                  split
                  · exact f
                  · exact recs_fit f rfl
  case readRoster => show (readRosterRequest b s).2.recordsFit
                     unfold readRosterRequest
                     dsimp only
                     split <;> exact f
  case readStation => show (readStationRequest b s).2.recordsFit
                      unfold readStationRequest
                      split <;> exact f
  case setRow => show (setRowRequest b s).2.recordsFit
                 unfold setRowRequest
                 repeat' split
                 all_goals exact f
  case setMenu => show (setMenuRequest b s).2.recordsFit
                  unfold setMenuRequest
                  repeat' split
                  all_goals exact f
  case setPeriod => show (setPeriodRequest b s).2.recordsFit
                    unfold setPeriodRequest
                    repeat' split
                    all_goals exact f
  case setClock => show (setClockRequest b s).2.recordsFit
                   unfold setClockRequest
                   split
                   · exact recs_fit f rfl
                   · exact f
  case setSpeedSteps => show (setSpeedStepsRequest b s).2.recordsFit
                        unfold setSpeedStepsRequest
                        repeat' split
                        all_goals exact f
  case setGeometry => show (setGeometryRequest b s).2.recordsFit
                      unfold setGeometryRequest
                      repeat' split
                      all_goals exact f
  case readMembers => show (readMembersRequest b s).2.recordsFit
                      unfold readMembersRequest
                      split <;> exact f
  case readCredits => show (readCreditsRequest b s).2.recordsFit
                      unfold readCreditsRequest
                      dsimp only
                      split <;> exact f
  case readTotals => show (readTotalsRequest b s).2.recordsFit
                     unfold readTotalsRequest
                     split <;> exact f

/-- R180: a judged frame. -/
theorem judge_fit (p : Port) (x : Frame) (hc : s.creditsFit) (f : s.recordsFit) :
    (judge p x s).2.recordsFit := by
  unfold judge
  split
  · exact f
  · split
    · exact f
    · split
      · exact f
      · split
        · exact f
        · exact serve_fit p _ _ hc f

theorem takeFrame_fit (p : Port) (x : Frame) (hc : s.creditsFit) (f : s.recordsFit) :
    (takeFrame p x s).recordsFit :=
  recordsFit_congr (setPort_recs _ _ _) (judge_fit p x hc f)

theorem receiveFrame_fit (p : Port) (x : Frame) (hc : s.creditsFit) (f : s.recordsFit) :
    (receiveFrame p x s).recordsFit := by
  have fh : (hunt p s).recordsFit := recs_fit f rfl
  have ch : (hunt p s).creditsFit := hc
  unfold receiveFrame
  split
  · exact f
  · unfold handleFrame
    split
    · exact takeFrame_fit p x ch fh
    · split
      · exact recordsFit_congr (setPort_recs _ _ _) fh
      · exact fh

/-! ## Events -/

theorem receiveByte_fit (p : Port) (b : Byte) (hc : s.creditsFit) (f : s.recordsFit) :
    (receiveByte p b s).recordsFit := by
  have fh : (hunt p s).recordsFit := recs_fit f rfl
  have keep : ∀ l, (keepBytes p l s).recordsFit := fun l => recs_fit f rfl
  unfold receiveByte
  split
  · exact f
  · split
    · split
      · exact keep _
      · exact f
    · unfold growFrame
      dsimp only
      split
      · exact fh
      · split
        · split
          · exact receiveFrame_fit p _ hc f
          · exact fh
        · exact keep _

theorem replyDone_fit (p : Port) (hc : s.creditsFit) (f : s.recordsFit) :
    (replyDone p s).recordsFit := by
  unfold replyDone
  split
  · exact f
  · split
    · next x _ =>
      have fh : (setHeld p none s).recordsFit := recs_fit f rfl
      have ch : (setHeld p none s).creditsFit := hc
      exact takeFrame_fit p x ch fh
    · exact recs_fit f rfl

theorem gapExpiry_fit (p : Port) (f : s.recordsFit) : (gapExpiry p s).recordsFit := by
  unfold gapExpiry
  split
  · exact recs_fit f rfl
  · exact f

theorem portReset_fit (p : Port) (f : s.recordsFit) : (portReset p s).recordsFit := by
  unfold portReset
  split
  · exact f
  · generalize hv : s.setPort p _ = v
    have fv : v.recordsFit := by rw [← hv]; exact recs_fit f (setPort_recs _ _ _)
    unfold cancelAtReset
    split
    · exact settleDrain_fit _ (cancelSlot_records fv _)
    · exact fv
    · exact fv

theorem execOffer_fit (f : s.recordsFit) : (testPark s (testIdle s)).recordsFit :=
  recordsFit_congr (testPark_recs _ _) (testIdle_fit f)

theorem enterLockout_fit (f : s.recordsFit) : (enterLockout s).recordsFit := by
  unfold enterLockout
  dsimp only
  refine settle_fit s (recordsFit_congr (stationsHaltChange_recs _ _ _)
    (recordsFit_congr (testDemand_recs _) (recs_fit f rfl)))

theorem mismatchExpiry_fit (f : s.recordsFit) : (mismatchExpiry s).recordsFit := by
  unfold mismatchExpiry
  split
  · split
    · exact recs_fit f rfl
    · exact enterLockout_fit f
  · exact f

theorem chainOpens_fit (f : s.recordsFit) : (chainOpens s).recordsFit := by
  unfold chainOpens
  dsimp only
  refine settle_fit s (recordsFit_congr (raiseCause_recs _ _ _)
    (recordsFit_congr (testMismatch_recs _) (recordsFit_congr (retestDemand_recs _) ?_)))
  exact recs_fit f rfl

theorem chainCloses_fit (f : s.recordsFit) : (chainCloses s).recordsFit := by
  unfold chainCloses
  refine settle_fit s (recordsFit_congr (testMismatch_recs _)
    (recordsFit_congr (retestDemand_recs _) ?_))
  exact recs_fit f rfl

theorem warnExpiry_fit (f : s.recordsFit) : (warnExpiry s).recordsFit := by
  unfold warnExpiry
  split
  · exact settle_fit s (recs_fit f rfl)
  · exact f

theorem restExpiry_fit (f : s.recordsFit) : (restExpiry s).recordsFit := by
  unfold restExpiry
  split
  · refine settle_fit s (recordsFit_congr (testDemand_recs _)
      (recordsFit_congr (evalIfPaceMoved_recs _ _) ?_))
    exact recs_fit f rfl
  · exact f

theorem stallExpiry_fit (f : s.recordsFit) : (stallExpiry s).recordsFit := by
  unfold stallExpiry
  split
  · refine settleHalted_fit s (recordsFit_congr (raiseCause_recs _ _ _) ?_)
    exact recs_fit f rfl
  · exact f

theorem parkExpiry_fit (f : s.recordsFit) : (parkExpiry s).recordsFit := by
  unfold parkExpiry
  split
  · refine settle_fit s (recordsFit_congr (retestDemand_recs _) ?_)
    exact recs_fit f rfl
  · exact f

theorem switchOpens_fit (c : Channel) (f : s.recordsFit) : (switchOpens c s).recordsFit := by
  have fs : (setStowed c false s).recordsFit := recs_fit f rfl
  unfold switchOpens
  split
  · exact settleHalted_fit s (recordsFit_congr (armOpens_recs _ _) fs)
  · exact fs

theorem advanceExpiry_fit (j : StationIx) (f : s.recordsFit) : (advanceExpiry j s).recordsFit := by
  unfold advanceExpiry
  split
  · split
    · exact recs_fit f rfl
    · exact settleHalted_fit s (recordsFit_congr (faultArm_recs _ _)
        (recordsFit_congr (markAll_recs _ _ _ _) f))
  · exact f

theorem withdrawExpiry_fit (j : StationIx) (f : s.recordsFit) :
    (withdrawExpiry j s).recordsFit := by
  unfold withdrawExpiry
  split
  · exact settleHalted_fit s (recordsFit_congr (faultArm_recs _ _) f)
  · exact f

theorem sample_fit (c : Channel) (n : Nat) (f : s.recordsFit) : (sample c n s).recordsFit := by
  unfold sample
  dsimp only
  split
  · exact recs_fit f rfl
  · split
    · refine settleHalted_fit s (recordsFit_congr (testTrip_recs _ _) ?_)
      exact recs_fit f rfl
    · exact recs_fit f rfl

theorem jogExpiry_fit (f : s.recordsFit) : (jogExpiry s).recordsFit := by
  unfold jogExpiry
  split
  · exact f
  · split
    · exact recs_fit f rfl
    · exact f

theorem minuteExpiry_fit (f : s.recordsFit) : (minuteExpiry s).recordsFit := by
  unfold minuteExpiry
  split
  · exact recs_fit f rfl
  · exact f

/-- The queue is none of the records. -/
theorem pending_fit (l : List Instr) (f : s.recordsFit) : State.recordsFit { s with pending := l } :=
  recs_fit f rfl

end Sys2Proof.Machine
end

