-- ==== Sys2Proof/Laws/Frames.lean ====
section
/-!
SUPPORT. Frames that many commands share: a request row is the arrival of its frame; the reactions
to a command leave the store, the settings, the inputs and the queue alone; a request at one lane
port leaves the other lanes' records alone.
-/

namespace Sys2Proof.Machine

/-! ## Request rows as frames -/

theorem exec_frame {c : Instr} {p : Port} {f : Frame} (h : frameOf c = some (p, f)) (s : State) :
    exec c s = done (receiveFrame p f s) := by
  cases c <;> simp only [frameOf, Option.some.injEq, Prod.mk.injEq, reduceCtorEq] at h <;>
    obtain ⟨rfl, rfl⟩ := h <;> rfl

theorem exec_taken {c : Instr} {p : Port} {f : Frame} {s : State} (h : frameOf c = some (p, f))
    (hb : f.body.length ≤ 60) (ht : s.takes p) :
    exec c s = done (takeFrame p f (hunt p s)) := by
  rw [exec_frame h, receiveFrame_taken ht hb]

/-! ## The attention lines -/

theorem out_attention (t : State) (p : Port) : ((outputsOf t).attention[p.index] = true ↔
      ∃ n ∈ (t.port p).notices, (t.port p).mask.getLsbD n.kind = false) := by
  have : (outputsOf t).attention[p.index] = !(t.port p).unmasked.isEmpty := by
    simp [outputsOf, State.port, vmap_getElem]
  rw [this]
  simp [PortState.unmasked, Set16.has]

/-! ## What reactions leave alone -/

/-- The records that no reaction to a command writes: the command that owns one writes it. -/
def outer (s : State) :=
  (s.store, s.settings, s.pending, s.free, s.now, s.inputs, s.conv.pulseTotal)

theorem outer_of_frame {s t : State} (h : t.frame = s.frame) : outer t = outer s := by
  simp only [State.frame, Prod.mk.injEq] at h
  obtain ⟨-, -, -, -, h1, h2, -, h3, h4, h5, h6, h7⟩ := h
  simp [outer, *]

theorem testDemand_outer (s : State) : outer (testDemand s) = outer s := by
  unfold testDemand startWarning
  repeat' split
  all_goals rfl

theorem raiseAll_outer (n s) : outer (raiseAll n s) = outer s := rfl

theorem raiseTo_outer (p n s) : outer (raiseTo p n s) = outer s := rfl

theorem setHalt_outer (n : HaltState) (s : State) : outer (setHalt n s) = outer s := by
  unfold setHalt
  rw [outer_of_frame (gateHaltChange_frame _), outer_of_frame (stationsHaltChange_frame _ _ _),
    testDemand_outer]
  rfl

theorem joinEpisode_outer (c s) : outer (joinEpisode c s) = outer s := by
  unfold joinEpisode; repeat' split
  all_goals rfl

theorem closeEpisode_outer (c s) : outer (closeEpisode c s) = outer s := by
  unfold closeEpisode; repeat' split
  all_goals rfl

theorem raiseCause_outer (c subj s) : outer (raiseCause c subj s) = outer s := by
  unfold raiseCause
  split
  · rfl
  · dsimp only
    split
    · rw [setHalt_outer]; rfl
    · split
      · rw [setHalt_outer, joinEpisode_outer]; rfl
      · rw [joinEpisode_outer]; rfl
    · rw [joinEpisode_outer]; rfl

theorem clearCause_outer (c s) : outer (clearCause c s) = outer s := by
  unfold clearCause
  split
  · dsimp only
    split
    · rw [setHalt_outer, closeEpisode_outer]; rfl
    · rfl
  · rfl

theorem reacts_outer {s t : State} (h : Reacts s t) : outer t = outer s := by
  induction h with
  | quiet h => exact outer_of_frame h
  | trans _ _ h k => exact k.trans h
  | notice => rfl
  | demand s => exact testDemand_outer s
  | unpark => rfl
  | drained s h => rw [testDemand_outer]; rfl
  | cause => exact raiseCause_outer _ _ _
  | clear => exact clearCause_outer _ _

theorem startMachine_pending (j s) : (startMachine j s).pending = s.pending := by
  have : outer (startMachine j s) = outer s := by
    unfold startMachine
    split
    · dsimp only
      split
      · rfl
      · rw [raiseCause_outer]; rfl
    · rfl
  exact congrArg (fun x => x.2.2.1) this

theorem deviceReset_pending (s : State) : (deviceReset s).pending = s.pending := by
  unfold deviceReset
  have f : ∀ (l : List StationIx) (s : State),
      (l.foldl (fun s j => startMachine j s) s).pending = s.pending := by
    intro l; induction l with
    | nil => intro s; rfl
    | cons j l ih => intro s; exact (ih _).trans (startMachine_pending j s)
  have m : ∀ s, (testMismatch s).pending = s.pending := by
    intro s; unfold testMismatch; repeat' split
    all_goals rfl
  have e : ∀ s, (startCauses s).pending = s.pending := by
    intro s
    have : outer (startCauses s) = outer s := by
      unfold startCauses; dsimp only
      repeat' split
      all_goals simp only [raiseCause_outer]
    exact congrArg (fun x => x.2.2.1) this
  have a : ∀ s, (abandonSave s).pending = s.pending := by
    intro s; unfold abandonSave spoilRow; repeat' split
    all_goals rfl
  have r : ∀ s, (resetRecords s).pending = s.pending := by
    intro s; unfold resetRecords; dsimp only; repeat' split
    all_goals rfl
  dsimp only
  have ra : ∀ n s, (raiseAll n s).pending = s.pending := fun _ _ => rfl
  rw [ra, m, f, e, r, a]

theorem does_pending {s t : State} (h : Does s t) : t.pending = s.pending := by
  have q : ∀ {s t : State}, outer t = outer s → t.pending = s.pending :=
    fun h => congrArg (fun x => x.2.2.1) h
  induction h with
  | reacts h => exact q (reacts_outer h)
  | trans _ _ h k => exact k.trans h
  | chain b s =>
    exact (q (testDemand_outer { s with inputs := { s.inputs with chainClosed := b } })).trans rfl
  | opens s => exact (q (testDemand_outer { s with mode := .openMode })).trans rfl
  | lockout s => exact (q (testDemand_outer { s with mode := .lockout })).trans rfl
  | parks s =>
    exact (q (testDemand_outer { s with conv := { s.conv with
      parkTimer := .stopped, parked := true } })).trans rfl
  | resumes s h =>
    refine (q (setHalt_outer _ _)).trans ?_
    split
    · exact q (closeEpisode_outer _ _)
    · rfl
  | resets s => exact deviceReset_pending s
  | _ => rfl
/-! ## One lane's records -/

/-- The records of one lane. -/
def laneRec (l : Lane) (s : State) := (s.saleSlot l, s.laneQueue l, s.sales.finished[l])

theorem evaluate_lane (l) (s : State) : laneRec l (evaluate s) = laneRec l s := by
  have e : ∀ s j, (evalStation j s).gate = s.gate ∧ (evalStation j s).sales = s.sales := by
    intro s j
    have s1 : ∀ s, (startStep j s).gate = s.gate ∧ (startStep j s).sales = s.sales := by
      intro s; unfold startStep; repeat' split
      all_goals exact ⟨rfl, rfl⟩
    have s2 : ∀ s, (endStep j s).gate = s.gate ∧ (endStep j s).sales = s.sales := by
      intro s; unfold endStep; dsimp only; repeat' split
      all_goals exact ⟨rfl, rfl⟩
    unfold evalStation
    split
    · have a := s1 (missStep j (endStep j (qualifyStep j s)))
      have b := s2 (qualifyStep j s)
      exact ⟨a.1.trans b.1, a.2.trans b.2⟩
    · exact ⟨rfl, rfl⟩
    · exact ⟨rfl, rfl⟩
  have f : ∀ (L : List StationIx) (s : State),
      (L.foldl (fun s j => evalStation j s) s).gate = s.gate ∧
        (L.foldl (fun s j => evalStation j s) s).sales = s.sales := by
    intro L; induction L with
    | nil => intro s; exact ⟨rfl, rfl⟩
    | cons j L ih => intro s; exact ⟨(ih _).1.trans (e s j).1, (ih _).2.trans (e s j).2⟩
  have := f stationIxs s
  unfold evaluate laneRec State.saleSlot State.laneQueue
  rw [this.1, this.2]

theorem testDemand_lane (l s) : laneRec l (testDemand s) = laneRec l s := by
  unfold testDemand startWarning; repeat' split
  all_goals rfl

theorem settleDrain_lane (l b s) : laneRec l (settleDrain b s) = laneRec l s := by
  have p : ∀ b s, laneRec l (testPark b s) = laneRec l s := by
    intro b s; unfold testPark; repeat' split
    all_goals rfl
  unfold settleDrain
  rw [p]
  unfold testDrain retestDemand evalIfPaceMoved
  split
  · split
    · rw [testDemand_lane]; rfl
    · rw [evaluate_lane, testDemand_lane]; rfl
  · rfl

theorem lane_other {i l : Lane} (h : l ≠ i) (x s) :
    laneRec l (setSaleSlot i x s) = laneRec l s := by
  have : ¬ i.val = l.val := fun e => h (Fin.ext e.symm)
  simp [laneRec, setSaleSlot, State.saleSlot, State.laneQueue,
    vset_getElem, this]

theorem freeTicket_lane (l n s) : laneRec l (freeTicket n s) = laneRec l s := rfl

theorem cancelSlot_lane {i l : Lane} (h : l ≠ i) (s) :
    laneRec l (cancelSlot i s) = laneRec l s := by
  unfold cancelSlot; split
  · rfl
  · rw [lane_other h]; rfl

theorem join_lane {i l : Lane} (h : l ≠ i) (n s) :
    laneRec l (joinLaneQueue i n s) = laneRec l s := by
  have : ¬ i.val = l.val := fun e => h (Fin.ext e.symm)
  simp [laneRec, joinLaneQueue, setLaneQueue, updateTicket, State.saleSlot, State.laneQueue,
    vset_getElem, this]

theorem writeSale_lane (l i r s) : laneRec l (writeSale i r s).2 = laneRec l s := by
  unfold writeSale
  split
  · rfl
  · dsimp only
    split <;> rfl

theorem countRows_lane (l) (a : List Row) (b : List Nat) (s) :
    laneRec l (countRows a b s) = laneRec l s := by
  unfold countRows
  generalize a.zip b = z
  induction z generalizing s with
  | nil => rfl
  | cons x z ih => exact (ih _).trans rfl

theorem serveLane_lane {i l : Lane} (h : l ≠ i) (k b s) :
    laneRec l (serveLane i k b s).2 = laneRec l s := by
  unfold serveLane
  split
  · unfold quoteRequest
    split
    · rfl
    · split
      · rfl
      · rfl
      · split
        · rfl
        · split
          · rfl
          · split
            · rfl
            · dsimp only
              rw [lane_other h, writeSale_lane]
  · unfold payRequest
    split
    · rfl
    · split
      · rfl
      · rfl
      · split
        · rfl
        · dsimp only
          rw [lane_other h, join_lane h]
          split
          · have a : ∀ r n s, laneRec l (countRow r n s) = laneRec l s := fun _ _ _ => rfl
            have b : ∀ n s, laneRec l (removeCredit n s) = laneRec l s := fun _ _ => rfl
            split <;> split <;> simp only [a, b]
          · have a : ∀ n f s, laneRec l (updateTicket n f s) = laneRec l s := fun _ _ _ => rfl
            rw [countRows_lane, a]
  · unfold cancelRequest
    split
    · rfl
    · dsimp only
      rw [settleDrain_lane, cancelSlot_lane h]
  · unfold tagRequest
    dsimp only
    split
    · rfl
    · split
      · rfl
      · split
        · rfl
        · split
          · split
            · rfl
            · dsimp only
              unfold finishHit
              dsimp only
              rw [lane_other h]
              have a : ∀ r n s, laneRec l (countRow r n s) = laneRec l s := fun _ _ _ => rfl
              have b : ∀ k e s, laneRec l (setEntry k e s) = laneRec l s := fun _ _ _ => rfl
              rw [a, b, join_lane h, writeSale_lane]
          · dsimp only
            have a : ∀ p n s, laneRec l (raiseTo p n s) = laneRec l s := fun _ _ _ => rfl
            rw [a, lane_other h, writeSale_lane]
  · unfold redeemRequest
    dsimp only
    split
    · rfl
    · split
      · rfl
      · split
        · rfl
        · split
          · rfl
          · split
            · rfl
            · dsimp only
              rw [lane_other h, writeSale_lane]
  · rfl
  · rfl

theorem judge_lane {i l : Lane} (h : l ≠ i) (f s) :
    laneRec l (judge (.lane i) f s).2 = laneRec l s := by
  unfold judge
  split
  · rfl
  · next k hk =>
    split
    · rfl
    · next hp =>
      split
      · rfl
      · split
        · rfl
        · cases k <;> simp [RequestKind.permitted, Port.cls] at hp <;> first
            | exact serveLane_lane h _ _ _
            | (simp only [serve]; first
                | rfl
                | (unfold takeNoticeRequest; split <;> rfl)
                | (unfold setMaskRequest; dsimp only; split <;> rfl)
                | (unfold readTicketRequest; split <;> rfl)
                | (unfold readRosterRequest; dsimp only; split <;> rfl)
                | (unfold readStationRequest; split <;> rfl))

end Sys2Proof.Machine
end

