-- ==== Sys2Proof/WellFormed.lean ====
section
/-!
DEFINITION. Which commands are well formed: a body fits a frame (R188: 0 to 60 bytes), and
UNKNOWN_REQUEST_KIND carries a kind that the directory does not know (R192). Every other operand is
bounded by its type.
-/

namespace Sys2Proof

/-- R188: the body of a frame is 0 to 60 bytes. -/
def bodyFits (body : List Byte) : Bool := body.length ≤ Config.bodyMax

/-- R188: the body of a GATE DECIDE row is the decision and the bytes after it. -/
def restFits (rest : List Byte) : Bool := rest.length + 1 ≤ Config.bodyMax

/-- A command that can arise at the part's terminals. -/
def Instr.wellFormed : Instr → Bool
  | .readStatus _ _ b | .takeNotice _ _ b | .setMask _ _ b | .readTicket _ _ b | .quote _ _ b
  | .pay _ _ b | .cancel _ _ b | .tag _ _ b | .redeem _ _ b | .laneStatus _ _ b | .halt _ _ b
  | .resume _ _ b | .confirmRoster _ _ b | .removeCar _ _ b | .place _ _ b | .jog _ _ b
  | .jogStop _ _ b | .readRoster _ _ b | .readHaltHistory _ _ b | .readStation _ _ b
  | .readConveyor _ _ b | .setRow _ _ b | .setMenu _ _ b | .setPeriod _ _ b | .setClock _ _ b
  | .setTiming _ _ b | .setSpeedSteps _ _ b | .setStation _ _ b | .setGeometry _ _ b
  | .loadMember _ _ b | .dropMember _ _ b | .noMember _ _ b | .setWired _ _ b
  | .readMembers _ _ b | .readCredits _ _ b | .dropCredit _ _ b | .readTotals _ _ b
  | .clearTotals _ _ b | .openTunnel _ _ b | .close _ _ b | .save _ _ b => bodyFits b
  | .retry _ _ r | .wave _ _ r | .sell _ _ r | .remove _ _ r => restFits r
  | .unknownRequestKind _ kind _ b => (RequestKind.ofCode kind).isNone && bodyFits b
  | .frameHeld _ _ _ b => bodyFits b
  | .frameDiscarded _ | .framingError _ | .gapTimerExpiry _ | .replySent _ | .portReset _
  | .byteReceived _ _ | .receiveLineHigh _ => true
  | .deviceReset | .minuteTimerExpiry | .pendingTimerExpiry _ | .lookupTimerExpiry _
  | .laneExitEyeBreak _ | .offer | .offerTimerExpiry | .tireSwitchCloses
  | .rollerUpTimerExpiry | .loadDistancePassed | .entryEyeBreak | .entryEyeRestore
  | .settleReached | .maxLenReached | .heightEyeBreak | .widthEyeBreak | .encoderPulse _
  | .checkpointEyeBreak _ | .checkpointEyeRestore _ | .exitEyeBreak | .exitEyeRestore
  | .warnTimerExpiry | .atRestTimerExpiry | .stallTimerExpiry | .parkTimerExpiry
  | .safetyChainOpens | .safetyChainCloses | .driveFaultActive | .relayReadbackChange _
  | .mismatchTimerExpiry | .drainEnd | .stowedSwitchOpens _ | .stowedSwitchCloses _
  | .advanceTimerExpiry _ | .withdrawTimerExpiry _ | .motorCurrentSample _ _
  | .tripCountReached _ | .jogTimerExpiry | .rowWriteComplete _ | .driveFaultInactive
  | .tireSwitchOpens | .heightEyeRestore | .widthEyeRestore => true

/-- The check on the syntax of a command. -/
abbrev Instr.WellFormed (i : Instr) : Prop := i.wellFormed = true

end Sys2Proof
end

