-- ==== Sys2Proof/Tests/Slice0.lean ====
section
/-!
SUPPORT. The model's own tests. Each is one small evaluation by Lean's kernel: ill-formed commands that
the check refuses, values the manual works out, and for every statement with hypotheses a state and
operands that meet them, with what the command then answers.
-/

open Sys2Proof Sys2Proof.Machine

namespace Sys2Proof.Tests

set_option maxRecDepth 100000
set_option Elab.async false

/-! ## Helpers -/

/-- The state a command answers with. -/
def next? : Answer → Option State
  | .next s => some s
  | _ => none

/-- The state after a command. -/
def after (c : Instr) (s : State) : State := (next? (exec c s)).getD s

/-- The body of the reply that a command leaves at a port: its status, then its results. -/
def reply (c : Instr) (p : Port) (s : State) : List Nat :=
  match ((after c s).port p).request with
  | .replying f => f.body.map BitVec.toNat
  | .free => []

/-- Two answers are the same next state. -/
def same (a b : Answer) : Bool := next? a == next? b && (next? a).isSome

def bytes (l : List Nat) : List Byte := l.map (BitVec.ofNat 8)

/-- The notice is pending at the port. -/
def has (n : Notice) (p : Port) (s : State) : Bool := (s.port p).notices.contains n

theorem noticesFit_of (s : State)
    (h : (s.port (.lane 0)).notices.Pairwise (fun a b => a.kind < b.kind) ∧
      (s.port (.lane 1)).notices.Pairwise (fun a b => a.kind < b.kind) ∧
      (s.port (.lane 2)).notices.Pairwise (fun a b => a.kind < b.kind) ∧
      (s.port .console).notices.Pairwise (fun a b => a.kind < b.kind) ∧
      (s.port .site).notices.Pairwise (fun a b => a.kind < b.kind)) : s.noticesFit := by
  intro p
  match p with
  | .lane 0 => exact h.1
  | .lane 1 => exact h.2.1
  | .lane 2 => exact h.2.2.1
  | .console => exact h.2.2.2.1
  | .site => exact h.2.2.2.2

/-! ## Small states -/

/-- A closed episode. -/
def past : Episode := ⟨1, .powerUp, 0, ⟨0, 0⟩, 0, .none, some (⟨0, 0⟩, .console)⟩

/-- RUNNING in OPEN with an empty tunnel and the conveyor RUNNING. -/
def open0 : State :=
  { State.reset with
    mode := .openMode
    halt := ⟨.running, 0, [past], 1, .stopped⟩
    conv := { Conveyor.start with state := .running, stallTimer := .running 200000 }
    inputs := { Inputs.start with readback := true } }

/-- The state with a mode. -/
def inMode (m : Mode) (s : State) : State := { s with mode := m }

/-- The state with a port. -/
def atPort (p : Port) (f : PortState → PortState) (s : State) : State := s.setPort p (f (s.port p))

/-- A port that sends a reply. -/
def busyPort (p : Port) (s : State) : State :=
  atPort p (fun x => { x with request := .replying ⟨0x81, 0, []⟩ }) s

/-- A ticket of a kind and state. -/
def ticket (n : Nat) (k : TicketKind) (st : TicketState) : Ticket :=
  { number := n, kind := k, state := st, baseRow := some 0, addOns := [], features := 1, cap := 1000
    price := 1200, origin := .lane 0, receipt := none, tag := none, credit := none }

/-- A car of a ticket with a front and a length. -/
def car (n front : Nat) (len : Option Nat) : Car :=
  ⟨n, front, len, ⟨false, false, false⟩, Vector.replicate 4 false, false, Vector.replicate 24 .pending⟩

/-- The gate's records changed. -/
def gated (f : Gate → Gate) (s : State) : State := { s with gate := f s.gate }

/-- A car in the roster with its ticket RIDING. -/
def riding (c : Car) (s : State) : State :=
  addTicket (ticket c.ticket .paid .riding) (setRoster (s.track.roster ++ [c]) s)

/-- Row 0 active as a PLAN at 1200, row 1 as an ADDON at 300, row 2 as a MEMBER row. -/
def selling (s : State) : State :=
  { s with settings := { s.settings with
      catalogue := vset (vset (vset s.settings.catalogue 0 ⟨.plan, true, 1200, 3, 1000, true⟩)
        1 ⟨.addon, true, 300, 4, 800, false⟩) 2 ⟨.member, true, 0, 1, 900, false⟩ } }

/-- A pending sale at lane 0 with ticket 7 of a kind, naming a credit. -/
def pendingAt0 (k : TicketKind) (names : Option Nat) (s : State) : State :=
  setSaleSlot 0 (.pending 7 [1200] (.running 18000000) names) (addTicket (ticket 7 k .pending) s)

/-- A lookup wait at a lane with ticket n for a tag. -/
def waitAt (i : Lane) (n : Nat) (tg : Word32) (s : State) : State :=
  setSaleSlot i (.lookup n tg (.running 500000)) (addTicket (ticket n .member .lookup) s)

/-- A valid member entry. -/
def entry (base : Word32) (order : Nat) (st : MemberStatus) : MemberEntry :=
  ⟨true, base, order, 2, st, none⟩

/-- A credit of a code. -/
def credit (code : Nat) : Credit := ⟨code, some 0, 1, 1000, .partialWash, ⟨0, 0⟩, .lane 0⟩

/-- STOPPED under a cause, with its episode open. -/
def stoppedBy (c : Cause) (s : State) : State :=
  { s with
    halt := ⟨.stopped, Set16.single c.code, [⟨2, c, 0, ⟨0, 0⟩, 0, .none, none⟩, past], 2, .stopped⟩
    conv := Conveyor.start }

/-- HOLDING under EXIT_BLOCKED, with its episode open. -/
def held (s : State) : State :=
  { s with halt := ⟨.holding, Set16.single 15, [⟨2, .exitBlocked, 0, ⟨0, 0⟩, 0, .none, none⟩, past],
      2, .stopped⟩ }

/-- A station set. -/
def stationed (j : StationIx) (c : StationCfg) (s : State) : State :=
  { s with settings := { s.settings with stations := vset s.settings.stations j c } }

/-- A SWITCHED station at 600, window 590 to 615 without lead. -/
def foam : StationCfg := { StationCfg.default with enabled := true, offset := 600, pre := 10, post := 15 }

/-- An ARM station at 600 on channel 2. -/
def brush : StationCfg :=
  { foam with kind := .arm, firstLine := 5, secondLine := 6, channel := 2, tripLevel := 500 }

/-! ## The check on the syntax -/

theorem test_wellFormed : (Instr.readStatus .site 0 []).wellFormed = true ∧
    (Instr.readStatus .site 0 (List.replicate 60 0)).wellFormed = true ∧
    (Instr.unknownRequestKind .site 0x7F 0 []).wellFormed = true ∧
    (Instr.retry .console 0 [0]).wellFormed = true := by decide +kernel

theorem test_illFormed_body : (Instr.readStatus .site 0 (List.replicate 61 0)).wellFormed = false ∧
    (Instr.frameHeld .site 1 0 (List.replicate 61 0)).wellFormed = false := by decide +kernel

theorem test_illFormed_decision :
    (Instr.retry .console 0 (List.replicate 60 0)).wellFormed = false := by decide +kernel

theorem test_illFormed_knownKind :
    (Instr.unknownRequestKind .site 0x01 0 []).wellFormed = false := by decide +kernel

theorem test_decodeTableWord : decodeTableWord 8 0x90 = none := by decide +kernel

/-! ## The step and the machine as a whole -/

theorem test_step_takes_the_front :
    same (step { State.reset with pending := [.deviceReset, .offer] })
      (exec .deviceReset { State.reset with pending := [.offer] }) = true := by decide +kernel

theorem test_device_reset_of_a_new_part : next? (exec .deviceReset State.reset) = some State.reset := by
  decide +kernel

theorem test_EmptyQueueLetsTimePass : State.reset.pending = [] ∧
    (next? (step State.reset)).map (fun t => (t.now, t.sales.minuteTimer, t.halt.mismatchTimer)) =
      some (1, .running 5999999, .running 19999) := by decide +kernel

/-! ## The link -/

/-- R175's check value. -/
theorem test_crc : crc (bytes [0x31, 0x32, 0x33, 0x34, 0x35, 0x36, 0x37, 0x38, 0x39]) = 0x29B1 := by
  decide +kernel

theorem test_RequestsAreJudgedInOrder :
    State.reset.takes .site ∧ State.reset.takes (.lane 0) ∧
    (List.replicate 60 (0 : Byte)).length ≤ 60 ∧ RequestKind.ofCode 0x7F = none ∧
    frameOf (.unknownRequestKind .site 0x7F 9 (List.replicate 60 0)) =
      some (.site, ⟨0x7F, 9, List.replicate 60 0⟩) ∧
    reply (.unknownRequestKind .site 0x7F 9 (List.replicate 60 0)) .site State.reset = [3] ∧
    RequestKind.halt.permitted .lane = false ∧
    reply (.halt (.lane 0) 0 []) (.lane 0) State.reset = [2] ∧
    RequestKind.readStatus.lengthOk 1 = false ∧
    reply (.readStatus .site 0 [0]) .site State.reset = [3] ∧
    RequestKind.close.lockoutAnswers = false ∧
    reply (.close .site 0 []) .site (inMode .lockout State.reset) = [11] ∧
    reply (.close .site 0 []) .site State.reset = [8] ∧
    (reply (.readStatus .site 0 []) .site (inMode .lockout State.reset)).length = 14 := by
  decide +kernel

theorem test_PortClassesMayIssueTheirRequests :
    RequestKind.quote.permitted .site = false ∧
    same (exec (.quote .site 4 [0]) State.reset)
      (answered .site 0x10 4 .notPermitted [] (hunt .site State.reset)) = true ∧
    frameOf (.cancel (.lane 0) 0 []) = some (.lane 0, ⟨0x12, 0, []⟩) ∧
    (after (.cancel (.lane 0) 0 []) (pendingAt0 .paid none open0)).saleSlot 0 = .empty ∧
    (after (.cancel (.lane 0) 0 []) (waitAt 1 8 5 (pendingAt0 .paid none open0))).saleSlot 1 =
      .lookup 8 5 (.running 500000) := by decide +kernel

theorem test_LockoutAnswersTheReadsAlone :
    let s := inMode .lockout State.reset
    let r := atPort .console (fun x => { x with held := some ⟨0x20, 3, []⟩ }) (busyPort .console s)
    s.takes .console ∧ RequestKind.readConveyor.permitted .console = true ∧
    same (exec (.readConveyor .console 0 []) s) (answered .console 0x33 0 .ok
      (serve .console .readConveyor [] s).1.results s) = true ∧
    RequestKind.halt.lengthOk 0 = true ∧
    same (exec (.halt .console 3 []) s) (answered .console 0x20 3 .locked [] s) = true ∧
    (r.port .console).request = .replying ⟨0x81, 0, []⟩ ∧
    (r.port .console).held = some ⟨0x20, 3, []⟩ ∧
    same (exec (.replySent .console) r) (answered .console 0x20 3 .locked [] s) = true := by
  decide +kernel

theorem test_FramesAreHeldWhileReplying :
    let s := busyPort .site State.reset
    let h := atPort .site (fun x => { x with held := some ⟨0x01, 3, []⟩ }) s
    (s.port .site).lineLow = false ∧ (s.port .site).held = none ∧
    ((after (.readStatus .site 3 []) s).port .site).held = some ⟨0x01, 3, []⟩ ∧
    (h.port .site).held = some ⟨0x01, 3, []⟩ ∧
    ((after (.frameHeld .site 0x02 4 []) h).port .site).held = some ⟨0x01, 3, []⟩ ∧
    ((after (.replySent .site) h).port .site).held = none ∧
    (reply (.replySent .site) .site h).length = 14 ∧
    ((after (.replySent .site) s).port .site).request = .free := by decide +kernel

theorem test_ReceiverBuildsFrames :
    let s := State.reset
    let r (l : List Byte) := atPort .site (fun x => { x with receiver := .receiving l, gapTimer := .running 5 }) s
    let f := u16 (crc (bytes [2, 0x01, 9])).toNat
    let whole := r ([0xC3, 2, 0x01, 9] ++ f.take 1)
    ((r [0xC3]).port .site).gapTimer = .running 5 ∧
    ((after (.gapTimerExpiry .site) (r [0xC3])).port .site).receiver = .hunting ∧
    ((after (.framingError .site) (r [0xC3])).port .site).receiver = .hunting ∧
    ((after (.frameDiscarded .site) (r [0xC3])).port .site).receiver = .hunting ∧
    same (exec (.byteReceived .site 0xC3) (atPort .site (fun x => { x with lineLow := true }) s))
      (done (atPort .site (fun x => { x with lineLow := true }) s)) = true ∧
    ((after (.byteReceived .site 0xC3) s).port .site).receiver = .receiving [0xC3] ∧
    ((after (.byteReceived .site 0xC3) s).port .site).gapTimer = .running 2000 ∧
    ((after (.byteReceived .site 0xC2) s).port .site).receiver = .hunting ∧
    ((after (.byteReceived .site 2) (r [0xC3])).port .site).receiver = .receiving [0xC3, 2] ∧
    ((after (.byteReceived .site 62) (r [0xC3])).port .site).receiver = .receiving [0xC3, 62] ∧
    ((after (.byteReceived .site 1) (r [0xC3])).port .site).receiver = .hunting ∧
    ((after (.byteReceived .site 63) (r [0xC3])).port .site).receiver = .hunting ∧
    ((after (.byteReceived .site 9) (r [0xC3, 2, 1])).port .site).receiver =
      .receiving [0xC3, 2, 1, 9] ∧
    (f.length = 2 ∧ (reply (.byteReceived .site (f.getD 1 0)) .site whole).length = 14) ∧
    ((after (.byteReceived .site (f.getD 1 0 + 1)) whole).port .site).receiver = .hunting ∧
    reply (.byteReceived .site (f.getD 1 0 + 1)) .site whole = [] := by decide +kernel

theorem test_BytesOnTheLineMakeTheFrame :
    (List.replicate 60 (0 : Byte)).length ≤ 60 ∧ (State.reset.port .site).receiver = .hunting ∧
    (State.reset.port .site).lineLow = false ∧ State.reset.linesFollow ∧
    same (execAll ((⟨0x20, 7, []⟩ : Frame).wire.map (Instr.byteReceived .console)) State.reset)
      (exec (.halt .console 7 []) State.reset) = true := by decide +kernel

theorem test_PortResetClearsThePort :
    let s := pendingAt0 .paid none open0
    let low := atPort .site (fun x => { x with lineLow := true }) s
    (s.port .site).lineLow = false ∧ s.mode ≠ .draining ∧ (s.saleSlot 0).ticket? = some 7 ∧
    ((after (.portReset .site) s).port .site).notices = [] ∧
    ((after (.portReset .site) s).port .site).lineLow = true ∧
    (after (.portReset (.lane 0)) s).saleSlot 0 = .empty ∧
    (after (.portReset (.lane 0)) s).ticket? 7 = none ∧
    (after (.portReset (.lane 0)) (inMode .draining s)).saleSlot 0 = .empty ∧
    (low.port .site).lineLow = true ∧ same (exec (.portReset .site) low) (done low) = true ∧
    ((after (.receiveLineHigh .site) low).port .site).lineLow = false := by decide +kernel

theorem test_NoticesAreRaisedAndTaken :
    let s := atPort .site (fun x => { x with notices := [.halt .slip 9, .storeDone true] }) open0
    let m := atPort .site (fun x => { x with mask := 0x804 }) s
    s.takes .site ∧ (m.port .site).unmasked = [] ∧
    reply (.takeNotice .site 0 []) .site m = [0, 0, 0] ∧
    (s.port .site).unmasked = [.halt .slip 9, .storeDone true] ∧
    reply (.takeNotice .site 0 []) .site s = [0, 2, 6, 9, 1] ∧
    ((after (.takeNotice .site 0 []) s).port .site).notices = [.storeDone true] ∧
    (after (.takeNotice .site 0 []) s).out.attention[4] = true ∧
    ((raiseTo .site (.halt .ghost 10) s).port .site).notices = [.halt .ghost 10, .storeDone true] := by
  decide +kernel

theorem test_NoticesAreRaisedAndTaken_fit : State.noticesFit
    (atPort .site (fun x => { x with notices := [.halt .slip 9, .storeDone true] }) open0) :=
  noticesFit_of _ (by decide +kernel)

theorem test_SetMaskReplacesTheMask :
    let s := State.reset
    s.takes .site ∧ (∀ k, k < 16 → (0x1FFE : Set16).getLsbD k = true → 1 ≤ k ∧ k ≤ 12) ∧
    reply (.setMask .site 0 (setBytes 0x1FFE)) .site s = [0, 0x1F, 0xFE, 0, 4] ∧
    (after (.setMask .site 0 (setBytes 0x1FFE)) s).out.attention[4] = false ∧
    (0x2000 : Set16).getLsbD 13 = true ∧ reply (.setMask .site 0 (setBytes 0x2000)) .site s = [4] ∧
    (0x0001 : Set16).getLsbD 0 = true ∧ reply (.setMask .site 0 (setBytes 0x0001)) .site s = [4] ∧
    (s.port .site).lineLow = false ∧ ((after (.portReset .site) s).port .site).mask = 0 ∧
    ((after .deviceReset s).port .site).mask = 0 := by decide +kernel

/-! ## Reads and layouts -/

theorem test_ReadsAnswerTheRecords :
    let s := inMode .lockout (riding (car 9 700 (some 200)) { open0 with credits := [credit 4] })
    s.takes .site ∧ s.takes (.lane 0) ∧ (s.ticket? 9).isSome = true ∧ s.ticket? 65535 = none ∧
    (reply (.readTicket .site 0 (u16 9)) .site s).length = 28 ∧
    reply (.readTicket .site 0 (u16 65535)) .site s = [7] ∧
    (reply (.readRoster .site 0 (u8 0)) .site s).length = 25 ∧
    reply (.readRoster .site 0 (u8 1)) .site s = [7] ∧
    reply (.readRoster .site 0 (u8 255)) .site s = [7] ∧
    (reply (.readConveyor .site 0 []) .site s).length = 18 ∧
    (reply (.readHaltHistory .site 0 []) .site s).length = 18 ∧
    (reply (.readStation .site 0 (u8 23)) .site s).length = 36 ∧
    reply (.readStation .site 0 (u8 24)) .site s = [4] ∧
    (reply (.readMembers .site 0 (u8 47)) .site s).length = 17 ∧
    reply (.readMembers .site 0 (u8 48)) .site s = [4] ∧
    (reply (.readCredits .site 0 (u8 0)) .site s).length = 18 ∧
    (reply (.readCredits .site 0 (u8 31)) .site s).length = 4 ∧
    reply (.readCredits .site 0 (u8 32)) .site s = [4] ∧
    (reply (.readTotals .site 0 (u8 31)) .site s).length = 9 ∧
    reply (.readTotals .site 0 (u8 32)) .site s = [4] ∧
    (reply (.laneStatus (.lane 0) 0 []) (.lane 0) s).head? = some 0 := by decide +kernel

theorem test_RecordsHaveTheirLayout :
    (ticket 65535 .paid .pending).number < 65536 ∧
    (ticketBytes (ticket 65535 .paid .pending)).length = 27 ∧
    (finishedBytes ⟨65535, none, .full, none⟩).length = 10 ∧
    (carBytes (car 65535 16383 (some 600))).length = 22 ∧ (carBytes (car 1 0 none)).length = 22 ∧
    (wordAt (carBytes (car 1 0 (some 600))) 6 = 65536 - 600) ∧
    (stationBytes 23 (stationed 23 brush State.reset)).length = 35 ∧
    ((stationed 23 brush State.reset).station 23).kind = .arm ∧
    (entryBytes 47 MemberEntry.clear).length = 12 ∧ (creditBytes open0 (credit 65535)).length = 14 ∧
    (episodeBytes past).length = 14 := by decide +kernel

/-! ## Plan sales -/

/-- R8's worked sale is in the statement's range, and a sale past 50,000 loses from its last add-on. -/
theorem test_PricesAreComputed :
    let plan (n : Nat) : CatRow := ⟨.plan, true, n, 1, 1000, true⟩
    let addon (n : Nat) : CatRow := ⟨.addon, true, n, 2, 900, false⟩
    (plan 50000).price ≤ 50000 ∧ (50 : Nat) ≤ 50 ∧
    (priceOf (plan 1200) [] 50).total = 600 ∧
    (priceOf (plan 50000) [addon 30000, addon 1] 50).lines = [25000, 25000, 0] ∧
    (priceOf (plan 50000) [addon 30000, addon 1] 50).total = 50000 ∧
    (priceOf (plan 25000) [addon 25000] 0).lines = [25000, 25000] := by decide +kernel

theorem test_TheClockSetsTheDiscount :
    let s := { open0 with
      settings := { open0.settings with periods := #v[⟨1380, 60, 20⟩, ⟨0, 0, 9⟩, ⟨600, 720, 15⟩, ⟨600, 900, 5⟩] }
      sales := { open0.sales with clock := ⟨⟨65535, 600⟩, false⟩ } }
    let at_ (m : Nat) := { s with sales := { s.sales with clock := ⟨⟨65535, m⟩, false⟩ } }
    s.takes .site ∧ s.mode ≠ .lockout ∧ open0.sales.clock.unset = true ∧ open0.discount = 0 ∧
    s.discount = 15 ∧ (at_ 720).discount = 5 ∧ (at_ 900).discount = 0 ∧ (at_ 1380).discount = 20 ∧
    (at_ 59).discount = 20 ∧ (at_ 60).discount = 0 ∧
    reply (.setClock .site 0 (u16 65535 ++ u16 1439)) .site s = [0] ∧
    reply (.setClock .site 0 (u16 0 ++ u16 1440)) .site s = [4] ∧
    (after .minuteTimerExpiry (at_ 1439)).stamp = ⟨0, 0⟩ ∧
    (after .minuteTimerExpiry (at_ 1438)).stamp = ⟨65535, 1439⟩ := by decide +kernel

theorem test_NewNumbersAreFree :
    let s := { open0 with credits := [credit 1], sales := { open0.sales with lastNumber := 65535 } }
    s.creditsFit ∧ s.nextNumber = 2 ∧ s.numberTaken 1 = true ∧
    open0.nextNumber = 1 := by decide +kernel

/-- The first k ticket slots taken by merged tickets. -/
def crowded (k : Nat) (s : State) : State :=
  { s with sales := { s.sales with
      slots := Vector.ofFn (fun i => if i.val < k then some (ticket (100 + i.val) .paid .merged) else none) } }

theorem test_QuoteOpensAPendingSale :
    let s := selling open0
    let q (b : List Nat) : Instr := .quote (.lane 0) 5 (bytes b)
    let kept := pendingAt0 .paid none (crowded 39 s)
    s.takes (.lane 0) ∧ s.creditsFit ∧ s.hasSlot 0 ∧ (crowded 35 s).hasSlot 0 ∧
    ¬ (crowded 36 s).hasSlot 0 ∧
    (pendingAt0 .rewash none (crowded 35 s)).hasSlot 0 ∧ kept.hasSlot 0 ∧
    kept.saleNumber 0 = 7 ∧ s.saleNumber 0 = 1 ∧
    (bytes [0, 1, 1]).map (fun x => (s.settings.menus[(0 : Lane)]).rowOf x.toNat) =
      some 0 :: [1, 1].map some ∧
    reply (q [0, 1, 1]) (.lane 0) s = [0, 0, 1, 7, 8, 0] ∧
    reply (q [0]) (.lane 0) kept = [0, 0, 7, 4, 176, 0] ∧
    (after (q [0, 1, 1]) s).saleSlot 0 = .pending 1 [1200, 300, 300] (.running 18000000) none ∧
    (after (q [0]) (pendingAt0 .rewash none s)).ticket? 7 = none ∧
    reply (q [0]) (.lane 0) (inMode .draining s) = [9] ∧
    reply (q [0, 8]) (.lane 0) s = [4] ∧ reply (q [3]) (.lane 0) s = [12] ∧
    reply (q [1]) (.lane 0) s = [12] ∧ reply (q [0, 0]) (.lane 0) s = [12] ∧
    reply (q [0]) (.lane 0) (gated (fun g => { g with laneQueues := #v[[1, 2, 3, 4], [], []] }) s) = [6] ∧
    reply (q [0]) (.lane 0) (crowded 36 s) = [6] := by decide +kernel

theorem test_SalesArePaidOrEnd :
    let s := pendingAt0 .paid none (selling open0)
    let w := pendingAt0 .rewash (some 4) { selling open0 with credits := [credit 4, credit 5] }
    let pay : Instr := .pay (.lane 0) 5 (u32 0xFFFFFFFF)
    s.takes (.lane 0) ∧ s.saleSlot 0 = .pending 7 [1200] (.running 18000000) none ∧
    s.ticket? 7 = some (ticket 7 .paid .pending) ∧ w.ticket? 7 = some (ticket 7 .rewash .pending) ∧
    reply pay (.lane 0) s = [0, 0, 7] ∧ (after pay s).laneQueue 0 = [7] ∧
    reply pay (.lane 0) (inMode .draining s) = [0, 0, 7] ∧
    (after pay s).sales.totals[(0 : Row)] = ⟨1, 1200⟩ ∧
    (after pay w).sales.totals[(0 : Row)] = ⟨1, 0⟩ ∧
    (after pay w).credits = [credit 5] ∧
    reply pay (.lane 0) (inMode .setup s) = [9] ∧ reply pay (.lane 0) open0 = [7] ∧
    reply pay (.lane 0) (waitAt 0 8 5 open0) = [7] ∧
    reply (.cancel (.lane 0) 1 []) (.lane 0) s = [0, 0, 7] ∧
    (after (.cancel (.lane 0) 1 []) s).ticket? 7 = none ∧
    reply (.cancel (.lane 0) 1 []) (.lane 0) (waitAt 0 8 5 open0) = [0, 0, 8] ∧
    reply (.cancel (.lane 0) 1 []) (.lane 0) open0 = [7] ∧
    (after (.pendingTimerExpiry 0) s).saleSlot 0 = .empty ∧
    has (.saleLapsed 7) (.lane 0) (after (.pendingTimerExpiry 0) s) = true ∧
    same (exec (.pendingTimerExpiry 1) s) (done s) = true := by decide +kernel

theorem test_TotalsCountAndClear :
    let s := { open0 with sales := { open0.sales with totals := vset open0.sales.totals 0 ⟨65535, 4294967290⟩ } }
    (countRow 0 50000 s).sales.totals[(0 : Row)] = ⟨65535, 4294967295⟩ ∧
    s.takes .site ∧ s.mode ≠ .lockout ∧
    (after (.clearTotals .site 0 []) s).sales.totals = Vector.replicate 32 ⟨0, 0⟩ := by decide +kernel

/-- The state with a save in progress. -/
def saving (row : Nat) (s : State) : State :=
  { s with store := { s.store with save := some ⟨s.copySettings, row⟩ } }

theorem test_RowsMenusAndPeriodsAreWritten :
    let s := open0
    let row (price cap : Nat) : CatRow := ⟨.plan, true, price, 2, cap, true⟩
    let menu (b : List Nat) : Instr := .setMenu .site 0 (bytes b)
    s.takes .site ∧ s.mode ≠ .lockout ∧ (row 50000 100).price ≤ 50000 ∧
    (saving 0 s).store.save ≠ none ∧
    (after (.setRow .site 0 (rowBody 31 (row 50000 100))) s).row 31 = ⟨.plan, true, 50000, 3, 100, true⟩ ∧
    reply (.setRow .site 0 (rowBody 31 (row 50001 100))) .site s = [4] ∧
    reply (.setRow .site 0 (rowBody 31 (row 0 99))) .site s = [4] ∧
    reply (.setRow .site 0 (rowBody 31 (row 0 1001))) .site s = [4] ∧
    reply (.setRow .site 0 (rowBody 31 (row 0 1000))) .site (saving 0 s) = [5] ∧
    (bytes [32, 0, 0, 0, 0, 0, 0, 0, 100, 0]).length = 10 ∧
    reply (.setRow .site 0 (bytes [32, 0, 0, 0, 0, 0, 0, 0, 100, 0])) .site s = [4] ∧
    reply (.setRow .site 0 (bytes [0, 3, 0, 0, 0, 0, 0, 0, 100, 0])) .site s = [4] ∧
    reply (.setRow .site 0 (bytes [0, 0, 2, 0, 0, 0, 0, 0, 100, 0])) .site s = [4] ∧
    reply (.setRow .site 0 (bytes [0, 0, 0, 0, 0, 0, 0, 0, 100, 2])) .site s = [4] ∧
    (after (menu [2, 16, 16]) s).settings.menus[(2 : Lane)] = ⟨16, 16⟩ ∧
    reply (menu [0, 8, 4]) .site s = [4] ∧ reply (menu [0, 4, 32]) .site s = [4] ∧
    reply (menu [0, 5, 0]) .site s = [4] ∧ reply (menu [0, 4, 28]) .site (saving 0 s) = [5] ∧
    reply (menu [0, 4, 28]) .site (pendingAt0 .paid none s) = [5] ∧
    (after (.setPeriod .site 0 (periodBody 3 ⟨1439, 0, 50⟩)) s).settings.periods[(3 : Fin 4)] = ⟨1439, 0, 50⟩ ∧
    reply (.setPeriod .site 0 (periodBody 3 ⟨1440, 0, 50⟩)) .site s = [4] ∧
    reply (.setPeriod .site 0 (periodBody 3 ⟨0, 0, 51⟩)) .site s = [4] ∧
    reply (.setPeriod .site 0 (periodBody 3 ⟨0, 1439, 0⟩)) .site (saving 0 s) = [5] := by decide +kernel

theorem test_TicketsRetireWithTheirResult :
    let s (k : TicketKind) := addTicket (ticket 7 k .riding) { open0 with
      credits := (List.range 32).map (fun n => credit (n + 1))
      sales := { open0.sales with finished := Vector.replicate 3 (List.replicate 4 ⟨9, none, .full, none⟩) } }
    let m := addTicket { ticket 7 .member .riding with tag := some 21 } { open0 with
      memb := { open0.memb with entries := vset open0.memb.entries 47 { entry 16 4 .active with stamp := some ⟨3, 4⟩ } } }
    (s .paid).ticket? 7 = some (ticket 7 .paid .riding) ∧
    ((retireTicket 7 .removed (s .paid)).credits.getLast?).map Credit.code = some 7 ∧
    (retireTicket 7 .removed (s .paid)).credits.length = 32 ∧
    has (.creditDropped 1) .site (retireTicket 7 .removed (s .paid)) = true ∧
    (retireTicket 7 .full (s .paid)).credits = (s .paid).credits ∧
    (retireTicket 7 .removed (s .waved)).credits = (s .waved).credits ∧
    (retireTicket 7 .full (s .paid)).sales.finished[(0 : Lane)] =
      [⟨7, none, .full, none⟩, ⟨9, none, .full, none⟩, ⟨9, none, .full, none⟩, ⟨9, none, .full, none⟩] ∧
    (m.ticket? 7).map Ticket.kind = some .member ∧ (m.entry 47).covers 21 = true ∧
    (m.entry 47).stamp = some ⟨3, 4⟩ ∧ ((retireTicket 7 .partialWash m).entry 47).stamp = none ∧
    ((retireTicket 7 .full m).entry 47).stamp = some ⟨3, 4⟩ := by decide +kernel

/-! ## Members and credits -/

theorem test_TagsAreLookedUp :
    let s (e : MemberEntry) := { selling open0 with memb := ⟨vset open0.memb.entries 5 e, 0⟩ }
    let t (v : Nat) : Instr := .tag (.lane 0) 0 (u32 v)
    let late (e : MemberEntry) (m : Nat) := { s e with
      settings := { (s e).settings with timing := { Timing.default with memberInterval := 10 } }
      sales := { (s e).sales with clock := ⟨⟨1, m⟩, false⟩ } }
    let washed := { entry 0xFFFFFFF0 4 .active with stamp := some ⟨0, 1439⟩ }
    (s (entry 0xFFFFFFF0 4 .active)).takes (.lane 0) ∧ (s washed).hasSlot 0 ∧
    ((s (entry 0xFFFFFFF0 4 .active)).entry 5).valid = true ∧
    reply (t 0xFFFFFFFF) (.lane 0) (s (entry 0xFFFFFFF0 4 .active)) = [0, 0, 1] ∧
    reply (t 0xFFFFFFF0) (.lane 0) (s (entry 0xFFFFFFF0 4 .active)) = [0, 0, 1] ∧
    ((after (t 0xFFFFFFFF) (s (entry 0xFFFFFFF0 4 .active))).entry 5).stamp = some ⟨0, 0⟩ ∧
    (after (t 0xFFFFFFFF) (s (entry 0xFFFFFFF0 4 .active))).laneQueue 0 = [1] ∧
    reply (t 0xFFFFFFFF) (.lane 0) (s (entry 0xFFFFFFF0 4 .suspended)) = [13] ∧
    reply (t 0xFFFFFFFF) (.lane 0) (s { entry 0xFFFFFFF0 4 .active with row := 0 }) = [12] ∧
    reply (t 0xFFFFFFFF) (.lane 0) (late washed 8) = [14] ∧
    reply (t 0xFFFFFFFF) (.lane 0) (late washed 9) = [0, 0, 1] ∧
    reply (t 0xFFFFFFEF) (.lane 0) (s washed) = [1] ∧
    (after (t 0xFFFFFFEF) (s washed)).saleSlot 0 = .lookup 1 0xFFFFFFEF (.running 500000) ∧
    has (.memberMiss 0 0xFFFFFFEF) .site (after (t 0xFFFFFFEF) (s washed)) = true := by decide +kernel

theorem test_LookupWaitsEnd :
    let s := waitAt 2 9 21 (waitAt 0 8 21 (selling open0))
    let no (v : Nat) : Instr := .noMember .site 0 (u32 v)
    let e (st : MemberStatus) := setEntry 0 (entry 16 4 st) s
    s.takes .site ∧ s.saleSlot 2 = .lookup 9 21 (.running 500000) ∧ (s.ticket? 8).isSome = true ∧
    reply (no 21) .site s = [0] ∧ (after (no 21) s).saleSlot 2 = .empty ∧
    has (.tagResult .notFound 0) (.lane 2) (after (no 21) s) = true ∧
    reply (no 20) .site s = [7] ∧
    (after (.lookupTimerExpiry 2) s).saleSlot 2 = .empty ∧
    (after (.lookupTimerExpiry 2) s).ticket? 9 = none ∧
    same (exec (.lookupTimerExpiry 1) s) (done s) = true ∧
    ((e .active).entry 0).covers 21 = true ∧ (e .active).hitRefusal ((e .active).entry 0) = none ∧
    (completeWait 0 (e .active) 0).laneQueue 0 = [8] ∧
    has (.tagResult .ok 8) (.lane 0) (completeWait 0 (e .active) 0) = true ∧
    (e .suspended).hitRefusal ((e .suspended).entry 0) = some .suspended ∧
    (completeWait 0 (e .suspended) 0).ticket? 8 = none ∧
    ((e .active).entry 1).covers 21 = false ∧ completeWait 1 (e .active) 0 = e .active ∧
    completeWait 0 (e .active) 1 = e .active := by decide +kernel

theorem test_LoadsPlaceMemberEntries :
    let a (base : Word32) (order : Nat) (w : Bool) : LoadArgs := ⟨base, order, 2, .active, w⟩
    let load (x : LoadArgs) : Instr := .loadMember .site 0 (memberBody x)
    let s := { selling open0 with
      settings := { (selling open0).settings with wired := 40 }, memb := ⟨open0.memb.entries, 40⟩ }
    let full := { s with memb := ⟨Vector.ofFn (fun i => entry (BitVec.ofNat 32 (i.val * 16)) 4 .active), 47⟩ }
    s.takes .site ∧ s.settings.wired ≤ 40 ∧ (0xFFFFF000 : Word32).toNat % 2 ^ 12 = 0 ∧
    reply (load (a 0xFFFFF000 12 true)) .site s = [0, 0] ∧
    reply (load (a 5 0 false)) .site s = [0, 40] ∧
    reply (load (a 0 4 true)) .site (saving 0 s) = [5] ∧
    reply (load (a 0 4 false)) .site (saving 0 s) = [0, 40] ∧
    reply (load { a 0 4 true with row := 0 }) .site s = [12] ∧
    reply (load (a 16 4 false)) .site full = [0, 1] ∧
    reply (load (a 16 0 false)) .site full = [10] ∧
    reply (load (a 0 8 false)) .site full = [10] ∧ reply (load (a 4096 8 true)) .site full = [6] ∧
    reply (load (a 4096 8 false)) .site full = [0, 47] ∧
    (after (load (a 4096 8 false)) full).memb.pointer = 40 := by decide +kernel

theorem test_MemberTableAndCreditsAreEdited :
    let s := pendingAt0 .rewash (some 4) { open0 with
      settings := { open0.settings with wired := 1 }
      memb := ⟨vset (vset open0.memb.entries 0 (entry 16 4 .active)) 47 (entry 32 4 .active), 1⟩
      credits := [credit 4, credit 5] }
    s.takes .site ∧ reply (.dropMember .site 0 (u32 16)) .site s = [0, 0] ∧
    reply (.dropMember .site 0 (u32 16)) .site (saving 0 s) = [5] ∧
    reply (.dropMember .site 0 (u32 32)) .site (saving 0 s) = [0, 47] ∧
    reply (.dropMember .site 0 (u32 17)) .site s = [7] ∧
    reply (.setWired .site 0 (u8 255)) .site s = [0, 40] ∧
    (after (.setWired .site 0 (u8 40)) s).memb.pointer = 40 ∧
    reply (.setWired .site 0 (u8 0)) .site (saving 0 s) = [5] ∧
    reply (.dropCredit .site 0 (u16 4)) .site s = [5] ∧
    reply (.dropCredit .site 0 (u16 5)) .site s = [0] ∧
    reply (.dropCredit .site 0 (u16 6)) .site s = [7] := by decide +kernel

theorem test_RedeemOpensARewash :
    let s := { selling open0 with credits := [credit 4] }
    let r (n : Nat) : Instr := .redeem (.lane 0) 0 (u16 n)
    let other := setSaleSlot 1 (.pending 8 [0] (.running 5) (some 4)) s
    s.takes (.lane 0) ∧ s.creditsFit ∧ s.hasSlot 0 ∧ s.credit? 4 = some (credit 4) ∧
    reply (r 4) (.lane 0) s = [0, 0, 1, 0, 0, 0] ∧
    (after (r 4) s).saleSlot 0 = .pending 1 [0] (.running 18000000) (some 4) ∧
    reply (r 4) (.lane 0) (pendingAt0 .rewash (some 4) s) = [0, 0, 1, 0, 0, 0] ∧
    reply (r 4) (.lane 0) (inMode .setup s) = [9] ∧ reply (r 5) (.lane 0) s = [7] ∧
    reply (r 4) (.lane 0) other = [5] ∧ reply (r 4) (.lane 0) (crowded 36 s) = [6] ∧
    reply (r 4) (.lane 0) (gated (fun g => { g with laneQueues := #v[[1, 2, 3, 4], [], []] }) s) = [6] := by
  decide +kernel

/-! ## Lanes, merge and the entry gate -/

/-- Twelve merged tickets in the merge queue. -/
def mergeFilled (k : Nat) (s : State) : State := gated (fun g => { g with merge := List.range' 20 k }) s

theorem test_LaneBreaksFeedTheMerge :
    let s := gated (fun g => { g with laneQueues := #v[[7, 8], [], []], state := .offer })
      (addTicket (ticket 7 .paid .laneQueued) open0)
    (s.laneQueue 0 = [7, 8]) ∧ ¬ 12 ≤ (mergeFilled 11 s).gate.merge.length + 0 ∧
    (after (.laneExitEyeBreak 0) (mergeFilled 11 s)).gate.merge = List.range' 20 11 ++ [7] ∧
    ((after (.laneExitEyeBreak 0) s).ticket? 7).map Ticket.state = some .merged ∧
    (after (.laneExitEyeBreak 0) (mergeFilled 12 s)).gate.mergeCheck = true ∧
    has (.mergeOverrun 0 .mergeFull) .console (after (.laneExitEyeBreak 0) (mergeFilled 12 s)) = true ∧
    (after (.laneExitEyeBreak 0) (gated (fun g => { g with atGate := some 1 }) (mergeFilled 11 s))).gate.mergeCheck
      = true ∧
    s.laneQueue 1 = [] ∧ s.freeSlots ≠ 0 ∧ (after (.laneExitEyeBreak 1) s).gate.merge = [1] ∧
    ((after (.laneExitEyeBreak 1) s).ticket? 1).map Ticket.kind = some .unpaid ∧
    (crowded 40 s).freeSlots = 0 ∧
    has (.mergeOverrun 1 .noSlot) .console (after (.laneExitEyeBreak 1) (crowded 40 s)) = true ∧
    s.gate.state ≠ .idle ∧ settle s s = s := by decide +kernel

theorem test_OfferTestsTheIdleGate :
    let s := gated (fun g => { g with merge := [7] }) (addTicket (ticket 7 .paid .merged) open0)
    let u := gated (fun g => { g with merge := [7] }) (addTicket (ticket 7 .unpaid .merged) open0)
    let tire (b : Bool) (x : State) : State := { x with inputs := { x.inputs with tireClosed := b } }
    let conv (f : Conveyor → Conveyor) (x : State) : State := { x with conv := f x.conv }
    let parked (st : ConvState) := conv (fun c => { c with parked := true, state := st }) s
    let close := setRoster [car 9 259 (some 200)] s
    let clear := setRoster [car 9 260 (some 200)] s
    s.gate.state = .idle ∧ s.gate.mergeCheck = false ∧ s.ticket? 7 = some (ticket 7 .paid .merged) ∧
    (after .offer s).gate.state = .offer ∧ (after .offer s).gate.offerTimer = .running 6000000 ∧
    (after .offer (tire true s)).gate.state = .loading ∧
    (after .offer (tire true s)).gate.rollerTimer = .running 50000 ∧
    (after .offer u).gate.state = .held .unpaid ∧ (after .offer u).gate.atGate = some 7 ∧
    has (.gateHold .unpaid 7) .console (after .offer u) = true ∧
    (after .offer (gated (fun g => { g with mergeCheck := true }) s)).gate.state = .held .mergeCheck ∧
    has (.gateHold .mergeCheck 7) .console (after .offer (gated (fun g => { g with mergeCheck := true }) s)) = true ∧
    (after .offer (parked .stopping)).conv.parked = false ∧
    (after .offer (parked .stopping)).conv.state = .stopping ∧
    (after .offer (parked .stopped)).conv.state = .warning ∧
    (after .offer (parked .stopped)).conv.warnTimer = .running 300000 ∧
    same (exec .offer (conv (fun c => { c with state := .warning }) s))
      (done (conv (fun c => { c with state := .warning }) s)) = true ∧
    same (exec .offer close) (done close) = true ∧ (after .offer clear).gate.state = .offer ∧
    same (exec .offer (stoppedBy .slip s)) (done (stoppedBy .slip s)) = true ∧
    same (exec .offer (gated (fun g => { g with state := .spacing }) s))
      (done (gated (fun g => { g with state := .spacing }) s)) = true := by decide +kernel

/-- The gate in a state with ticket 7 AT_GATE. -/
def gateAt (st : GateState) (s : State) : State :=
  gated (fun g => { g with state := st, atGate := some 7, offerTimer := .running 900, loadCount := 81 })
    (addTicket (ticket 7 .paid .atGate) s)

theorem test_OffersExpireLoadOrMiss :
    let s := gateAt .offer open0
    let l := gateAt .loading open0
    let early := gated (fun g => { g with loadCount := 80 }) l
    (after .offerTimerExpiry s).gate.state = .held .offerExpired ∧
    has (.gateHold .offerExpired 7) .console (after .offerTimerExpiry s) = true ∧
    same (exec .offerTimerExpiry l) (done l) = true ∧
    same (exec .offerTimerExpiry (gated (fun g => { g with offerTimer := .paused 5 }) s))
      (done (gated (fun g => { g with offerTimer := .paused 5 }) s)) = true ∧
    s.halt.state = .running ∧ (after .tireSwitchCloses s).gate.state = .loading ∧
    (after .tireSwitchCloses (stoppedBy .slip s)).gate.state = .offer ∧
    (after .tireSwitchCloses s).inputs.tireClosed = true ∧
    (after .tireSwitchOpens (after .tireSwitchCloses s)).inputs.tireClosed = false ∧
    (after .rollerUpTimerExpiry (gated (fun g => { g with rollerTimer := .running 3 }) l)).gate.rollerTimer = .stopped ∧
    l.causesFit ∧ l.settings.timing.loadDistance = 80 ∧
    (after .loadDistancePassed l).halt.state = .stopped ∧
    (after .loadDistancePassed l).hasCause .loadMiss = true ∧
    (after .loadDistancePassed l).gate.offerTimer = .paused 6000000 ∧
    ((after .loadDistancePassed l).halt.history.head?).map Episode.subject = some (.ticket 7) ∧
    same (exec .loadDistancePassed early) (done early) = true := by decide +kernel

theorem test_EntryEyeMeasuresTheCar :
    let l := gateAt .loading open0
    let m := gated (fun g => { g with state := .measuring, measCount := 340, settleCount := 10 }) open0
    let broken (s : State) := { s with inputs := { s.inputs with entryEye := true, heightEye := true } }
    (l.conv.state ≠ .stopped ∧ l.ticket? 7 = some (ticket 7 .paid .atGate)) ∧
    ((after .entryEyeBreak (broken l)).track.roster.map (fun c => (c.ticket, c.front, c.flags.tall))) =
      [(7, 0, true)] ∧
    (after .entryEyeBreak l).gate.state = .measuring ∧
    ((after .entryEyeBreak l).ticket? 7).map Ticket.state = some .riding ∧
    m.gate.measCount + m.gate.settleCount ≤ m.settings.timing.maxLen ∧
    (after .entryEyeBreak m).gate.measCount = 350 ∧ (after .entryEyeBreak m).gate.settleCount = 0 ∧
    (gateAt .offer open0).causesFit ∧
    (after .entryEyeBreak (gateAt .offer open0)).hasCause .entryIntrusion = true ∧
    (after .entryEyeBreak (gateAt .spacing open0)).halt.state = .stopped ∧
    (after .entryEyeBreak (gateAt (.held .unpaid) open0)).gate.state = .held .unpaid ∧
    (after .entryEyeRestore (broken m)).gate.restoreCount = 340 ∧
    (after .entryEyeRestore (broken m)).gate.settleCount = 0 ∧
    (after .entryEyeRestore (stoppedBy .slip (broken m))).track.moved = true := by decide +kernel

theorem test_MeasuringFixesLengthAndFlags :
    let m (count : Nat) := gated (fun g => { g with state := .measuring, restoreCount := count, settleCount := 8 })
      (riding (car 7 258 none) open0)
    let far := gated (fun g => { g with state := .measuring, measCount := 351 }) (riding (car 7 360 none) open0)
    let under (s : State) := { s with inputs := { s.inputs with entryEye := true, widthEye := true } }
    (m 200).track.roster = [] ++ [car 7 258 none] ∧
    (m 200).settings.timing.settle ≤ (m 200).gate.settleCount ∧
    ((258 : Int) - 200 < 60) ∧ (after .settleReached (m 200)).gate.state = .spacing ∧
    ((after .settleReached (m 200)).track.roster.map (fun c => (c.length, c.flags.short))) =
      [(some 200, false)] ∧
    ((after .settleReached (gated (fun g => { g with restoreCount := 149 })
      (setRoster [car 7 209 none] (m 0)))).track.roster.map (fun c => (c.length, c.flags.short))) =
      [(some 150, true)] ∧
    far.causesFit ∧ far.settings.timing.maxLen + 1 ≤ far.gate.measCount ∧
    (after .maxLenReached far).hasCause .tailgate = true ∧
    (after .maxLenReached far).gate.measCount = 351 ∧
    ((after .maxLenReached far).halt.history.head?).map Episode.subject = some (.ticket 7) ∧
    ((after .heightEyeBreak (under (m 0))).track.roster.map (fun c => (c.flags.tall, c.flags.wide))) =
      [(true, true)] ∧
    ((after .widthEyeBreak (under (m 0))).track.roster.map (fun c => (c.flags.tall, c.flags.wide))) =
      [(false, true)] ∧
    (m 0).inputs.entryEye = false ∧ (after .heightEyeBreak (m 0)).inputs.heightEye = true ∧
    ((after .heightEyeBreak (m 0)).track.roster.map (fun c => c.flags.tall)) = [false] ∧
    (after .heightEyeRestore (after .heightEyeBreak (m 0))).inputs.heightEye = false ∧
    (after .widthEyeRestore (under (m 0))).inputs.widthEye = false := by decide +kernel

theorem test_TheConsoleDecides :
    let g (r : HoldReason) := gated (fun g => { g with state := .held r })
      (gateAt .offer (selling open0))
    let u := gated (fun g => { g with state := .held .unpaid, atGate := some 7 })
      (addTicket (ticket 7 .unpaid .atGate) (selling open0))
    let e := g .offerExpired
    let m := gated (fun g => { g with state := .held .mergeCheck, merge := [9], mergeCheck := true })
      (addTicket (ticket 9 .paid .merged) (selling open0))
    let q := gated (fun g => { g with laneQueues := #v[[8], [], []], state := .spacing })
      (addTicket (ticket 8 .paid .laneQueued) (selling open0))
    let console (c : Instr) (s : State) := reply c .console s
    e.takes .console ∧ e.mode ≠ .lockout ∧
    (e.gate.state = .held .offerExpired ∧ e.gate.atGate = some 7) ∧
    console (.retry .console 0 [0]) e = [0, 0, 7] ∧
    (after (.retry .console 0 [0]) e).gate.state = .offer ∧
    console (.wave .console 0 [0]) e = [8] ∧ console (.sell .console 0 [0]) e = [8] ∧
    console (.remove .console 0 [0]) e = [0, 0, 7] ∧
    (after (.remove .console 0 [0]) e).ticket? 7 = none ∧
    console (.retry .console 0 [0]) m = [0, 0, 9] ∧
    (after (.retry .console 0 [0]) m).gate.mergeCheck = false ∧
    console (.remove .console 0 [0]) m = [0, 0, 9] ∧ console (.wave .console 0 [0]) m = [8] ∧
    console (.sell .console 0 [0]) m = [8] ∧
    console (.remove .console 0 [0]) (gated (fun g => { g with merge := [] }) m) = [7] ∧
    console (.retry .console 0 [0]) u = [8] ∧ console (.wave .console 0 [0]) u = [0, 0, 7] ∧
    ((after (.wave .console 0 [0]) u).ticket? 7).map Ticket.kind = some .waved ∧
    console (.sell .console 0 [32]) u = [4] ∧ console (.sell .console 0 [31]) u = [12] ∧
    console (.sell .console 0 [1]) u = [12] ∧
    console (.sell .console 0 [0]) u = [0, 0, 1, 4, 176, 0] ∧
    ((after (.sell .console 0 [0]) u).ticket? 1).map Ticket.kind = some .consoleSold ∧
    console (.remove .console 0 [0]) u = [0, 0, 7] ∧
    console (.retry .console 0 [0]) q = [8] ∧ console (.wave .console 0 [0]) q = [8] ∧
    console (.sell .console 0 [0]) q = [8] ∧ console (.remove .console 0 [0]) q = [8] ∧
    console (.place .console 0 (u16 8)) (mergeFilled 11 q) = [0, 0, 8] ∧
    console (.place .console 0 (u16 8)) (mergeFilled 12 q) = [6] ∧
    console (.place .console 0 (u16 7)) q = [7] ∧ console (.place .console 0 (u16 9)) m = [7] := by
  decide +kernel

/-! ## The roster -/

theorem test_PulsesAdvanceEveryCar :
    let s := riding (car 7 3009 (some 200)) { open0 with conv := { open0.conv with mark := some 0, samples := [1, 2, 3, 4] } }
    let p (n : Nat) (x : State) := after (.encoderPulse n) x
    let slip := setRoster [car 7 3010 (some 200)] s
    let l := gated (fun g => { g with state := .loading, loadCount := 79 }) s
    let m (b : Bool) := gated (fun g => { g with state := .measuring, measCount := 349, settleCount := 6 })
      { s with inputs := { s.inputs with entryEye := b } }
    (∀ c ∈ s.track.roster, c.front < 16383) ∧
    (∀ c ∈ s.track.roster, (c.front : Int) + 1 - 200 ≤ 3000 + 10) ∧
    ((p 49 s).track.roster.map Car.front = [3010] ∧ (p 49 s).conv.pulseTotal = 1 ∧ (p 49 s).now = 49) ∧
    (p 49 s).conv.samples = [50, 1, 2, 3] ∧ (p 70000 s).conv.samples = [65535, 1, 2, 3] ∧
    (p 49 { s with conv := { s.conv with mark := none } }).conv.samples = [1, 2, 3, 4] ∧
    (p 49 s).conv.mark = some 49 ∧ (p 49 s).hasCause .slip = false ∧
    (p 49 l).gate.loadCount = 80 ∧ (p 49 (m true)).gate.measCount = 350 ∧
    (p 49 (m false)).gate.settleCount = 7 ∧ (p 49 (m false)).gate.state = .measuring ∧
    (p 49 slip).hasCause .slip = true ∧
    (p 49 slip).track.roster.map Car.exitMark = [true] := by decide +kernel

theorem test_CheckpointBreaksAreVerified :
    let geo (s : State) : State := { s with settings := { s.settings with
      geometry := { Geometry.default with checkpoints := [⟨1200, 20⟩] } } }
    let s (cars : List Car) := geo (setRoster cars open0)
    let two := s [car 6 1500 (some 200), car 7 1180 (some 200)]
    let tight := s [car 6 1400 (some 200), car 7 1220 (some 200)]
    let marked := s [{ car 6 1300 (some 200) with marks := #v[true, false, false, false] }]
    let b := Instr.checkpointEyeBreak 0
    let rest (c : Conveyor → Conveyor) (x : State) := { x with conv := c x.conv }
    open0.settings.geometry.checkpoints.length ≤ 0 ∧
    (after b open0).inputs.checkpointEyes[(0 : Checkpoint)] = true ∧
    (after (.checkpointEyeRestore 0) (after b open0)).inputs.checkpointEyes[(0 : Checkpoint)] = false ∧
    two.settings.geometry.checkpoints[0]? = some ⟨1200, 20⟩ ∧ two.conv.state ≠ .stopped ∧
    ((after b two).track.roster.map (fun c => (c.front, c.marks[0]))) = [(1500, false), (1200, true)] ∧
    (after b two).halt.state = .running ∧
    ((after b tight).track.roster.map (fun c => (c.front, c.marks[0]))) = [(1400, false), (1220, true)] ∧
    tight.causesFit ∧ (after b tight).hasCause .crowding = true ∧
    (after b marked).halt.state = .running ∧ (after b (s [])).hasCause .ghost = true ∧
    (after b (stoppedBy .slip two)).track.moved = true ∧
    (after (.checkpointEyeRestore 0) (stoppedBy .slip two)).track.moved = true ∧
    (after (.checkpointEyeRestore 0) two).track.moved = false ∧
    same (exec b (rest (fun _ => Conveyor.start) (s []))) (done { (rest (fun _ => Conveyor.start) (s [])) with
      inputs := { open0.inputs with checkpointEyes := #v[true, false, false, false] } }) = true ∧
    (rest (fun _ => Conveyor.start) two).halt.state = .running := by decide +kernel

theorem test_ExitBreaksAndRestores :
    let s (cars : List Car) := cars.foldl (fun s c => riding c s) open0
    let inside := s [car 7 2990 (some 200)]
    let gone := { car 7 3210 (some 200) with exitMark := true }
    let out := s [{ gone with front := 3190 }, { car 8 2000 (some 100) with exitMark := false }]
    (inside.conv.state ≠ .stopped ∧ inside.causesFit ∧ inside.episodesFit) ∧
    ((after .exitEyeBreak inside).track.roster.map Car.exitMark) = [true] ∧
    (after .exitEyeBreak inside).halt.state = .running ∧
    (after .exitEyeBreak (s [])).hasCause .ghost = true ∧
    (after .exitEyeBreak (s [{ gone with front := 3100 }])).halt.state = .running ∧
    ((out.track.roster.map (fun c => c.ticket)).Nodup) ∧
    ((after .exitEyeRestore out).track.roster.map Car.ticket) = [8] ∧
    (after .exitEyeRestore out).ticket? 7 = none ∧
    ((after .exitEyeRestore (setRoster [{ gone with front := 3189 }] out)).track.roster.map Car.ticket) = [7] ∧
    ((held out).halt.state = .holding ∧ (held out).causesFit ∧ (held out).episodesFit) ∧
    (after .exitEyeRestore (held out)).halt.state = .running ∧
    ((after .exitEyeRestore (held out)).halt.history.head?).map Episode.closing =
      some (some (⟨0, 0⟩, .auto)) := by decide +kernel

theorem test_ConfirmRosterClearsTheMovedFlag :
    let s := stoppedBy .rosterMoved { open0 with track := ⟨[], true⟩ }
    let c : Instr := .confirmRoster .console 4 []
    s.takes .console ∧ reply c .console s = [0] ∧ (after c s).track.moved = false ∧
    reply c .console open0 = [8] ∧ reply c .console (inMode .lockout s) = [11] := by decide +kernel

theorem test_RemoveCarTakesACarOut :
    let s := stoppedBy .slip (riding (car 8 100 none) (riding (car 7 700 (some 200)) open0))
    let c (n : Nat) : Instr := .removeCar .console 4 (u16 n)
    s.takes .console ∧ reply (c 7) .console open0 = [8] ∧ reply (c 65535) .console s = [7] ∧
    reply (c 7) .console s = [0, 0, 7] ∧ ((after (c 7) s).track.roster.map Car.ticket) = [8] ∧
    (after (c 7) s).ticket? 7 = none ∧
    ((after (c 7) s).credits.map Credit.code) = [7] := by decide +kernel

theorem test_GeometryTimingAndStepsAreWritten :
    let s := inMode .closed open0
    let g (pos tol : Nat) : Geometry := ⟨8000, 50, 500, [⟨pos, tol⟩]⟩
    let set (x : Geometry) : Instr := .setGeometry .site 0 (geometryBody x)
    let time (x : Timing) : Instr := .setTiming .site 0 (timingBody x)
    let steps (a b c v : Nat) : Instr := .setSpeedSteps .site 0 (stepsBody ⟨a, b, c, #v[100, 1000, v, 100]⟩)
    let d := Timing.default
    s.takes .site ∧ reply (set (g 401 50)) .site s = [0] ∧
    reply (set (g 400 50)) .site s = [4] ∧ reply (set (g 7900 50)) .site s = [4] ∧
    reply (set (g 7899 50)) .site s = [0] ∧ reply (set (g 401 51)) .site s = [4] ∧
    reply (set (g 401 50)) .site open0 = [8] ∧ reply (set (g 401 50)) .site (saving 0 s) = [5] ∧
    (after (set (g 401 50)) s).settings.geometry = g 401 50 ∧
    reply (set ⟨200, 2, 10, []⟩) .site s = [0] ∧ reply (set ⟨199, 2, 10, []⟩) .site s = [4] ∧
    reply (time { d with pendingTime := 30, maxLen := 600, pitch := 100 }) .site open0 = [0] ∧
    reply (time { d with pendingTime := 29 }) .site s = [4] ∧
    reply (time { d with nominalPeriod := 65535 }) .site s = [0] ∧
    reply (time { d with nominalPeriod := 499 }) .site s = [4] ∧
    reply (time { d with maxLen := 149 }) .site s = [4] ∧
    reply (time { d with minLen := 300, maxLen := 299 }) .site s = [4] ∧
    reply (time d) .site (saving 0 s) = [5] ∧
    (after (time { d with nominalPeriod := 500 }) s).out.avgPeriod = 500 ∧
    s.conv.samples = [] ∧ reply (steps 1 2 24 1000) .site s = [0] ∧
    reply (steps 0 2 24 1000) .site s = [4] ∧
    reply (steps 2 2 24 1000) .site s = [4] ∧ reply (steps 1 2 25 1000) .site s = [4] ∧
    reply (steps 1 2 24 1001) .site s = [4] ∧ reply (steps 1 2 24 99) .site s = [4] ∧
    reply (steps 1 2 24 1000) .site (saving 0 s) = [5] := by decide +kernel

/-! ## The conveyor and its pace -/

theorem test_ConveyorTimersExpire :
    let cv (f : Conveyor → Conveyor) (s : State) : State := { s with conv := f s.conv }
    let warn := cv (fun c => { c with state := .warning, warnTimer := .running 1, stallTimer := .stopped }) open0
    let rest (s : State) := cv (fun c => { c with state := .stopping, restTimer := .running 1, stallTimer := .stopped
                                                  samples := [5], mark := some 3 }) s
    let park := cv (fun c => { c with parkTimer := .running 1 }) open0
    (after .warnTimerExpiry warn).conv.state = .running ∧
    (after .warnTimerExpiry warn).conv.stallTimer = .running 200000 ∧
    (rest (stoppedBy .slip open0)).runDemand = false ∧
    (after .atRestTimerExpiry (rest (stoppedBy .slip open0))).conv.state = .stopped ∧
    (after .atRestTimerExpiry (rest (stoppedBy .slip open0))).conv.samples = [] ∧
    (rest open0).runDemand = true ∧ (after .atRestTimerExpiry (rest open0)).conv.state = .warning ∧
    (after .atRestTimerExpiry (rest open0)).out.horn = true ∧
    open0.causesFit ∧ open0.halt.state ≠ .stopped ∧
    (after .stallTimerExpiry open0).hasCause .conveyorStall = true ∧
    (after .stallTimerExpiry open0).conv.state = .stopping ∧
    (held open0).causesFit ∧ (after .stallTimerExpiry (held open0)).halt.state = .stopped ∧
    park.offerWanted = false ∧ (after .parkTimerExpiry park).conv.parked = true ∧
    (after .parkTimerExpiry park).conv.restTimer = .running 100000 := by decide +kernel

theorem test_PaceFollowsTheRecords :
    let s := riding (car 7 100 none) { open0 with conv := { open0.conv with samples := [500, 501] } }
    let slow := updateTicket 7 (fun t => { t with cap := 600 }) s
    let o (k : Nat) := (after .tireSwitchOpens (mergeFilled k s)).out
    (after .tireSwitchOpens s).mode ≠ .lockout ∧ (o 0).avgPeriod = 500 ∧ (o 2).step = 0 ∧
    (o 3).step = 1 ∧
    (o 5).step = 1 ∧ (o 6).step = 2 ∧ (o 8).step = 2 ∧ (o 9).step = 3 ∧ (o 9).depth = 9 ∧
    (o 9).speedReference = 1000 ∧ (o 0).speedReference = 550 ∧ (o 9).conveyorRun = true ∧
    (after .tireSwitchOpens (mergeFilled 9 slow)).out.speedReference = 600 ∧
    (after .tireSwitchOpens (stoppedBy .slip s)).out.speedReference = 0 ∧
    (after .tireSwitchOpens (stoppedBy .slip s)).out.avgPeriod = 5000 := by decide +kernel

/-! ## The wash stations -/

theorem test_LeadAndPointsFollowThePace :
    let st : StationCfg := { foam with latency := 401, leadMax := 40 }
    (0 : Nat) < 65535 ∧ leadOf st 1000 = 40 ∧ leadOf st 1003 = 40 ∧ leadOf st 10025 = 4 ∧
    leadOf st 10024 = 5 ∧
    leadOf st 65535 = 1 ∧ onPointOf st 1000 = 550 ∧ offPointOf st 1000 = 575 ∧
    onPointOf { st with offset := 5 } 1000 = 0 := by decide +kernel

theorem test_SwitchedStationsServeDueCars :
    let s := stationed 3 foam (riding (car 9 589 (some 200)) (riding (car 8 590 (some 200))
      (riding (car 7 815 (some 200)) (riding (car 6 900 (some 200)) open0))))
    let active := updateCar 6 (fun c => c.setStatus 3 .active) s
    let tall := stationed 3 { foam with exclTall := true } (updateCar 8 (fun c =>
      { c with flags := ⟨true, false, false⟩ }) s)
    (s.station 3).kind = .switched ∧ s.halt.state = .running ∧ s.mode ≠ .lockout ∧
    (held s).halt.state = .holding ∧
    ((evalStation 3 s).track.roster.map (fun c => c.status 3)) = [.missed, .missed, .active, .pending] ∧
    ((evalStation 3 active).track.roster.map (fun c => c.status 3)) = [.done, .missed, .active, .pending] ∧
    ((evalStation 3 tall).track.roster.map (fun c => c.status 3)) = [.missed, .missed, .skipped, .pending] ∧
    (evalStation 3 (held s)).track.roster = s.track.roster ∧
    ((stationed 3 { foam with enabled := false } s).qualifies 3 (car 8 590 none) = false) := by decide +kernel

theorem test_ArmsServeOneCarAtATime :
    let arm (a : ArmState) (s : State) := setMachine 3 { StationMachine.start with arm := a } (stationed 3 brush s)
    let empty := arm .stowed (riding (car 7 589 (some 200)) open0)
    let due := arm .stowed (riding (car 8 590 none) (riding (car 7 700 (some 200)) open0))
    let serve (a : ArmState) (front : Nat) (behind : List Car) :=
      arm a (behind.foldl (fun s c => riding c s) (riding ((car 7 front (some 200)).setStatus 3 .active) open0))
    let out (s : State) : State := { s with inputs := { s.inputs with stowed := vset s.inputs.stowed 2 false } }
    let st (s : State) := (((evalStation 3 s).track.roster.map (fun c => c.status 3)), ((evalStation 3 s).machine 3).arm)
    (empty.station 3).kind = .arm ∧ empty.halt.state = .running ∧ st empty = ([.pending], .stowed) ∧
    (∀ c ∈ due.track.roster, due.qualifies 3 c = true ∧ due.windowOpen 3 c = true) ∧
    st due = ([.active, .pending], .advancing) ∧
    ((evalStation 3 due).machine 3).advanceTimer = .running 100000 ∧
    st (serve .engaged 814 []) = ([.active], .engaged) ∧
    st (serve .advancing 814 []) = ([.active], .advancing) ∧
    st (out (serve .engaged 815 [])) = ([.done], .withdrawing) ∧
    st (serve .engaged 815 []) = ([.done], .stowed) ∧
    ((evalStation 3 (out (serve .engaged 815 []))).machine 3).withdrawTimer = .running 200000 ∧
    st (serve .engaged 815 [car 8 600 none]) = ([.done, .active], .engaged) ∧
    st (out (serve .advancing 815 [])) = ([.missed], .withdrawing) := by decide +kernel

theorem test_ArmsMoveAndFault :
    let m (f : StationMachine → StationMachine) := setMachine 3 (f StationMachine.start) (stationed 3 brush open0)
    let arm (a : ArmState) := m (fun x => { x with arm := a })
    let opens (s : State) := ((after (.stowedSwitchOpens 2) s).machine 3).arm
    let closes (s : State) := ((after (.stowedSwitchCloses 2) s).machine 3).arm
    let adv (b : Bool) := m (fun x => { x with arm := .advancing, advanceTimer := .running 1, opened := b, trip := 4 })
    let wd := m (fun x => { x with arm := .withdrawing, withdrawTimer := .running 1 })
    let stuck := setMachine 3 ⟨.fault, .stopped, .stopped, 0, false⟩ (stoppedBy .armStuck (arm .stowed))
    (arm .stowed).armOf 2 = some 3 ∧ (arm .stowed).causesFit ∧ opens (arm .stowed) = .fault ∧
    (after (.stowedSwitchOpens 2) (arm .stowed)).hasCause .armStuck = true ∧
    ((after (.stowedSwitchOpens 2) (arm .advancing)).machine 3).opened = true ∧
    opens (arm .engaged) = .engaged ∧
    opens (arm .withdrawing) = .withdrawing ∧ opens (arm .fault) = .fault ∧
    closes (arm .withdrawing) = .stowed ∧
    closes (arm .stowed) = .stowed ∧ closes (arm .advancing) = .advancing ∧
    closes (arm .engaged) = .engaged ∧
    closes stuck = .stowed ∧ (after (.stowedSwitchCloses 2) stuck).hasCause .armStuck = false ∧
    ((after (.advanceTimerExpiry 3) (adv true)).machine 3).arm = .engaged ∧
    ((after (.advanceTimerExpiry 3) (adv true)).machine 3).trip = 0 ∧
    ((after (.advanceTimerExpiry 3) (adv false)).machine 3).arm = .fault ∧
    ((after (.withdrawTimerExpiry 3) wd).machine 3).arm = .fault ∧
    (after (.withdrawTimerExpiry 3) wd).halt.state = .stopped := by decide +kernel

theorem test_TripsAndJogs :
    let s (n : Nat) := setMachine 3 { StationMachine.start with arm := .engaged, trip := n }
      (stationed 3 brush (riding ((car 7 700 (some 200)).setStatus 3 .active) open0))
    let x (c : Fin 1024) : Instr := .motorCurrentSample 2 c
    let off := stationed 3 brush open0
    let stop := stationed 4 foam (stationed 3 brush (stoppedBy .slip open0))
    let jog (j n : Nat) : Instr := .jog .console 0 (u8 j ++ u8 n)
    let jogging := { stop with stn := { stop.stn with jog := some ⟨4, .running 1⟩ } }
    (s 4).armOf 2 = some 3 ∧ (s 4).supervised 3 = true ∧ off.supervised 3 = false ∧
    (after (x 1023) off).inputs.motorCurrent[(2 : Channel)] = 1023 ∧
    ((after (x 1023) off).machine 3).trip = 0 ∧
    ((after (x 501) (s 3)).machine 3).trip = 4 ∧ ((after (x 500) (s 3)).machine 3).trip = 0 ∧
    (s 4).causesFit ∧ (after (x 501) (s 4)).hasCause .armOverload = true ∧
    ((after (x 501) (s 4)).machine 3).trip = 0 ∧
    (after (.tripCountReached 3) (s 5)).hasCause .armOverload = true ∧
    ((after (.tripCountReached 3) (s 5)).machine 3).trip = 0 ∧
    stop.takes .console ∧ reply (jog 4 1) .console open0 = [8] ∧
    reply (jog 4 1) .console { stop with inputs := { stop.inputs with chainClosed := false } } = [8] ∧
    reply (jog 4 1) .console jogging = [5] ∧ reply (jog 5 1) .console stop = [8] ∧
    reply (jog 4 10) .console stop = [0] ∧ reply (jog 3 1) .console stop = [0] ∧
    (after (jog 4 10) stop).stn.jog = some ⟨4, .running 1000000⟩ ∧
    reply (.jogStop .console 0 []) .console jogging = [0, 4] ∧
    (after (.jogStop .console 0 []) jogging).stn.jog = none ∧
    (after .jogTimerExpiry jogging).stn.jog = none := by decide +kernel

theorem test_StationsAreWritten :
    let s := stationed 5 brush (inMode .closed open0)
    let set (j : StationIx) (st : StationCfg) : Instr := .setStation .site 0 (stationBody j st)
    let other : StationCfg := { brush with firstLine := 7, secondLine := 8, channel := 3, tripCount := 50 }
    let away := { s with inputs := { s.inputs with stowed := vset s.inputs.stowed 3 false } }
    s.takes .site ∧ reply (set 3 other) .site open0 = [8] ∧
    reply (set 3 { other with offset := 2986 }) .site s = [4] ∧
    reply (set 3 { other with offset := 2985 }) .site s = [0] ∧
    reply (set 3 { other with secondLine := 7 }) .site s = [4] ∧
    reply (set 3 { other with firstLine := 6 }) .site s = [10] ∧
    reply (set 3 { other with channel := 2 }) .site s = [10] ∧
    reply (set 3 { other with channel := 2, enabled := false }) .site s = [0] ∧
    reply (set 3 other) .site (saving 0 s) = [5] ∧
    reply (set 3 other) .site { s with stn := { s.stn with jog := some ⟨3, .running 1⟩ } } = [5] ∧
    (after (set 3 other) s).station 3 = other ∧ s.causesFit ∧
    (after (set 3 other) s).machine 3 = ⟨.stowed, .stopped, .stopped, 0, false⟩ ∧
    ((after (set 3 other) away).machine 3).arm = .fault ∧
    (after (set 3 other) away).hasCause .armStuck = true := by decide +kernel

/-! ## Halts -/

theorem test_CausesMoveTheHaltState :
    let s := open0
    let st := stoppedBy .slip s
    (st.hasCause .slip = true ∧ raiseCause .slip .none st = st) ∧ s.hasCause .slip = false ∧
    (raiseCause .slip (.ticket 7) s).halt.state = .stopped ∧
    (raiseCause .slip (.ticket 7) s).halt.history = [⟨2, .slip, 0, ⟨0, 0⟩, 0, .ticket 7, none⟩, past] ∧
    has (.halt .slip 2) (.lane 2) (raiseCause .slip (.ticket 7) s) = true ∧
    (raiseCause .slip .none { s with halt := { s.halt with counter := 255 } }).halt.counter = 0 ∧
    (raiseCause .exitBlocked .none s).halt.state = .holding ∧
    (raiseCause .exitBlocked .none st).halt.state = .stopped ∧
    (raiseCause .ghost .none (held s)).halt.state = .stopped ∧
    ((raiseCause .ghost .none (held s)).halt.history.head?).map Episode.further = some 128 ∧
    (raiseCause .ghost .none st).halt.causes = 0xC0 := by decide +kernel

theorem test_StationsReactToTheHaltState :
    let s (a : ArmState) (t : Timer) := setMachine 3 { StationMachine.start with arm := a, withdrawTimer := t }
      (stationed 3 brush (riding ((car 7 700 (some 200)).setStatus 3 .active) open0))
    let cut (front : Nat) := setRoster [(car 7 front (some 200)).setStatus 3 .interrupted] (s .stowed .stopped)
    ((s .advancing .stopped).machine 3).arm = .advancing ∧
    ((stopStations (s .advancing .stopped)).machine 3).arm = .stowed ∧
    ((stopStations (s .engaged .stopped)).track.roster.map (fun c => c.status 3)) = [.interrupted] ∧
    ((stopStations (s .withdrawing (.paused 9))).machine 3).withdrawTimer = .running 9 ∧
    ((holdStations (s .withdrawing (.running 9))).machine 3).withdrawTimer = .paused 9 ∧
    (cut 814).track.roster[0]? = some ((car 7 814 (some 200)).setStatus 3 .interrupted) ∧
    ((judgeStations (cut 814)).track.roster.map (fun c => c.status 3)) = [.pending] ∧
    ((judgeStations (cut 815)).track.roster.map (fun c => c.status 3)) = [.missed] := by decide +kernel

theorem test_HaltAndResume :
    let h (p : Port) : Instr := .halt p 0 []
    let c : Instr := .resume .console 0 []
    let s := stoppedBy .consoleStop open0
    let say (x : State) := reply c .console x
    let block := { s with halt := { s.halt with causes := 0x8004 }, inputs := { s.inputs with exitEye := true } }
    open0.takes .console ∧ open0.takes .site ∧ open0.causesFit ∧ open0.episodesFit ∧
    reply (h .console) .console open0 = [0, 2, 2] ∧
    (after (h .console) open0).hasCause .consoleStop = true ∧
    reply (h .site) .site (held open0) = [0, 2, 2] ∧
    (after (h .site) open0).hasCause .siteStop = true ∧
    say open0 = [8] ∧ say { s with track := ⟨[], true⟩ } = [15] ∧
    say { s with inputs := { s.inputs with chainClosed := false } } = [16] ∧
    say { s with inputs := { s.inputs with driveFault := true } } = [16] ∧
    say (stoppedBy .armStuck open0) = [16] ∧
    ((s.halt.history.head?).map Episode.closing = some none ∧ s.hasCause .exitBlocked = false ∧
      s.inputs.exitEye = false) ∧
    say s = [0, 2, 0] ∧ (after c s).halt.state = .running ∧ (after c s).halt.causes = 0 ∧
    has (.resumed 2) .site (after c s) = true ∧
    ((after c s).halt.history.head?).map Episode.closing = some (some (⟨0, 0⟩, .console)) ∧
    block.hasCause .exitBlocked = true ∧ say block = [0, 2, 1] ∧
    (after c block).halt.state = .holding ∧
    (after c block).halt.causes = 0x8000 := by decide +kernel

theorem test_SafetyInputsAct :
    let s := { open0 with stn := { open0.stn with jog := some ⟨4, .running 1⟩ } }
    let t := after .safetyChainOpens s
    let dead (b : Bool) := { open0 with inputs := { open0.inputs with readback := b, chainClosed := false } }
    let timed := { open0 with halt := { open0.halt with mismatchTimer := .running 1 } }
    s.causesFit ∧ t.halt.state = .stopped ∧ t.hasCause .safetyChain = true ∧ t.stn.jog = none ∧
    t.conv.state = .stopping ∧ t.out.safetyRelay = false ∧ s.inputs.readback = true ∧
    t.halt.mismatchTimer = .running 20000 ∧
    (after .safetyChainOpens { s with inputs := { s.inputs with readback := false } }).halt.mismatchTimer = .stopped ∧
    (after .safetyChainCloses (dead false)).out.safetyRelay = true ∧
    (after .safetyChainCloses (dead false)).halt.mismatchTimer = .running 20000 ∧
    (after .safetyChainCloses (dead true)).halt.mismatchTimer = .stopped ∧
    (after .driveFaultActive s).hasCause .driveFault = true ∧
    (after .driveFaultInactive (after .driveFaultActive s)).inputs.driveFault = false ∧
    (after (.relayReadbackChange false) s).halt.mismatchTimer = .running 20000 ∧
    (after (.relayReadbackChange false) timed).halt.mismatchTimer = .running 1 ∧
    (after (.relayReadbackChange true) timed).halt.mismatchTimer = .stopped ∧
    (after (.relayReadbackChange false) (inMode .lockout timed)).halt.mismatchTimer = .stopped ∧
    timed.mode ≠ .lockout ∧ (after .mismatchTimerExpiry timed).mode = .lockout ∧
    has .lockout (.lane 1) (after .mismatchTimerExpiry timed) = true ∧
    (after .mismatchTimerExpiry timed).conv.state = .stopping ∧
    (after .mismatchTimerExpiry (inMode .lockout timed)).halt.mismatchTimer = .stopped := by decide +kernel

theorem test_LockoutTurnsEveryOutputOff :
    let s := { open0 with halt := { open0.halt with mismatchTimer := .running 1 } }
    (after .mismatchTimerExpiry s).mode = .lockout ∧
    (after .mismatchTimerExpiry s).out.conveyorRun = false ∧
    (after .mismatchTimerExpiry s).out.safetyRelay = false ∧
    (after .tireSwitchOpens s).out.conveyorRun = true ∧
    (after .tireSwitchOpens s).out.safetyRelay = true := by
  decide +kernel

/-! ## Tunnel modes and the settings store -/

theorem test_TheSiteOpensAndCloses :
    let o : Instr := .openTunnel .site 0 []
    let c : Instr := .close .site 0 []
    let idle := mergeFilled 1 (inMode .draining open0)
    open0.takes .site ∧ reply o .site (inMode .closed open0) = [0] ∧
    (after o (inMode .closed open0)).mode = .openMode ∧
    reply o .site idle = [0] ∧ reply o .site open0 = [8] ∧ reply o .site State.reset = [8] ∧
    reply c .site open0 = [1] ∧ (after c open0).mode = .closed ∧
    has .closeDone .site (after c open0) = true ∧
    reply c .site (mergeFilled 1 open0) = [1] ∧ (after c (mergeFilled 1 open0)).mode = .draining ∧
    reply c .site State.reset = [8] ∧ reply c .site (inMode .closed open0) = [8] ∧
    reply c .site idle = [8] ∧
    (after .drainEnd (inMode .draining open0)).mode = .closed ∧
    (after .drainEnd (inMode .draining open0)).conv.state = .stopping ∧
    has .closeDone .site (after .drainEnd (inMode .draining open0)) = true ∧
    same (exec .drainEnd idle) (done idle) = true ∧
    same (exec .drainEnd open0) (done open0) = true := by
  decide +kernel

theorem test_SavesWriteTheStore :
    let w := Instr.rowWriteComplete true
    open0.takes .site ∧ open0.mode ≠ .lockout ∧
    reply (.save .site 0 []) .site (saving 0 open0) = [5] ∧
    reply (.save .site 0 []) .site open0 = [1] ∧
    (after (.save .site 0 []) open0).store.save = some ⟨open0.copySettings, 0⟩ ∧
    (after w (saving 0 open0)).store.marker = .openMarker ∧
    ((after w (saving 0 open0)).store.save.map SaveJob.row) = some 1 ∧
    (after w (saving 1 open0)).store.rowsValid[(0 : Fin 95)] = true ∧
    (after w (saving 95 open0)).store.rowsValid[(94 : Fin 95)] = true ∧
    ((after w (saving 95 open0)).store.save.map SaveJob.row) = some 96 ∧
    (after w (saving 96 State.reset)).mode = .closed ∧
    (after w (saving 96 State.reset)).store.marker = .closed ∧
    (after w (saving 96 open0)).mode = .openMode ∧
    has (.storeDone true) .site (after w (saving 96 open0)) = true ∧
    has (.storeDone false) .site (after (.rowWriteComplete false) (saving 5 open0)) = true ∧
    (after (.rowWriteComplete false) (saving 5 open0)).store.torn = true ∧
    same (exec w open0) (done open0) = true := by decide +kernel

theorem test_DeviceResetStartsThePart :
    let s := stationed 3 brush open0
    let whole := { s with store := { s.store with
      marker := .closed, rowsValid := Vector.replicate 95 true, image := s.copySettings } }
    let torn := { s with store := { s.store with marker := .openMarker } }
    let out := { whole with inputs := { whole.inputs with
      chainClosed := false, driveFault := true, stowed := Vector.replicate 8 false } }
    let t := after .deviceReset out
    whole.store.save = none ∧ (after .deviceReset whole).mode = .closed ∧
    (after .deviceReset whole).settings = s.settings ∧ s.store.marker = .blank ∧
    (after .deviceReset s).mode = .setup ∧ (after .deviceReset s).store.blank = true ∧
    (after .deviceReset torn).store.torn = true ∧
    (after .deviceReset torn).settings = SiteSettings.default ∧
    (saving 5 torn).store.save ≠ none ∧ (saving 5 torn).markerFits ∧
    (after .deviceReset (saving 5 torn)).mode = .setup ∧
    t.halt.causes = 0x4013 ∧ (t.machine 3).arm = .fault ∧ t.out.safetyRelay = false ∧
    (t.port .site).notices = [.halt .powerUp 1] := by decide +kernel

/-! ## Invariants -/

theorem test_invariants_have_states :
    open0.runsOnDemand ∧ (after .tireSwitchOpens open0).linesFollow ∧ open0.causesFit ∧
    open0.episodesFit ∧
    (held open0).causesFit ∧ (stoppedBy .slip open0).episodesFit ∧
    (saving 0 State.reset).markerFits ∧
    open0.creditsFit ∧
    (next? (step { open0 with pending := [.offer] })).isSome = true := by decide +kernel

theorem test_invariants_have_notices : open0.noticesFit := noticesFit_of _ (by decide +kernel)

/-! ## Boundary values of the clauses -/

theorem test_RequestsAreJudgedInOrder_lengths :
    let ok (k : RequestKind) (l : List Nat) : List Bool := l.map k.lengthOk
    ok .setGeometry [5, 6, 7, 9, 18, 19, 21] = [false, true, false, true, true, false, false] ∧
    ok .quote [0, 1, 4, 5] = [false, true, true, false] ∧
    ok .setStation [0, 21, 22, 23] = [false, false, true, false] ∧
    ok .readStatus [0, 1] = [true, false] ∧ ok .readRoster [0, 1, 2] = [false, true, false] ∧
    ok .gateDecide [1, 2, 3] = [false, true, false] ∧ ok .setMenu [2, 3, 4] = [false, true, false] ∧
    ok .pay [3, 4, 5] = [false, true, false] ∧ ok .setPeriod [5, 6, 7] = [false, true, false] ∧
    ok .loadMember [7, 8, 9] = [false, true, false] ∧ ok .setRow [9, 10, 11] = [false, true, false] ∧
    ok .setSpeedSteps [10, 11, 12] = [false, true, false] ∧
    ok .setTiming [23, 24, 25] = [false, true, false] := by decide +kernel

theorem test_RowsMenusAndPeriodsAreWritten_range :
    let s := open0
    s.takes .site ∧ s.mode ≠ .lockout ∧
    reply (.setMenu .site 0 (bytes [2, 4, 28])) .site s = [0] ∧
    reply (.setMenu .site 0 (bytes [3, 4, 28])) .site s = [4] ∧
    reply (.setMenu .site 0 (bytes [255, 4, 28])) .site s = [4] ∧
    reply (.setPeriod .site 0 (bytes [3, 0, 0, 0, 0, 0])) .site s = [0] ∧
    reply (.setPeriod .site 0 (bytes [4, 0, 0, 0, 0, 0])) .site s = [4] := by decide +kernel

theorem test_TagsAreLookedUp_refused :
    let s := selling open0
    let queue (n : Nat) := gated (fun g => { g with laneQueues := #v[List.range' 1 n, [], []] }) s
    let t : Instr := .tag (.lane 0) 0 (u32 21)
    let say (x : State) := reply t (.lane 0) x
    s.takes (.lane 0) ∧ s.mode = .openMode ∧ say (inMode .setup s) = [9] ∧
    say (inMode .closed s) = [9] ∧ say (inMode .draining s) = [9] ∧ say (queue 4) = [6] ∧
    say (queue 3) = [1] ∧ ¬ (crowded 36 s).hasSlot 0 ∧ say (crowded 36 s) = [6] ∧
    say (crowded 35 s) = [1] ∧
    (after t (pendingAt0 .paid none (queue 4))).saleSlot 0 = .pending 7 [1200] (.running 18000000) none := by
  decide +kernel

theorem test_LoadsPlaceMemberEntries_range :
    let s := selling open0
    let say (l : List Nat) := reply (.loadMember .site 0 (bytes l)) .site s
    s.takes .site ∧ say [0, 0, 16, 0, 12, 2, 0, 0] = [0, 0] ∧ say [0, 0, 8, 0, 12, 2, 0, 0] = [4] ∧
    say [0, 0, 0, 8, 4, 2, 0, 0] = [4] ∧ say [0, 0, 0, 0, 5, 2, 0, 0] = [4] ∧
    say [0, 0, 0, 0, 13, 2, 0, 0] = [4] ∧ say [0, 0, 0, 0, 4, 32, 0, 0] = [4] ∧
    say [0, 0, 0, 0, 4, 2, 1, 0] = [0, 0] ∧ say [0, 0, 0, 0, 4, 2, 2, 0] = [4] ∧
    say [0, 0, 0, 0, 4, 2, 0, 2] = [4] := by decide +kernel

/-- The conveyor at rest. -/
def atRest (s : State) : State := { s with conv := Conveyor.start }

theorem test_EntryEyeMeasuresTheCar_stops :
    let m (count settle : Nat) (past : Bool) := gated (fun g => { g with
      state := .measuring, measCount := count, settleCount := settle, tailgated := past })
      (riding (car 7 400 none) open0)
    let b (s : State) := after .entryEyeBreak s
    let r (s : State) := after .entryEyeRestore s
    let h := atRest (held (m 200 3 false))
    let st := stoppedBy .slip (m 200 3 false)
    (m 340 11 false).causesFit ∧ (m 340 11 false).gate.tailgated = false ∧
    (b (m 340 11 false)).hasCause .tailgate = true ∧ (b (m 340 11 false)).gate.measCount = 351 ∧
    (b (m 340 11 false)).gate.tailgated = true ∧ (b (m 340 10 false)).gate.measCount = 350 ∧
    (b (m 340 10 false)).halt.state = .running ∧
    (b (m 351 9 true)).gate.measCount = 351 ∧ (b (m 351 9 true)).gate.settleCount = 0 ∧
    open0.gate.state = .idle ∧ (b open0).hasCause .entryIntrusion = true ∧
    (b open0).gate = open0.gate ∧ (b (atRest open0)).hasCause .entryIntrusion = true ∧
    h.causesFit ∧ h.conv.state = .stopped ∧ (b h).track.moved = true ∧
    (b h).halt.state = .stopped ∧ (b h).hasCause .rosterMoved = true ∧ (r h).track.moved = true ∧
    (r h).hasCause .rosterMoved = true ∧ (r h).gate.restoreCount = 200 ∧
    (b st).track.moved = true ∧ (r st).track.moved = true ∧ (r st).halt.state = .stopped ∧
    (r st).hasCause .rosterMoved = false ∧ (r (held (m 200 3 false))).track.moved = false ∧
    (r (atRest (m 200 3 false))).track.moved = false := by decide +kernel

theorem test_MeasuringFixesLengthAndFlags_at_MaxLen :
    let s (front : Nat) := gated (fun g => { g with state := .measuring, measCount := 351, tailgated := true })
      (stoppedBy .tailgate (riding (car 7 front none) open0))
    let t (front : Nat) := after (.resume .console 0 []) (s front)
    let sp (front : Nat) (s : State) := gated (fun g => { g with state := .spacing })
      (riding (car 7 front (some 200)) { s with inputs := { s.inputs with exitEye := true } })
    (s 409).takes .console ∧ (s 409).track.moved = false ∧ (s 409).hasCause .armStuck = false ∧
    reply (.resume .console 0 []) .console (s 409) = [0, 2, 0] ∧
    (t 409).gate.state = .spacing ∧ (t 409).gate.tailgated = false ∧
    (t 409).track.roster.map (fun c => (c.front, c.length, c.flags.short)) =
      [(409, some 350, false)] ∧ (t 410).gate.state = .idle ∧
    (after (.encoderPulse 9) (sp 258 open0)).gate.state = .spacing ∧
    (after (.encoderPulse 9) (sp 259 open0)).gate.state = .idle ∧
    (after (.encoderPulse 9) (gated (fun g => { g with mergeCheck := true }) (sp 259 open0))).gate.state =
      .held .mergeCheck := by decide +kernel

/-- A gate HELD for a reason with ticket 7 of a kind AT_GATE, and ticket 9 in the merge queue. -/
def heldAt (r : HoldReason) (k : TicketKind) (s : State) : State :=
  gated (fun g => { g with state := .held r, atGate := some 7, merge := [9] })
    (addTicket (ticket 9 .paid .merged) (addTicket (ticket 7 k .atGate) (selling s)))

/-- The merge queue, the ticket AT_GATE and the gate's state. -/
def gateView (s : State) : List Nat × Option Nat × GateState :=
  (s.gate.merge, s.gate.atGate, s.gate.state)

theorem test_TheConsoleDecides_records :
    let u := heldAt .unpaid .unpaid open0
    let e := heldAt .offerExpired .paid open0
    let retry := after (.retry .console 0 [0]) (stoppedBy .slip e)
    let wave := after (.wave .console 0 [255]) (stoppedBy .slip u)
    let q := gated (fun g => { g with laneQueues := #v[[8], [], []], merge := [9] })
      (addTicket (ticket 8 .paid .laneQueued) (addTicket (ticket 9 .paid .merged) open0))
    let place := after (.place .console 0 (u16 8)) (stoppedBy .slip q)
    let code (s : State) (d : Nat) := reply (.frameHeld .console 0x24 1 (bytes [d, 0])) .console s
    gateView retry = ([7, 9], none, .idle) ∧ retry.ticket? 7 = some (ticket 7 .paid .merged) ∧
    gateView wave = ([7, 9], none, .idle) ∧
    wave.ticket? 7 = some { ticket 7 .waved .merged with features := 3, price := 0 } ∧
    place.gate.merge = [9, 8] ∧ place.laneQueue 0 = [] ∧
    (place.ticket? 8).map Ticket.state = some .merged ∧
    code u 4 = [4] ∧ code e 255 = [4] ∧
    code q 4 = [4] ∧ code q 3 = [8] := by decide +kernel

theorem test_TheConsoleDecides_sale :
    let u := stoppedBy .slip (heldAt .unpaid .unpaid open0)
    let sell := after (.sell .console 0 [0]) u
    u.creditsFit ∧ gateView sell = ([1, 9], none, .idle) ∧ sell.ticket? 7 = none ∧
    sell.ticket? 1 = some { ticket 1 .consoleSold .merged with features := 3, origin := .console } ∧
    sell.sales.lastNumber = 1 ∧ sell.sales.totals[(0 : Row)] = ⟨1, 1200⟩ ∧
    sell.ticket? 9 = u.ticket? 9 := by decide +kernel

theorem test_PulsesAdvanceEveryCar_timers :
    let s (c : ConvState) := stationed 3 foam (riding (car 7 589 (some 200)) { open0 with
      conv := { open0.conv with
        state := c, mark := some 0, samples := [1, 2, 3, 4], stallTimer := .running 200
        restTimer := .running 200, warnTimer := .running 200 } })
    let t (c : ConvState) := after (.encoderPulse 100) (s c)
    let sp := gated (fun g => { g with state := .spacing }) (s .running)
    (∀ c ∈ (s .warning).track.roster, c.front < 16383) ∧ (s .running).gate.state = .idle ∧
    (t .warning).conv.samples = [100, 1, 2, 3] ∧ (t .warning).conv.mark = some 100 ∧
    (t .warning).conv.warnTimer = .running 100 ∧ (t .warning).conv.stallTimer = .running 100 ∧
    (t .running).conv.stallTimer = .running 200000 ∧ (t .running).conv.restTimer = .running 100 ∧
    (t .stopping).conv.restTimer = .running 100000 ∧ (t .stopping).conv.stallTimer = .running 100 ∧
    (t .stopped).conv.samples = [1, 2, 3, 4] ∧ (t .stopped).conv.mark = some 0 ∧
    ((t .running).track.roster.map (fun c => (c.front, c.status 3))) = [(590, .active)] ∧
    (after (.encoderPulse 100) sp).gate.state = .idle := by decide +kernel

theorem test_PulsesAdvanceEveryCar_out :
    let lost := (riding (car 8 16382 (some 200)) (riding (car 7 16383 (some 200)) open0))
    let s (b : Bool) := { lost with inputs := { lost.inputs with exitEye := b } }
    let gone (front : Nat) := riding (car 8 2000 (some 200))
      (riding { car 7 front (some 200) with exitMark := true } open0)
    let p (s : State) := after (.encoderPulse 9) s
    (s true).causesFit ∧ ((s true).track.roster.map (fun x => x.ticket)).Nodup ∧
    ((p (s true)).track.roster.map (fun x => (x.ticket, x.front))) = [(8, 16383)] ∧
    (p (s true)).ticket? 7 = none ∧ (p (s true)).hasCause .slip = true ∧
    (p (s true)).halt.state = .stopped ∧
    ((gone 3210).track.roster.map (fun x => x.ticket)).Nodup ∧
    ((p (gone 3209)).track.roster.map (fun x => (x.ticket, x.front))) = [(7, 3210), (8, 2001)] ∧
    ((p (gone 3210)).track.roster.map (fun x => (x.ticket, x.front))) = [(8, 2001)] ∧
    (p (gone 3210)).ticket? 7 = none := by decide +kernel

theorem test_CheckpointBreaksAreVerified_held :
    let geo (s : State) : State := { s with settings := { s.settings with
      geometry := { Geometry.default with checkpoints := [⟨1200, 20⟩] } } }
    let h := atRest (held (geo open0))
    let b := after (.checkpointEyeBreak 0)
    let r := after (.checkpointEyeRestore 0)
    h.causesFit ∧ h.conv.state = .stopped ∧ (b h).track.moved = true ∧ (b h).halt.state = .stopped ∧
    (b h).hasCause .rosterMoved = true ∧
    ((b h).halt.history.head?).map Episode.further = some 0x200 ∧
    (r h).track.moved = true ∧ (r h).hasCause .rosterMoved = true ∧ (r h).halt.state = .stopped ∧
    (r (held (geo open0))).halt.state = .holding := by decide +kernel

theorem test_ExitBreaksAndRestores_results :
    let gone (n front : Nat) (p : Progress) : Car :=
      { (car n front (some 200)).setStatus 23 p with
        exitMark := true, progress := vset (Vector.replicate 24 .skipped) 23 p }
    let s (p : Progress) := riding (gone 7 3190 p) open0
    let r (x : State) := after .exitEyeRestore x
    let result (x : State) := (x.sales.finished[(0 : Lane)]).map Finished.result
    let rest (x : State) := atRest (held x)
    let far := rest (riding (gone 7 3189 .done) open0)
    ((s .done).track.roster.map (fun c => c.ticket)).Nodup ∧
    (s .done).ticket? 7 = some (ticket 7 .paid .riding) ∧ result (r (s .done)) = [.full] ∧
    (r (s .done)).credits = [] ∧ result (r (s .interrupted)) = [.full] ∧
    result (r (s .missed)) = [.partialWash] ∧ result (r (s .pending)) = [.partialWash] ∧
    ((r (s .missed)).credits.map Credit.code) = [7] ∧
    (rest (s .done)).causesFit ∧ (rest (s .done)).episodesFit ∧
    (r (rest (s .done))).halt.state = .running ∧ (r (rest (s .done))).track.moved = false ∧
    ((r (rest (s .done))).halt.history.head?).map Episode.closing =
      some (some (⟨0, 0⟩, .auto)) ∧
    (r far).track.moved = true ∧ (r far).hasCause .rosterMoved = true ∧
    (r (stoppedBy .slip open0)).track.moved = true ∧
    (after .exitEyeBreak far).hasCause .rosterMoved = true ∧
    (after .exitEyeBreak (stoppedBy .slip open0)).track.moved = true := by decide +kernel

theorem test_ExitBreaksAndRestores_block :
    let s (front : Nat) (behind : Nat) := { riding (car 8 behind (some 200))
        (riding { car 7 front (some 200) with exitMark := true } open0) with
      inputs := { open0.inputs with exitEye := true } }
    let p (s : State) := after (.encoderPulse 9) s
    (s 3210 2899).causesFit ∧ (s 3210 2899).inputs.exitEye = true ∧
    (3010 : Int) < (3210 : Int) + 1 - 200 ∧
    (p (s 3210 2899)).halt.state = .holding ∧ (p (s 3210 2899)).hasCause .exitBlocked = true ∧
    (p (s 3210 2899)).conv.state = .stopping ∧
    ((p (s 3210 2899)).halt.history.head?).map Episode.subject = some (.ticket 8) ∧
    (p (s 3210 2898)).halt.state = .running ∧ (p (s 3209 2899)).halt.state = .running := by
  decide +kernel

theorem test_GeometryTimingAndStepsAreWritten_range :
    let s := inMode .closed open0
    let geo (n : Nat) := geometryBody Geometry.default |>.set 5 (BitVec.ofNat 8 n)
    let time (row : Nat) := (timingBody Timing.default).set 15 (BitVec.ofNat 8 row)
    let gap := { Timing.default with minGap := 500 }
    let sp := gated (fun g => { g with state := .spacing }) (riding (car 7 400 (some 200)) open0)
    s.takes .site ∧ reply (.setGeometry .site 0 (geo 0)) .site s = [0] ∧
    reply (.setGeometry .site 0 (geo 1)) .site s = [4] ∧
    reply (.setGeometry .site 0 (geo 5)) .site s = [4] ∧
    reply (.setTiming .site 0 (time 31)) .site s = [0] ∧
    (after (.setTiming .site 0 (time 31)) s).settings.timing.waveRow = 31 ∧
    reply (.setTiming .site 0 (time 32)) .site s = [4] ∧
    sp.conv.samples = [] ∧ reply (.setTiming .site 0 (timingBody gap)) .site sp = [0] ∧
    (after (.setTiming .site 0 (timingBody gap)) sp).gate.state = .spacing := by decide +kernel

theorem test_ConveyorTimersExpire_parking :
    let cv (f : Conveyor → Conveyor) (s : State) : State := { s with conv := f s.conv }
    let warn (park : Nat) := { cv (fun c => { c with state := .warning, warnTimer := .running 1 }) open0 with
      settings := { open0.settings with timing := { Timing.default with parkTime := park } } }
    let parked := cv (fun c => { c with state := .stopping, restTimer := .running 1, parked := true
                                        samples := [5], mark := some 3, stallTimer := .stopped })
    let wanted := gated (fun g => { g with merge := [7] }) (addTicket (ticket 7 .paid .merged) open0)
    let unpaid := gated (fun g => { g with merge := [7] }) (addTicket (ticket 7 .unpaid .merged) open0)
    let close (front : Nat) := setRoster [car 9 front (some 200)] wanted
    let rest (s : State) := after .atRestTimerExpiry (parked s)
    let demand (s : State) := (s.runDemand, s.offerWanted)
    demand open0 = (true, false) ∧ demand wanted = (true, true) ∧ demand unpaid = (true, false) ∧
    demand (close 259) = (true, false) ∧ demand (close 260) = (true, true) ∧
    demand (stoppedBy .slip wanted) = (false, false) ∧ demand (inMode .closed wanted) = (false, false) ∧
    demand (parked wanted) = (false, true) ∧
    demand (setRoster ((List.range 20).map (fun n => car (20 + n) (9000 - n * 300) (some 200))) wanted) =
      (true, false) ∧
    (after .warnTimerExpiry (warn 120)).conv.parkTimer = .running 12000000 ∧
    (after .warnTimerExpiry (warn 0)).conv.parkTimer = .stopped ∧
    (rest open0).conv.state = .stopped ∧ (rest open0).conv.parked = true ∧
    (rest open0).conv.samples = [] ∧ (rest open0).conv.mark = none ∧
    (rest wanted).conv.state = .warning ∧ (rest wanted).conv.parked = false ∧
    (rest wanted).conv.warnTimer = .running 300000 ∧
    testPark State.reset (warn 120) = warn 120 ∧
    (testPark State.reset open0).conv.parkTimer = .running 12000000 ∧
    (testPark open0 (cv (fun c => { c with parkTimer := .running 5 }) wanted)).conv.parkTimer =
      .running 5 ∧
    (testPark open0 (cv (fun c => { c with parkTimer := .running 5 }) State.reset)).conv.parkTimer =
      .stopped := by decide +kernel

theorem test_SwitchedStationsServeDueCars_rest :
    let s := stationed 3 foam (riding (car 8 590 (some 200)) (riding ((car 7 815 (some 200)).setStatus 3 .active) open0))
    let tall := stationed 3 { foam with exclTall := true } (updateCar 8 (fun c =>
      { c with flags := ⟨true, false, false⟩ }) s)
    let late := setRoster [car 7 815 (some 200)] s
    let st (s : State) := s.track.roster.map (fun c => c.status 3)
    let two := stationed 4 { foam with offset := 610 } s
    (stoppedBy .slip s).halt.state = .stopped ∧ (inMode .lockout s).mode = .lockout ∧
    st (evalStation 3 (stoppedBy .slip s)) = [.active, .pending] ∧
    st (evalStation 3 (stoppedBy .slip late)) = [.missed] ∧
    st (evalStation 3 (inMode .lockout tall)) = [.active, .skipped] ∧
    (held s).mode ≠ .lockout ∧ evalStation 3 (held late) = held late ∧
    st (evaluate s) = [.done, .active] ∧
    ((evaluate two).track.roster.map (fun c => (c.status 3, c.status 4))) =
      [(.done, .active), (.active, .pending)] := by decide +kernel

theorem test_ArmsServeOneCarAtATime_events :
    let on (j : StationIx) (s : State) := stationed j { foam with offset := 0, pre := 0 } s
    let st (j : StationIx) (s : State) := s.track.roster.map (fun c => c.status j)
    let l := on 3 (gated (fun g => { g with state := .loading, atGate := some 7 })
      (addTicket (ticket 7 .paid .atGate) open0))
    let m (eye : Bool) := gated (fun g => { g with state := .measuring, restoreCount := 200, settleCount := 8 })
      (on 3 (riding (car 7 258 none) { open0 with inputs := { open0.inputs with entryEye := eye } }))
    let geo (s : State) : State := { s with settings := { s.settings with
      geometry := { Geometry.default with checkpoints := [⟨1200, 20⟩] } } }
    let k := stationed 3 { foam with offset := 1200 } (geo (riding (car 7 1180 none) open0))
    let r := on 3 (stoppedBy .slip (riding (car 8 400 (some 200)) (riding (car 7 700 (some 200)) open0)))
    let slow := { foam with offset := 1200, latency := 400, leadMax := 40 }
    let p := stationed 3 slow (riding (car 7 1184 (some 200)) { held open0 with conv :=
      { Conveyor.start with state := .stopping, restTimer := .running 1, samples := [500], mark := some 0 } })
    l.inputs.exitEye = false ∧ st 3 (after .entryEyeBreak l) = [.active] ∧
    st 3 (after .heightEyeBreak (m true)) = [.active] ∧ st 3 (after .widthEyeBreak (m true)) = [.active] ∧
    (m false).settings.timing.minLen ≤ 200 ∧ st 3 (after .settleReached (m false)) = [.missed] ∧
    st 3 k = [.pending] ∧ st 3 (after (.checkpointEyeBreak 0) k) = [.active] ∧
    r.takes .console ∧ st 3 (after (.removeCar .console 0 (u16 7)) r) = [.missed] ∧
    p.avgPeriod ≠ p.settings.timing.nominalPeriod ∧
    (after .atRestTimerExpiry p).conv.samples = [] := by decide +kernel

theorem test_TripsAndJogs_supervised :
    let arm (a : ArmState) (j : Option Jog) (s : State) := setMachine 3
      { StationMachine.start with arm := a, trip := 4 }
      (stationed 5 { brush with enabled := false } (stationed 3 brush
        { s with stn := { s.stn with jog := j } }))
    let x (s : State) := after (.motorCurrentSample 2 501) s
    let tripped (s : State) := ((x s).hasCause .armOverload, ((x s).machine 3).trip, (x s).stn.jog)
    let jog3 := some (Jog.mk 3 (.running 9))
    let jog4 := some (Jog.mk 4 (.running 9))
    let say (b : List Nat) := reply (.jog .console 0 (bytes b)) .console (stoppedBy .slip (arm .stowed none open0))
    (arm .engaged none open0).armOf 2 = some 3 ∧ (arm .engaged none open0).armOf 3 = none ∧
    (arm .engaged none open0).causesFit ∧ tripped (arm .engaged none open0) = (true, 0, none) ∧
    tripped (arm .engaged none (held open0)) = (false, 4, none) ∧
    tripped (arm .engaged none (inMode .lockout open0)) = (false, 4, none) ∧
    tripped (arm .advancing none open0) = (false, 4, none) ∧
    tripped (stoppedBy .slip (arm .stowed jog3 open0)) = (true, 0, none) ∧
    tripped (stoppedBy .slip (arm .stowed jog4 open0)) = (false, 4, jog4) ∧
    tripped (arm .engaged jog4 open0) = (true, 0, jog4) ∧
    (after (.motorCurrentSample 3 1023) (arm .engaged none open0)).inputs.motorCurrent[(3 : Channel)] = 1023 ∧
    same (exec (.tripCountReached 3) (arm .engaged none open0)) (done (arm .engaged none open0)) = true ∧
    same (exec (.tripCountReached 4) (arm .engaged none open0)) (done (arm .engaged none open0)) = true ∧
    say [24, 1] = [4] ∧ say [3, 0] = [4] ∧ say [3, 11] = [4] ∧ say [3, 10] = [0] ∧ say [4, 1] = [8] ∧
    reply (.jogStop .console 0 []) .console open0 = [7] ∧
    same (exec .jogTimerExpiry open0) (done open0) = true := by decide +kernel

theorem test_StationsAreWritten_range :
    let s := inMode .closed open0
    let b := stationBody 3 brush
    let say (at_ : Nat) (hi lo : Nat) := reply (.setStation .site 0
      ((b.set at_ (BitVec.ofNat 8 hi)).set (at_ + 1) (BitVec.ofNat 8 lo))) .site s
    let one (at_ : Nat) (v : Nat) := reply (.setStation .site 0 (b.set at_ (BitVec.ofNat 8 v))) .site s
    s.takes .site ∧ b.length = 22 ∧ one 0 23 = [0] ∧ one 0 24 = [4] ∧ one 1 2 = [4] ∧ one 2 2 = [4] ∧
    say 3 31 65 = [4] ∧ say 7 7 208 = [0] ∧ say 7 7 209 = [4] ∧ one 10 15 = [0] ∧ one 10 16 = [4] ∧
    one 11 3 = [0] ∧ one 11 4 = [4] ∧ one 12 39 = [0] ∧ one 12 40 = [4] ∧ one 13 40 = [4] ∧
    one 14 7 = [0] ∧ one 14 8 = [4] ∧ say 15 0 100 = [0] ∧ say 15 0 99 = [4] ∧ say 15 11 185 = [4] ∧
    say 17 1 244 = [0] ∧ say 17 1 243 = [4] ∧ say 17 19 137 = [4] ∧ say 19 4 0 = [4] ∧
    say 19 3 255 = [0] ∧ one 21 0 = [4] ∧ one 21 1 = [0] ∧ one 21 50 = [0] ∧ one 21 51 = [4] := by
  decide +kernel

/-- Station 3 an arm with a state and withdraw timer, serving ticket 7. -/
def serving (a : ArmState) (t : Timer) (p : Progress) (front : Nat) (s : State) : State :=
  setMachine 3 { StationMachine.start with arm := a, withdrawTimer := t }
    (stationed 3 brush (riding ((car 7 front (some 200)).setStatus 3 p)
      { s with inputs := { s.inputs with stowed := vset s.inputs.stowed 2 false } }))

/-- The arm's state, its withdraw timer, and the statuses at station 3. -/
def armView (s : State) : ArmState × Timer × List Progress :=
  ((s.machine 3).arm, (s.machine 3).withdrawTimer, s.track.roster.map (fun c => c.status 3))

theorem test_StationsReactToTheHaltState_moves :
    let run := serving .engaged .stopped .active 700 open0
    let wd (t : Timer) (s : State) := serving .withdrawing t .pending 100 s
    let cut (s : State) := serving .stowed .stopped .interrupted 815 s
    run.mode ≠ .lockout ∧
    armView (setHalt .stopped run) = (.withdrawing, .running 200000, [.interrupted]) ∧
    armView (setHalt .holding (wd (.running 9) open0)) = (.withdrawing, .paused 9, [.pending]) ∧
    armView (setHalt .stopped (wd (.paused 9) (held open0))) = (.withdrawing, .running 9, [.pending]) ∧
    armView (setHalt .running (wd (.paused 9) (held open0))) = (.withdrawing, .running 9, [.pending]) ∧
    armView (setHalt .holding (cut (stoppedBy .slip open0))) = (.stowed, .stopped, [.missed]) ∧
    armView (setHalt .running (cut (stoppedBy .slip open0))) = (.stowed, .stopped, [.missed]) ∧
    armView (releaseStations (wd (.paused 9) open0)) = (.withdrawing, .running 9, [.pending]) := by
  decide +kernel

theorem test_StationsReactToTheHaltState_commands :
    let run := serving .engaged .stopped .active 700 open0
    let timed := { run with halt := { run.halt with mismatchTimer := .running 1 } }
    let exit (s : State) := atRest (serving .withdrawing (.running 9) .missed 2990 s)
    let open_ (s : State) := serving .withdrawing (.paused 9) .pending 100 s
    let back (front : Nat) := stoppedBy .slip (serving .stowed .stopped .interrupted front open0)
    let shut (s : State) : State := { s with inputs := { s.inputs with stowed := Vector.replicate 8 true } }
    let resume (s : State) := after (.resume .console 0 []) s
    run.causesFit ∧ run.takes .console ∧ run.takes .site ∧
    armView (after (.halt .console 0 []) run) = (.withdrawing, .running 200000, [.interrupted]) ∧
    armView (after (.halt .site 0 []) run) = (.withdrawing, .running 200000, [.interrupted]) ∧
    (after .mismatchTimerExpiry timed).mode = .lockout ∧
    armView (after .mismatchTimerExpiry timed) = (.withdrawing, .running 200000, [.interrupted]) ∧
    (exit open0).causesFit ∧ (exit open0).settings.geometry.exitPos ≤ 2990 + 100 ∧
    (after .exitEyeBreak (exit open0)).halt.state = .holding ∧
    armView (after .exitEyeBreak (exit open0)) = (.withdrawing, .paused 9, [.missed]) ∧
    (open_ (held open0)).conv.state ≠ .stopped ∧
    (after .exitEyeRestore (open_ (held open0))).halt.state = .running ∧
    armView (after .exitEyeRestore (open_ (held open0))) = (.withdrawing, .running 9, [.pending]) ∧
    (back 814).takes .console ∧ (resume (back 814)).halt.state = .running ∧
    armView (resume (shut (back 814))) = (.advancing, .stopped, [.active]) ∧
    armView (resume (shut (back 815))) = (.stowed, .stopped, [.missed]) := by decide +kernel

/-- R10, R11, R26, R43, R47, R91: records that fit, with a ticket in every kind of place but the
lookup wait, a credit and a full member table. -/
def fitting : State :=
  { selling open0 with
    memb := ⟨Vector.ofFn (fun k => entry (BitVec.ofNat 32 (k.val * 16)) 4 .active), 0⟩
    credits := [credit 9]
    sales := { open0.sales with
      slots := Vector.ofFn (fun k => #[some (ticket 1 .paid .pending), some (ticket 2 .paid .laneQueued),
        some (ticket 3 .paid .laneQueued), some (ticket 4 .paid .laneQueued),
        some (ticket 5 .paid .merged), some (ticket 6 .paid .atGate),
        some (ticket 7 .paid .riding), some (ticket 8 .paid .riding)].getD k.val none)
      saleSlots := vset open0.sales.saleSlots 0 (.pending 1 [1200] (.running 18000000) none) }
    gate := { Gate.start with
      laneQueues := #v[[2, 3, 4], [], []], merge := [5], atGate := some 6, state := .offer
      offerTimer := .running 9 }
    track := ⟨[car 8 1000 (some 200), car 7 260 (some 200)], false⟩ }

theorem test_recordsFit_has_a_state : fitting.creditsFit ∧ fitting.recordsFit := by
  have e : ∀ k, fitting.entry k = entry (BitVec.ofNat 32 (k.val * 16)) 4 .active := fun k =>
    Vector.getElem_ofFn _
  refine ⟨by decide, by decide +kernel, by decide +kernel, by decide +kernel, by decide +kernel,
    by decide +kernel, ?_, by decide +kernel, by decide +kernel, fun _ h => nomatch h⟩
  intro j k h _ _
  rw [e, e]
  have hj := j.isLt
  have hk := k.isLt
  have hn : j.val ≠ k.val := fun x => h (Fin.ext x)
  simp only [entry, BitVec.toNat_ofNat]
  omega

theorem test_recordsFit_is_kept :
    let t := after (.offerTimerExpiry) fitting
    ((next? (step { fitting with pending := [.laneExitEyeBreak 0] })).isSome = true) ∧
    t.ticketsStand ∧ t.gate.state = .held .offerExpired ∧
    (after (.laneExitEyeBreak 0) fitting).ticketsStand ∧
    (after (.laneExitEyeBreak 1) fitting).ticketsStand ∧
    (after (.pay (.lane 0) 0 (u32 5)) fitting).ticketsStand ∧
    (after (.encoderPulse 9) fitting).rosterFits := by decide +kernel

theorem test_EveryCommandAnswersANextState_lines :
    let o (s : State) := (after .driveFaultInactive s).out
    let shut (s : State) : State := { s with inputs := { s.inputs with chainClosed := false } }
    let offer := gated (fun g => { g with state := .offer }) open0
    let up := gated (fun g => { g with rollerTimer := .running 1 }) open0
    let spray := stationed 3 foam (riding ((car 7 700 (some 200)).setStatus 3 .active) open0)
    let arm (a : ArmState) (s : State) := setMachine 4 { StationMachine.start with arm := a } (stationed 4 brush s)
    let jog (s : State) : State := { s with stn := { s.stn with jog := some ⟨4, .running 9⟩ } }
    let lines (s : State) := ((o s).stationLines[(0 : Line)], (o s).stationLines[(5 : Line)],
      (o s).stationLines[(6 : Line)])
    (o (mergeFilled 9 open0)).laneGreen[(2 : Lane)] = true ∧
    (o (mergeFilled 10 open0)).laneGreen[(2 : Lane)] = false ∧
    (o (inMode .draining open0)).laneGreen[(0 : Lane)] = true ∧
    (o (inMode .closed open0)).laneGreen[(0 : Lane)] = false ∧
    (o offer).goLamp = true ∧ (o (held offer)).goLamp = false ∧
    (o (inMode .lockout offer)).goLamp = false ∧ (o up).rollerUp = true ∧
    (o (shut up)).rollerUp = false ∧ (o (stoppedBy .slip up)).rollerUp = true ∧
    (o open0).safetyRelay = true ∧ lines spray = (true, false, false) ∧
    lines (held spray) = (false, false, false) ∧ lines (shut spray) = (false, false, false) ∧
    lines (arm .engaged open0) = (false, true, true) ∧
    lines (arm .advancing (held open0)) = (false, false, true) ∧
    lines (arm .withdrawing open0) = (false, false, false) ∧
    lines (arm .engaged (stoppedBy .slip open0)) = (false, false, false) ∧
    lines (jog (arm .stowed (stoppedBy .slip open0))) = (false, true, false) ∧
    lines (shut (jog (arm .stowed (stoppedBy .slip open0)))) = (false, false, false) := by
  decide +kernel

/-- R196's worked record: episode 2 of a hold that became a stop, closed after 6 minutes. -/
theorem test_RecordsHaveTheirLayout_worked :
    episodeBytes ⟨2, .exitBlocked, 0x200, ⟨210, 700⟩, 1245870, .ticket 71, some (⟨210, 706⟩, .console)⟩ =
      bytes [0x02, 0x5F, 0x02, 0x00, 0x00, 0x47, 0x00, 0xD2, 0x02, 0xBC, 0x02, 0xAE, 0x00, 0x06] ∧
    (Notice.tagResult .tooSoon 0).data = bytes [14, 0, 0] ∧
    (Notice.memberMiss 2 0x01020304).data = bytes [2, 1, 2, 3, 4] ∧
    (carBytes { car 7 700 (some 701) with flags := ⟨true, false, true⟩ }).take 9 =
      bytes [0, 7, 0x02, 0xBC, 0x02, 0xBD, 0xFF, 0xFF, 5] := by decide +kernel

theorem test_TicketsRetireWithTheirResult_names :
    let s := addTicket (ticket 8 .rewash .pending) (setSaleSlot 1 (.pending 8 [0] (.running 5) (some 1))
      (setSaleSlot 2 (.pending 9 [0] (.running 5) (some 2)) (addTicket (ticket 7 .paid .riding) { open0 with
        credits := (List.range 32).map (fun n => credit (n + 1)) })))
    let u := retireTicket 7 .removed s
    s.ticket? 7 = some (ticket 7 .paid .riding) ∧ u.saleSlot 1 = .pending 8 [0] (.running 5) none ∧
    u.saleSlot 2 = .pending 9 [0] (.running 5) (some 2) ∧ u.ticket? 8 = s.ticket? 8 ∧
    (retireTicket 7 .full s).saleSlot 1 = .pending 8 [0] (.running 5) (some 1) ∧
    (retireTicket 7 .removed { s with credits := s.credits.take 31 }).saleSlot 1 =
      .pending 8 [0] (.running 5) (some 1) := by decide +kernel

theorem test_RemoveCarTakesACarOut_measured :
    let s (k : TicketKind) := gated (fun g => { g with
        state := .measuring, measCount := 351, restoreCount := 7, settleCount := 3, tailgated := true
        merge := [9] })
      (addTicket (ticket 9 k .merged) (stoppedBy .tailgate (riding (car 7 400 none) open0)))
    let c (s : State) := after (.removeCar .console 0 (u16 7)) s
    let flagged := gated (fun g => { g with mergeCheck := true }) (s .paid)
    (s .paid).takes .console ∧ (c (s .paid)).gate = { Gate.start with merge := [9] } ∧
    (c (s .paid)).hasCause .tailgate = true ∧ (c (s .unpaid)).gate.state = .held .unpaid ∧
    (c (s .unpaid)).gate.atGate = some 9 ∧ (c (s .unpaid)).gate.measCount = 0 ∧
    (c flagged).gate.state = .held .mergeCheck ∧ (c flagged).gate.tailgated = false := by
  decide +kernel

theorem test_PulsesAdvanceEveryCar_limit :
    let s := gated (fun g => { g with state := .measuring, measCount := 340 })
      { riding (car 7 16383 none) open0 with inputs := { open0.inputs with exitEye := true } }
    (s.track.roster.map (fun x => x.ticket)).Nodup ∧ s.causesFit ∧
    (after (.encoderPulse 9) s).gate = Gate.start ∧
    (after (.encoderPulse 9) s).track.roster = [] := by decide +kernel

theorem test_ArmsServeOneCarAtATime_steps :
    let cars := [car 5 700 (some 200), (car 6 900 (some 200)), (car 7 830 (some 200)).setStatus 3 .active,
      car 8 600 (some 5), car 9 589 (some 5)]
    let s (a : ArmState) (tall closed : Bool) := setMachine 3
      { StationMachine.start with arm := a, withdrawTimer := .running 7 }
      (stationed 3 { brush with exclTall := tall } (cars.foldl (fun s c => riding { c with
        flags := ⟨c.ticket == 8, false, false⟩ } s) { open0 with inputs := { open0.inputs with
          stowed := vset open0.inputs.stowed 2 closed } }))
    let st (s : State) := ((evalStation 3 s).track.roster.map (fun c => c.status 3))
    let arm (s : State) := ((evalStation 3 s).machine 3).arm
    st (s .engaged true false) = [.active, .missed, .done, .skipped, .pending] ∧
    arm (s .engaged true false) = .engaged ∧
    st (s .advancing false false) = [.pending, .missed, .missed, .pending, .pending] ∧
    arm (s .advancing false false) = .withdrawing ∧
    st (s .advancing false true) = [.active, .missed, .missed, .pending, .pending] ∧
    arm (s .advancing false true) = .advancing ∧
    st (s .withdrawing true false) = [.pending, .missed, .active, .skipped, .pending] ∧
    arm (s .withdrawing true false) = .withdrawing ∧
    st (s .fault false false) = [.pending, .missed, .active, .pending, .pending] ∧
    arm (s .fault false false) = .fault ∧
    st (updateCar 7 (fun c => { c with front := 814 }) (s .engaged true false)) =
      [.pending, .missed, .active, .skipped, .pending] := by decide +kernel

theorem test_ArmsMoveAndFault_ends :
    let adv (s : State) := setMachine 3 { StationMachine.start with arm := .advancing, advanceTimer := .running 1 }
      (stationed 3 brush (riding ((car 7 700 (some 200)).setStatus 3 .active) s))
    let jog (j : StationIx) (s : State) : State := { s with stn := { s.stn with jog := some ⟨j, .running 9⟩ } }
    let arm (s : State) := stationed 3 brush s
    let off := stationed 3 { brush with enabled := false } open0
    ((after (.advanceTimerExpiry 3) (adv open0)).track.roster.map (fun c => c.status 3)) = [.missed] ∧
    ((after (.advanceTimerExpiry 3) (adv (held open0))).machine 3).arm = .fault ∧
    (after (.stowedSwitchOpens 2) (jog 3 (arm (stoppedBy .slip open0)))).stn.jog = none ∧
    (after (.stowedSwitchOpens 2) (jog 4 (arm (stoppedBy .slip open0)))).stn.jog =
      some ⟨4, .running 9⟩ ∧
    off.armOf 2 = none ∧ ((after (.stowedSwitchOpens 2) off).machine 3).arm = .stowed ∧
    (after (.stowedSwitchOpens 2) off).inputs.stowed[(2 : Channel)] = false ∧
    (after (.stowedSwitchCloses 2) (after (.stowedSwitchOpens 2) off)).inputs = off.inputs := by
  decide +kernel

theorem test_StationsAreWritten_stuck :
    let fault (j : StationIx) (s : State) := setMachine j { StationMachine.start with arm := .fault } s
    let s := fault 3 (stationed 3 brush (inMode .closed (stoppedBy .armStuck open0)))
    let two := fault 5 (stationed 5 { brush with firstLine := 7, secondLine := 8, channel := 3 } s)
    let set (st : StationCfg) (s : State) := after (.setStation .site 0 (stationBody 3 st)) s
    s.causesFit ∧ s.hasCause .armStuck = true ∧ (set brush s).hasCause .armStuck = false ∧
    (set { brush with enabled := false } s).hasCause .armStuck = false ∧
    (set brush two).hasCause .armStuck = true ∧ ((set brush two).machine 3).arm = .stowed ∧
    (after (.setStation .site 0 (stationBody 4 foam)) s).hasCause .armStuck = true := by decide +kernel

theorem test_StationsReactToTheHaltState_pulse :
    let s := setRoster [{ car 6 3210 (some 200) with exitMark := true }, car 8 2899 (some 200)]
      (serving .withdrawing (.running 90) .pending 100 { open0 with inputs := { open0.inputs with exitEye := true } })
    let t := after (.encoderPulse 9) s
    s.causesFit ∧ s.inputs.exitEye = true ∧ t.halt.state = .holding ∧
    (t.machine 3).withdrawTimer = .paused 81 ∧
    t.track.roster.map (fun c => c.status 3) = [.pending, .pending] := by decide +kernel

/-! ## The check, the windows and the copies -/

theorem test_BytesOnTheLineMakeTheFrame_check :
    let f : Frame := ⟨0x01, 0x05, []⟩
    crc [] = 0xFFFF ∧ crc (bytes [0x31, 0x32, 0x33, 0x34, 0x35, 0x36, 0x37, 0x38, 0x39]) = 0x29B1 ∧
    f.wire.take 4 = bytes [0xC3, 2, 1, 5] ∧ f.wire.length = 6 ∧
    f.wire.drop 4 = u16 (crc (bytes [2, 1, 5])).toNat := by decide +kernel

theorem test_QuoteOpensAPendingSale_window :
    let m : Menu := ⟨8, 24⟩
    m.size = 8 ∧ m.base = 24 ∧ m.rowOf 0 = some 24 ∧ m.rowOf 7 = some 31 ∧ m.rowOf 8 = none ∧
    m.rowOf 255 = none := by decide +kernel

theorem test_SavesWriteTheStore_copy :
    let e := entry 0x1230 4 .suspended
    let s : State := { open0 with
      settings := { open0.settings with wired := 2 }
      memb := { open0.memb with entries := vset open0.memb.entries 1 e } }
    s.copySettings.site = s.settings ∧ s.copySettings.wired.map (fun x => x.index) = [0, 1] ∧
    s.copySettings.wired.map (fun x => (x.valid, x.base, x.order)) =
      [(false, 0, 0), (true, 0x1230, 4)] ∧
    s.copySettings.wired.map (fun x => (x.row, x.status)) =
      [(0, .active), (2, .suspended)] ∧ open0.copySettings.wired = [] := by decide +kernel

theorem test_RecordsHaveTheirLayout_work :
    let jog (j : StationIx) (t : Timer) (s : State) : State :=
      { s with stn := { s.stn with jog := some ⟨j, t⟩ } }
    let arm (m : StationMachine) := setMachine 3 m (stationed 3 brush open0)
    let sw (p : Progress) (s : State) :=
      stationed 3 foam (riding ((car 7 700 (some 200)).setStatus 3 p) s)
    let word (s : State) (i : Nat) := wordAt (stationBytes 3 s) i
    let out (s : State) := byteAt (stationBytes 3 s) 25
    let chain (s : State) : State := { s with inputs := { s.inputs with chainClosed := false } }
    word (arm { StationMachine.start with advanceTimer := .running 299 }) 29 = 2 ∧
    word (arm { StationMachine.start with advanceTimer := .paused 300 }) 29 = 3 ∧
    word (arm { StationMachine.start with withdrawTimer := .paused 500000 }) 29 = 5000 ∧
    word (arm StationMachine.start) 29 = 0 ∧ word (jog 3 (.running 100199) open0) 33 = 1001 ∧
    word (jog 4 (.running 100199) open0) 33 = 0 ∧ word open0 33 = 0 ∧
    out (sw .active open0) = 1 ∧ out (sw .done open0) = 0 ∧ out (sw .active (held open0)) = 0 ∧
    out (jog 3 (.running 9) (sw .done (stoppedBy .slip open0))) = 1 ∧
    out (jog 4 (.running 9) (sw .done (stoppedBy .slip open0))) = 0 ∧
    out (chain (sw .active open0)) = 0 ∧ out (inMode .lockout (sw .active open0)) = 0 ∧
    out (stationed 3 { foam with enabled := false } (sw .active open0)) = 0 := by decide +kernel

theorem test_RecordsHaveTheirLayout_slots :
    let s := addTicket { ticket 7 .member .lookup with price := 50000 } open0
    saleSlotBytes s .empty = bytes [0, 0, 0, 0, 0, 0] ∧
    saleSlotBytes s (.pending 7 [] .stopped none) = bytes [1, 0, 7, 1, 0xC3, 0x50] ∧
    saleSlotBytes s (.lookup 7 9 .stopped) = bytes [2, 0, 7, 1, 0xC3, 0x50] ∧
    frameOf (.remove .console 9 [1]) = some (.console, ⟨0x24, 9, [3, 1]⟩) ∧
    frameOf (.retry .console 9 [1]) = some (.console, ⟨0x24, 9, [0, 1]⟩) := by decide +kernel

/-! ## A start without a warning -/

/-- WarnTime 0. -/
def unwarned (s : State) : State :=
  { s with settings := { s.settings with timing := { s.settings.timing with warnTime := 0 } } }

theorem test_OfferTestsTheIdleGate_unwarned :
    let s := gated (fun g => { g with merge := [7] }) (addTicket (ticket 7 .paid .merged) open0)
    let parked := unwarned { s with conv := { Conveyor.start with parked := true } }
    let tire (x : State) : State := { x with inputs := { x.inputs with tireClosed := true } }
    let chain (x : State) : State := { x with inputs := { x.inputs with chainClosed := false } }
    let u := updateTicket 7 (fun t => { t with state := .atGate }) parked
    let cv : Conveyor := { parked.conv with
      parked := false, state := .running, warnTimer := .stopped, stallTimer := .running 200000 }
    parked.settings.timing.warnTime = 0 ∧ parked.inputs.chainClosed = true ∧
    same (exec .offer parked) (done { u with
      gate := { parked.gate with state := .offer, merge := [], atGate := some 7
                                 offerTimer := .running 6000000 }
      conv := cv }) = true ∧
    (after .offer (tire parked)).gate.state = .loading ∧
    (after .offer (tire parked)).gate.rollerTimer = .running 50000 ∧
    (after .offer (tire parked)).conv = cv ∧
    same (exec .offer (chain parked)) (done { chain parked with
      conv := { parked.conv with parked := false } }) = true := by decide +kernel

/-- The conveyor coming to rest. -/
def resting (parked : Bool) (s : State) : State :=
  { s with conv := { Conveyor.start with
      state := .stopping, restTimer := .running 1, parked := parked, samples := [5], mark := some 3 } }

/-- A PAID ticket at the merge head. -/
def oneMerged (s : State) : State :=
  gated (fun g => { g with merge := [7] }) (addTicket (ticket 7 .paid .merged) s)

/-- The conveyor and the gate after the at-rest timer's expiry. -/
def restView (s : State) : ConvState × Bool × GateState × Option Nat :=
  let t := after .atRestTimerExpiry s
  (t.conv.state, t.conv.parked, t.gate.state, t.gate.atGate)

theorem test_ConveyorTimersExpire_start :
    let drain (s : State) := inMode .draining (resting false s)
    let out := setMachine 3 { StationMachine.start with arm := .withdrawing } (stationed 3 brush open0)
    let t := after .atRestTimerExpiry (resting false (unwarned open0))
    (drain (oneMerged open0)).runDemand = true ∧ t.conv.stallTimer = .running 200000 ∧
    t.out.horn = false ∧ t.out.conveyorRun = true ∧ t.conv.samples = [] ∧ t.conv.mark = none ∧
    restView (resting false (unwarned open0)) = (.running, false, .idle, none) ∧
    [drain (oneMerged open0), drain (riding (car 7 700 none) open0), drain out].map restView =
      List.replicate 3 (.warning, false, .idle, none) ∧
    restView (drain (unwarned (oneMerged open0))) = (.running, false, .offer, some 7) := by
  decide +kernel

theorem test_ConveyorTimersExpire_unpark :
    let s := resting true (oneMerged open0)
    let chain : State := { s with inputs := { s.inputs with chainClosed := false } }
    let check := gated (fun g => { g with mergeCheck := true }) s
    s.offerWanted = true ∧ restView s = (.warning, false, .idle, none) ∧
    restView (unwarned s) = (.running, false, .offer, some 7) ∧
    restView chain = (.stopped, false, .idle, none) ∧
    restView check = (.stopped, true, .held .mergeCheck, none) := by decide +kernel

theorem test_ConveyorTimersExpire_demand :
    let s (st : ConvState) (x : State) : State := { x with conv := { Conveyor.start with state := st } }
    let view (x : State) := let c := (testDemand x).conv; (c.state, c.warnTimer, c.stallTimer, c.restTimer)
    let off (st : ConvState) := s st (inMode .closed open0)
    view (s .stopped open0) = (.warning, .running 300000, .stopped, .stopped) ∧
    view (s .stopped (unwarned open0)) = (.running, .stopped, .running 200000, .stopped) ∧
    view (s .stopping open0) = (.stopping, .stopped, .stopped, .stopped) ∧
    (off .running).runDemand = false ∧
    view (off .running) = (.stopping, .stopped, .stopped, .running 100000) ∧
    view (off .warning) = (.stopped, .stopped, .stopped, .stopped) ∧
    view (off .stopped) = (.stopped, .stopped, .stopped, .stopped) := by decide +kernel

/-! ## Slips, arms out of FAULT, and start-up -/

theorem test_PulsesAdvanceEveryCar_slip :
    let geo (s : State) : State := { s with settings := { s.settings with
      geometry := { Geometry.default with checkpoints := [⟨1200, 20⟩, ⟨1500, 20⟩] } } }
    let s (front : Nat) := geo (setRoster [{ car 6 1519 (some 200) with marks := #v[true, false, false, false] },
      car 7 front (some 200)] open0)
    let view (s : State) :=
      let t := after (.encoderPulse 9) s
      (t.hasCause .slip, t.halt.state, t.track.roster.map (fun c => c.marks.toList.take 2))
    ((s 1220).track.roster.map (fun x => x.ticket)).Nodup ∧ (s 1220).causesFit ∧
    view (s 1219) = (false, .running, [[true, false], [false, false]]) ∧
    view (s 1220) = (true, .stopped, [[true, false], [true, false]]) ∧
    view (held (s 1220)) = (true, .stopped, [[true, false], [true, false]]) := by decide +kernel

theorem test_PulsesAdvanceEveryCar_restored :
    let s (n : Nat) := riding { car 8 n (some 200) with exitMark := true }
      (riding (car 7 16383 (some 200)) open0)
    let t := after (.encoderPulse 9) (s 3209)
    (s 3209).inputs.exitEye = false ∧ (s 3209).ticket? 7 ≠ none ∧
    t.track.roster.map (fun x => (x.ticket, x.front)) = [(8, 3210)] ∧ t.ticket? 7 = none ∧
    t.halt.state = .stopped := by decide +kernel

theorem test_ArmsMoveAndFault_leaves :
    let fault (j : StationIx) (s : State) :=
      setMachine j { StationMachine.start with arm := .fault, trip := 3 } s
    let one := fault 3 (stationed 3 brush (stoppedBy .armStuck open0))
    let two := fault 5 (stationed 5 { brush with firstLine := 7, secondLine := 8, channel := 3 } one)
    let c : Instr := .stowedSwitchCloses 2
    let waits (s : State) := stationed 3 brush (riding (car 7 700 (some 200)) s)
    one.causesFit ∧ one.armOf 2 = some 3 ∧
    (after c one).machine 3 = { StationMachine.start with trip := 3 } ∧
    (after c one).hasCause .armStuck = false ∧ (after c one).halt.state = .stopped ∧
    two.armOf 2 = some 3 ∧ (after c two).machine 3 = { StationMachine.start with trip := 3 } ∧
    (after c two).hasCause .armStuck = true ∧ (after c two).halt.causes = two.halt.causes ∧
    ((after c two).machine 5).arm = .fault ∧
    ((after c (fault 3 (waits open0))).machine 3).arm = .advancing ∧
    ((after c (fault 3 (waits (held open0)))).machine 3).arm = .stowed := by decide +kernel

theorem test_DeviceResetStartsThePart_found :
    let s := stationed 3 brush { open0 with settings := { open0.settings with wired := 2 } }
    let whole := { s with store := { s.store with
      marker := .closed, rowsValid := Vector.replicate 95 true, image := s.copySettings } }
    let out := { whole with inputs := { whole.inputs with
      chainClosed := false, driveFault := true, stowed := Vector.replicate 8 false } }
    let t := after .deviceReset out
    let u := after .deviceReset s
    t.memb.pointer = 2 ∧ t.settings.wired = 2 ∧ u.memb.pointer = 0 ∧
    t.halt.history = [⟨1, .powerUp, 0x4003, ⟨0, 0⟩, 0, .none, none⟩] ∧
    u.halt.history = [⟨1, .powerUp, 0, ⟨0, 0⟩, 0, .none, none⟩] ∧ u.halt.causes = 0x10 ∧
    t.halt.mismatchTimer = .running 20000 ∧ s.inputs.readback = true ∧
    u.halt.mismatchTimer = .stopped := by decide +kernel

end Sys2Proof.Tests
end

section
/-! # Plan sales: the ticket table

What the table answers for a number after a ticket is rewritten, freed or added, and what it takes
for two states to agree on their tickets. The existing rules of Laws/Tickets list the table; these
look a number up in it, in any state. -/

namespace Sys2Proof.Machine

variable {s t : State} {m n : Nat}

/-- The tickets are read from the slots alone. -/
theorem ticket?_congr (h : t.sales.slots = s.sales.slots) (n : Nat) : t.ticket? n = s.ticket? n := by
  unfold State.ticket? State.tickets
  rw [h]

/-- A freed number is found no more. -/
@[simp] theorem ticket?_freeTicket_same (n : Nat) (s : State) : (freeTicket n s).ticket? n = none := by
  unfold State.ticket?
  rw [tickets_freeTicket, List.find?_eq_none]
  intro k hk
  simpa using (List.mem_filter.mp hk).2

/-- Freeing a ticket leaves every other number as it was. -/
theorem ticket?_freeTicket_other (h : m ≠ n) (s : State) :
    (freeTicket n s).ticket? m = s.ticket? m := by
  unfold State.ticket?
  rw [tickets_freeTicket, List.find?_filter]
  refine List.find?_congr fun k _ => ?_
  by_cases hk : k.number = m <;> simp [hk, h]

/-- A ticket rewritten under its number is found as rewritten. -/
theorem ticket?_updateTicket_same {g : Ticket → Ticket} (hg : ∀ k, k.number = n → (g k).number = n)
    (s : State) : (updateTicket n g s).ticket? n = (s.ticket? n).map g := by
  unfold State.ticket?
  rw [tickets_updateTicket]
  induction s.tickets with
  | nil => rfl
  | cons k l ih =>
    by_cases hk : k.number = n
    · simp [hk, hg k hk]
    · simpa [hk] using ih

/-- Rewriting a ticket under its number leaves every other number as it was. -/
theorem ticket?_updateTicket_other {g : Ticket → Ticket} (hg : ∀ k, k.number = n → (g k).number = n)
    (h : m ≠ n) (s : State) : (updateTicket n g s).ticket? m = s.ticket? m := by
  unfold State.ticket?
  rw [tickets_updateTicket]
  induction s.tickets with
  | nil => rfl
  | cons k l ih =>
    by_cases hk : k.number = n
    · simpa [hk, hg k hk, Ne.symm h] using ih
    · simp only [List.map_cons, if_neg hk, List.find?_cons, ih]

/-- Filling a slot leaves the search for anything but the new record alone. -/
theorem find?_fillFirst_other {α : Type} {p : α → Bool} {x : α} (hx : p x = false) :
    ∀ l : List (Option α), ((fillFirst x l).filterMap id).find? p = (l.filterMap id).find? p
  | [] => rfl
  | none :: l => by simp [fillFirst, hx]
  | some y :: l => by
    have ih := find?_fillFirst_other hx l
    change (y :: (fillFirst x l).filterMap id).find? p = (y :: l.filterMap id).find? p
    rw [List.find?_cons, List.find?_cons, ih]

/-- A record that fills a slot is found where no other answers the search. -/
theorem find?_fillFirst_new {α : Type} {p : α → Bool} {x : α} (hx : p x = true) :
    ∀ l : List (Option α), none ∈ l → (∀ y ∈ l.filterMap id, p y = false) →
      ((fillFirst x l).filterMap id).find? p = some x
  | [], h, _ => by cases h
  | none :: l, _, _ => by simp [fillFirst, hx]
  | some y :: l, h, hl => by
    have hy : p y = false := hl y (by simp)
    have ih := find?_fillFirst_new hx l (by simpa using h) fun z hz =>
      hl z (List.mem_cons_of_mem y hz)
    simpa [fillFirst, hy] using ih

/-- An added ticket leaves every other number as it was. -/
theorem ticket?_addTicket_other {k : Ticket} (h : m ≠ k.number) (s : State) :
    (addTicket k s).ticket? m = s.ticket? m :=
  find?_fillFirst_other (by simpa using Ne.symm h) _

/-- An added ticket of a new number is found where a slot is free. -/
theorem ticket?_addTicket_new {k : Ticket} (hs : s.freeSlots ≠ 0)
    (hn : ∀ j ∈ s.tickets, j.number ≠ k.number) : (addTicket k s).ticket? k.number = some k :=
  find?_fillFirst_new (by simp) _ (none_mem_of_freeSlots hs) fun j hj => by simpa using hn j hj

/-- Freeing a ticket takes no slot. -/
theorem freeSlots_le_freeTicket (n : Nat) (s : State) : s.freeSlots ≤ (freeTicket n s).freeSlots := by
  have hlen : (freeTicket n s).tickets.length ≤ s.tickets.length := by
    rw [tickets_freeTicket]
    exact List.length_filter_le _ _
  have := freeSlots_eq (freeTicket n s)
  have := freeSlots_eq s
  omega

end Sys2Proof.Machine
end

section
/-! # Plan sales: new numbers (R11) -/

namespace Sys2Proof.Machine

variable {s : State}

theorem numberAfter_le (n k : Nat) : numberAfter n k ≤ 65535 := by
  unfold numberAfter
  omega

/-- With room in the credit list, a new number is no live ticket's and no credit's. -/
theorem nextNumber_unheld (hc : s.creditsFit) :
    (∀ t ∈ s.tickets, t.number ≠ s.nextNumber) ∧ ∀ c ∈ s.credits, c.code ≠ s.nextNumber := by
  have hn : s.nextNumber ∉ s.held := (nextNumber_new hc).1
  refine ⟨fun t ht e => hn ?_, fun c hcr e => hn ?_⟩
  · exact List.mem_append_left _ (e ▸ List.mem_map_of_mem ht)
  · exact List.mem_append_right _ (e ▸ List.mem_map_of_mem hcr)

/-- The numbers that lie cyclically between the last one given and a number that the search reaches
are those that it passed through before. -/
theorem between_is_passed {last k n : Nat} (hk : k < 65535) (h1 : 1 ≤ n) (h2 : n ≤ 65535)
    (h : last < numberAfter last k ∧ last < n ∧ n < numberAfter last k ∨
      numberAfter last k ≤ last ∧ (last < n ∨ n < numberAfter last k)) :
    ∃ j, j < k ∧ numberAfter last j = n := by
  refine ⟨(n + 65535 - succNumber last) % 65535, ?_⟩
  unfold numberAfter at h ⊢
  unfold succNumber at h ⊢
  split at h <;> rename_i hl <;> simp only [hl, if_true, if_false] <;> omega

/-- Settles O18: the search of Laws/Tickets passes only taken numbers, and ends at a free one. -/
theorem newNumbersAreFree : Obligations.NewNumbersAreFree := by
  unfold Obligations.NewNumbersAreFree
  intro s hc
  obtain ⟨k, hk, hnext, hpassed, -⟩ := nextNumberFrom_ends s.numberTaken
    (s.tickets.length + s.credits.length) s.sales.lastNumber
  change s.nextNumber = _ at hnext
  have hcredits : s.credits.length ≤ 32 := hc
  have htickets := tickets_length s
  obtain ⟨hfreshTickets, hfreshCredits⟩ := nextNumber_unheld hc
  refine ⟨(nextNumber_new hc).2, hnext ▸ numberAfter_le _ _, hfreshTickets, hfreshCredits, rfl, ?_⟩
  intro n h1 h2 hbetween
  rw [hnext] at hbetween
  obtain ⟨j, hj, rfl⟩ := between_is_passed (by omega) h1 h2 hbetween
  exact hpassed j hj

end Sys2Proof.Machine
end

section
/-! # Plan sales: the price of a sale (R8) -/

namespace Sys2Proof.Machine

/-! ## Taking an excess from amounts -/

@[simp] theorem takeExcess_length : ∀ (e : Nat) (l : List Nat), (takeExcess e l).length = l.length
  | _, [] => rfl
  | e, a :: l => by simp [takeExcess, takeExcess_length (e - a) l]

@[simp] theorem takeExcess_zero : ∀ l : List Nat, takeExcess 0 l = l
  | [] => rfl
  | a :: l => by simp [takeExcess, takeExcess_zero l]

/-- The amounts lose the excess, as far as they go. -/
theorem takeExcess_sum : ∀ (e : Nat) (l : List Nat), (takeExcess e l).sum = l.sum - e
  | _, [] => by simp [takeExcess]
  | e, a :: l => by
    have ih := takeExcess_sum (e - a) l
    simp only [takeExcess, List.sum_cons, ih]
    omega

/-- An amount is not raised; and once one is lowered, those taken from before it are spent. -/
theorem takeExcess_getElem? : ∀ (l : List Nat) (e i a : Nat), l[i]? = some a →
    ∃ b, (takeExcess e l)[i]? = some b ∧ b ≤ a ∧
      (b < a → ∀ j, j < i → (takeExcess e l)[j]? = some 0)
  | [], _, _, _, h => by simp at h
  | x :: l, e, 0, a, h => by
    obtain rfl : x = a := by simpa using h
    exact ⟨x - e, rfl, Nat.sub_le _ _, fun _ j hj => absurd hj (Nat.not_lt_zero j)⟩
  | x :: l, e, i + 1, a, h => by
    obtain ⟨b, hb, hle, hspent⟩ := takeExcess_getElem? l (e - x) i a h
    refine ⟨b, hb, hle, fun hlt j hj => ?_⟩
    cases j with
    | succ j => exact hspent hlt j (by omega)
    | zero =>
      have hx : x ≤ e := by
        by_contra hc
        have h0 : e - x = 0 := by omega
        have hsame : some a = some b := by rw [← h, ← hb, h0, takeExcess_zero, List.getElem?_cons_succ]
        injection hsame with hab
        omega
      simp [takeExcess, Nat.sub_eq_zero_of_le hx]

/-- The same with the last amount taken from first, as R8 takes it. -/
theorem takeExcess_reverse_getElem? {l : List Nat} {k a : Nat} (e : Nat) (h : l[k]? = some a) :
    ∃ b, (takeExcess e l.reverse).reverse[k]? = some b ∧ b ≤ a ∧
      (b < a → ∀ m, k < m → m < l.length → (takeExcess e l.reverse).reverse[m]? = some 0) := by
  have hk : k < l.length := (List.getElem?_eq_some_iff.mp h).1
  have hrev : ∀ m, m < l.length →
      (takeExcess e l.reverse).reverse[m]? = (takeExcess e l.reverse)[l.length - 1 - m]? := by
    intro m hm
    rw [List.getElem?_reverse (by simpa using hm)]
    simp
  have ha : l.reverse[l.length - 1 - k]? = some a := by
    rw [List.getElem?_reverse (by omega), show l.length - 1 - (l.length - 1 - k) = k by omega, h]
  obtain ⟨b, hb, hle, hspent⟩ := takeExcess_getElem? l.reverse e _ a ha
  refine ⟨b, by rw [hrev k hk, hb], hle, fun hlt m hkm hm => ?_⟩
  rw [hrev m hm]
  exact hspent hlt _ (by omega)

/-! ## Folds over the add-on rows -/

/-- The union of the feature sets holds what any of them holds. -/
theorem getLsbD_foldl_features (f : Nat) : ∀ (l : List CatRow) (b : Set16),
    (l.foldl (fun b r => b ||| r.features) b).getLsbD f = true ↔
      b.getLsbD f = true ∨ ∃ r ∈ l, r.features.getLsbD f = true
  | [], b => by simp
  | r :: l, b => by
    rw [List.foldl_cons, getLsbD_foldl_features f l]
    simp [or_assoc]

/-- The least speed cap is below every cap, and is one of them. -/
theorem foldl_cap : ∀ (l : List CatRow) (c : Nat),
    l.foldl (fun c r => min c r.cap) c ≤ c ∧ (∀ r ∈ l, l.foldl (fun c r => min c r.cap) c ≤ r.cap) ∧
      (l.foldl (fun c r => min c r.cap) c = c ∨ ∃ r ∈ l, l.foldl (fun c r => min c r.cap) c = r.cap)
  | [], c => by simp
  | r :: l, c => by
    obtain ⟨hle, hall, hone⟩ := foldl_cap l (min c r.cap)
    rw [List.foldl_cons]
    refine ⟨by omega, ?_, ?_⟩
    · intro q hq
      rcases List.mem_cons.mp hq with rfl | hq
      · omega
      · exact hall q hq
    · rcases hone with h | ⟨q, hq, h⟩
      · rcases Nat.le_total c r.cap with hc | hc
        · exact Or.inl (by omega)
        · exact Or.inr ⟨r, by simp, by omega⟩
      · exact Or.inr ⟨q, by simp [hq], h⟩

/-! ## The price -/

/-- R8: at a discount of at most half, no more is taken off than the base price. -/
theorem discountAmount_le {price d : Nat} (hd : d ≤ 50) : (price * d + 50) / 100 ≤ price := by
  have : price * d ≤ price * 50 := Nat.mul_le_mul_left price hd
  rcases Nat.eq_zero_or_pos price with rfl | hp <;> omega

/-- Settles O16: the excess of a clamped total comes off the amounts in reverse order. -/
theorem pricesAreComputed : Obligations.PricesAreComputed := by
  unfold Obligations.PricesAreComputed
  intro base adds inForce hprice hforce
  have hd : (if base.discountable = true then inForce else 0) ≤ 50 := by split <;> omega
  have hdisc := discountAmount_le (price := base.price) hd
  have hfeatures := fun f => getLsbD_foldl_features f adds base.features
  obtain ⟨hcap, hcaps, hleast⟩ := foldl_cap adds base.cap
  unfold priceOf
  simp only [Config.maxPrice]
  generalize (if base.discountable = true then inForce else 0) = d at hdisc
  generalize (base.price * d + 50) / 100 = disc at hdisc
  generalize hamounts : adds.map (fun r => r.price) = amounts
  have hlength : amounts.length = adds.length := by simp [← hamounts]
  refine ⟨hdisc, trivial, trivial, by simp [hlength], ?_, rfl, ?_, ?_, hfeatures, hcap, hcaps, hleast⟩
  · rw [List.sum_cons, List.sum_reverse, takeExcess_sum, List.sum_reverse]
    omega
  · intro hraw
    rw [Nat.min_eq_left hraw, Nat.sub_self, takeExcess_zero, List.reverse_reverse]
  · intro k r hr
    have ha : amounts[k]? = some r.price := by simp [← hamounts, hr]
    simpa only [List.getElem?_cons_succ, hlength] using takeExcess_reverse_getElem? _ ha

end Sys2Proof.Machine
end

section
/-! # Plan sales: settings, totals and the clock (R2 to R7, R23, R24) -/

namespace Sys2Proof.Machine

/-! ## Totals (R23, R24) -/

/-- Settles O21: a counted row is written alone, and CLEAR TOTALS is served in every mode but LOCKOUT. -/
theorem totalsCountAndClear : Obligations.TotalsCountAndClear := by
  unfold Obligations.TotalsCountAndClear
  refine ⟨fun r a s => ⟨?_, fun q hq => ?_⟩, fun tag s ht hm => ?_⟩
  · simp [countRow, vmodify]
  · exact (vset_get _ _ _ _).trans (if_neg (Ne.symm hq))
  · exact request_ok (k := .clearTotals) ht rfl rfl (Or.inl hm) rfl

/-! ## The bytes of the settings bodies (R189) -/

/-- A flag is read back, with its byte in sight. -/
@[simp] theorem flagAt_bit (b : Bool) (l : List Byte) :
    flagAt (BitVec.ofNat 8 b.toNat :: l) 0 = some b := flagAt_flagByte b l

/-- A set is read back, with its two bytes in sight. -/
@[simp] theorem wordAt_setPair (b : Set16) (l : List Byte) :
    wordAt (BitVec.ofNat 8 (b.toNat / 256) :: BitVec.setWidth 8 b :: l) 0 = b.toNat := by
  have := wordAt_pair (n := b.toNat) b.isLt l
  rwa [BitVec.ofNat_toNat] at this

/-- R189: the number of a row kind is read back as the kind. -/
@[simp] theorem RowKind.ofCode_number (k : RowKind) : RowKind.ofCode k.number = some k := by
  cases k <;> rfl

theorem RowKind.number_lt (k : RowKind) : k.number < 256 := by cases k <;> decide

/-- No number above 2 is a row kind's. -/
theorem RowKind.ofCode_eq_none {n : Nat} (h : 2 < n) : RowKind.ofCode n = none := by
  match n, h with
  | n + 3, _ => rfl

/-- No byte above 1 is a flag. -/
theorem flagAt_eq_none {b : List Byte} {i : Nat} (h : 1 < byteAt b i) : flagAt b i = none := by
  unfold flagAt
  match byteAt b i, h with
  | n + 2, _ => rfl

/-- R1, R2: feature 0 is feature set 1. -/
theorem Set16.insert_zero (b : Set16) : Set16.insert b 0 = b ||| 1 := rfl

/-- R2: a SET ROW body in range is read back, with feature 0 added for PLAN and MEMBER. -/
theorem parseRow_rowBody {r : Row} {row : CatRow} (hp : row.price ≤ 50000) (hl : 100 ≤ row.cap)
    (hh : row.cap ≤ 1000) : parseRow (rowBody r row) = some (r, { row with
      features := if row.kind = .addon then row.features else row.features ||| 1 }) := by
  have hr : r.val < 256 := by omega
  have hprice : row.price < 65536 := by omega
  have hcap : row.cap < 65536 := by omega
  have hkind : row.kind.number % 256 = row.kind.number := Nat.mod_eq_of_lt row.kind.number_lt
  simp [parseRow, rowBody, u8, u16, flagByte, setBytes, inRange, Config.maxPrice, Set16.insert_zero,
    Nat.mod_eq_of_lt hr, hkind, hprice, hcap, hp, hl, hh]

/-- R2: a SET ROW body out of range is not read. -/
theorem parseRow_eq_none {b : List Byte} (h : 31 < byteAt b 0 ∨ 2 < byteAt b 1 ∨ 1 < byteAt b 2 ∨
    50000 < wordAt b 3 ∨ wordAt b 7 < 100 ∨ 1000 < wordAt b 7 ∨ 1 < byteAt b 9) :
    parseRow b = none := by
  have hsome : ∀ x, parseRow b ≠ some x := by
    intro x hx
    simp only [parseRow, Option.bind_eq_bind, Option.bind_eq_some_iff, inRange, Config.maxPrice,
      Option.ite_none_right_eq_some, Bool.and_eq_true, decide_eq_true_eq] at hx
    obtain ⟨r, hr, kind, hkind, active, hactive, disc, hdisc, ⟨hprice, hlow, hhigh⟩, -⟩ := hx
    have hindex : byteAt b 0 = r.val := fin?_eq_some.mp hr
    have hpriceLe : wordAt b 3 ≤ 50000 := of_decide_eq_true hprice
    rcases h with h | h | h | h | h | h | h
    · omega
    · simp [RowKind.ofCode_eq_none h] at hkind
    · simp [flagAt_eq_none h] at hactive
    · omega
    · omega
    · omega
    · simp [flagAt_eq_none h] at hdisc
  exact Option.eq_none_iff_forall_ne_some.mpr hsome

/-- R3, R4: what a lane's window must satisfy. -/
abbrev Menu.Fits (m : Menu) : Prop :=
  (m.size = 4 ∨ m.size = 8 ∨ m.size = 16) ∧ m.base % m.size = 0 ∧ m.base + m.size ≤ 32

/-- R4: a SET MENU body is read back when its window fits, and not otherwise. -/
theorem parseMenu_body (i : Lane) {m : Menu} (hs : m.size < 256) (hb : m.base < 256) :
    (m.Fits → parseMenu (u8 i.val ++ u8 m.size ++ u8 m.base) = some (i, m)) ∧
    (¬ m.Fits → parseMenu (u8 i.val ++ u8 m.size ++ u8 m.base) = none) := by
  have hi : i.val < 256 := by omega
  have hparse : parseMenu (u8 i.val ++ u8 m.size ++ u8 m.base) =
      if m.Fits then some (i, m) else none := by
    simp [parseMenu, Menu.Fits, u8, Nat.mod_eq_of_lt hi, Nat.mod_eq_of_lt hs, Nat.mod_eq_of_lt hb,
      or_assoc, and_assoc]
  exact ⟨fun h => by rw [hparse, if_pos h], fun h => by rw [hparse, if_neg h]⟩

theorem parseMenu_eq_none {b : List Byte} (h : 2 < byteAt b 0) : parseMenu b = none := by
  simp [parseMenu, fin?_eq_none.mpr h]

/-- R6: what a price period must satisfy. -/
abbrev Period.Fits (x : Period) : Prop := x.start ≤ 1439 ∧ x.stop ≤ 1439 ∧ x.discount ≤ 50

/-- R6: a SET PERIOD body is read back when its period fits, and not otherwise. -/
theorem parsePeriod_periodBody (k : Fin 4) {x : Period} (h1 : x.start < 65536) (h2 : x.stop < 65536)
    (h3 : x.discount < 256) : (x.Fits → parsePeriod (periodBody k x) = some (k, x)) ∧
      (¬ x.Fits → parsePeriod (periodBody k x) = none) := by
  have hk : k.val < 256 := by omega
  have hparse : parsePeriod (periodBody k x) = if x.Fits then some (k, x) else none := by
    simp [parsePeriod, periodBody, Period.Fits, u8, u16, Nat.mod_eq_of_lt hk, h1, h2,
      Nat.mod_eq_of_lt h3, and_assoc]
  exact ⟨fun h => by rw [hparse, if_pos h], fun h => by rw [hparse, if_neg h]⟩

theorem parsePeriod_eq_none {b : List Byte} (h : 3 < byteAt b 0) : parsePeriod b = none := by
  simp [parsePeriod, fin?_eq_none.mpr h]

/-! ## SET ROW, SET MENU and SET PERIOD -/

section
variable {b : List Byte} {s : State}

theorem saving_eq_false (h : s.store.save = none) : s.saving = false := by simp [State.saving, h]

theorem saving_eq_true (h : s.store.save ≠ none) : s.saving = true := by
  simpa [State.saving] using Option.isSome_iff_ne_none.mpr h

theorem setRowRequest_ok {r : Row} {row : CatRow} (hp : parseRow b = some (r, row))
    (h : s.store.save = none) : setRowRequest b s = (okWith [], { s with settings := { s.settings with
      catalogue := vset s.settings.catalogue r row } }) := by
  simp [setRowRequest, hp, saving_eq_false h]

theorem setRowRequest_busy {x : Row × CatRow} (hp : parseRow b = some x)
    (h : s.store.save ≠ none) : setRowRequest b s = (refuse .busy, s) := by
  simp [setRowRequest, hp, saving_eq_true h]

theorem setRowRequest_outOfRange (hp : parseRow b = none) :
    setRowRequest b s = (refuse .outOfRange, s) := by
  simp [setRowRequest, hp]

theorem setMenuRequest_ok {i : Lane} {m : Menu} (hp : parseMenu b = some (i, m))
    (h : s.store.save = none) (he : s.saleSlot i = .empty) :
    setMenuRequest b s = (okWith [], { s with settings := { s.settings with
      menus := vset s.settings.menus i m } }) := by
  simp [setMenuRequest, hp, saving_eq_false h, he]

theorem setMenuRequest_busy {i : Lane} {m : Menu} (hp : parseMenu b = some (i, m))
    (h : s.store.save ≠ none ∨ s.saleSlot i ≠ .empty) :
    setMenuRequest b s = (refuse .busy, s) := by
  rcases h with h | h
  · simp [setMenuRequest, hp, saving_eq_true h]
  · simp [setMenuRequest, hp, h]

theorem setMenuRequest_outOfRange (hp : parseMenu b = none) :
    setMenuRequest b s = (refuse .outOfRange, s) := by
  simp [setMenuRequest, hp]

theorem setPeriodRequest_ok {k : Fin 4} {x : Period} (hp : parsePeriod b = some (k, x))
    (h : s.store.save = none) :
    setPeriodRequest b s = (okWith [], { s with settings := { s.settings with
      periods := vset s.settings.periods k x } }) := by
  simp [setPeriodRequest, hp, saving_eq_false h]

theorem setPeriodRequest_busy {x : Fin 4 × Period} (hp : parsePeriod b = some x)
    (h : s.store.save ≠ none) : setPeriodRequest b s = (refuse .busy, s) := by
  simp [setPeriodRequest, hp, saving_eq_true h]

theorem setPeriodRequest_outOfRange (hp : parsePeriod b = none) :
    setPeriodRequest b s = (refuse .outOfRange, s) := by
  simp [setPeriodRequest, hp]

end

/-- R2: SET ROW, in every mode but LOCKOUT. -/
theorem exec_setRow (tag : Byte) {s : State} (ht : s.takes .site) (hm : s.mode ≠ .lockout) :
    (∀ (r : Row) (row : CatRow), row.price ≤ 50000 → 100 ≤ row.cap → row.cap ≤ 1000 →
      (s.store.save = none → exec (.setRow .site tag (rowBody r row)) s =
        answered .site 0x40 tag .ok [] { hunt .site s with settings := { s.settings with
          catalogue := vset s.settings.catalogue r { row with
            features := if row.kind = .addon then row.features else row.features ||| 1 } } }) ∧
      (s.store.save ≠ none → exec (.setRow .site tag (rowBody r row)) s =
        answered .site 0x40 tag .busy [] (hunt .site s))) ∧
    (∀ b : List Byte, b.length = 10 → parseRow b = none →
      exec (.setRow .site tag b) s = answered .site 0x40 tag .outOfRange [] (hunt .site s)) := by
  refine ⟨fun r row hp hl hh => ⟨fun hs => ?_, fun hs => ?_⟩, fun b hb hn => ?_⟩
  · exact request_ok (k := .setRow) ht rfl rfl (Or.inl hm)
      (setRowRequest_ok (s := hunt .site s) (parseRow_rowBody hp hl hh) hs)
  · exact request_refused (k := .setRow) ht rfl rfl (Or.inl hm)
      (setRowRequest_busy (s := hunt .site s) (parseRow_rowBody hp hl hh) hs)
  · exact request_refused (k := .setRow) ht rfl (by simp [RequestKind.lengthOk, hb]) (Or.inl hm)
      (setRowRequest_outOfRange hn)

/-- R4: SET MENU, in every mode but LOCKOUT. -/
theorem exec_setMenu (tag : Byte) {s : State} (ht : s.takes .site) (hm : s.mode ≠ .lockout)
    {b : List Byte} (hb : b.length = 3) :
    (∀ i m, parseMenu b = some (i, m) → s.store.save = none → s.saleSlot i = .empty →
      exec (.setMenu .site tag b) s = answered .site 0x41 tag .ok []
        { hunt .site s with settings := { s.settings with menus := vset s.settings.menus i m } }) ∧
    (∀ i m, parseMenu b = some (i, m) → (s.store.save ≠ none ∨ s.saleSlot i ≠ .empty) →
      exec (.setMenu .site tag b) s = answered .site 0x41 tag .busy [] (hunt .site s)) ∧
    (parseMenu b = none →
      exec (.setMenu .site tag b) s = answered .site 0x41 tag .outOfRange [] (hunt .site s)) := by
  have hlen : RequestKind.setMenu.lengthOk b.length = true := by simp [RequestKind.lengthOk, hb]
  refine ⟨fun i m hp hs he => ?_, fun i m hp hs => ?_, fun hp => ?_⟩
  · exact request_ok (k := .setMenu) ht rfl hlen (Or.inl hm)
      (setMenuRequest_ok (s := hunt .site s) hp hs he)
  · exact request_refused (k := .setMenu) ht rfl hlen (Or.inl hm)
      (setMenuRequest_busy (s := hunt .site s) hp hs)
  · exact request_refused (k := .setMenu) ht rfl hlen (Or.inl hm) (setMenuRequest_outOfRange hp)

/-- R6: SET PERIOD, in every mode but LOCKOUT. -/
theorem exec_setPeriod (tag : Byte) {s : State} (ht : s.takes .site) (hm : s.mode ≠ .lockout)
    {b : List Byte} (hb : b.length = 6) :
    (∀ k x, parsePeriod b = some (k, x) → s.store.save = none →
      exec (.setPeriod .site tag b) s = answered .site 0x42 tag .ok []
        { hunt .site s with settings := { s.settings with
          periods := vset s.settings.periods k x } }) ∧
    (∀ x, parsePeriod b = some x → s.store.save ≠ none →
      exec (.setPeriod .site tag b) s = answered .site 0x42 tag .busy [] (hunt .site s)) ∧
    (parsePeriod b = none →
      exec (.setPeriod .site tag b) s = answered .site 0x42 tag .outOfRange [] (hunt .site s)) := by
  have hlen : RequestKind.setPeriod.lengthOk b.length = true := by simp [RequestKind.lengthOk, hb]
  refine ⟨fun k x hp hs => ?_, fun x hp hs => ?_, fun hp => ?_⟩
  · exact request_ok (k := .setPeriod) ht rfl hlen (Or.inl hm)
      (setPeriodRequest_ok (s := hunt .site s) hp hs)
  · exact request_refused (k := .setPeriod) ht rfl hlen (Or.inl hm)
      (setPeriodRequest_busy (s := hunt .site s) hp hs)
  · exact request_refused (k := .setPeriod) ht rfl hlen (Or.inl hm)
      (setPeriodRequest_outOfRange hp)

/-- Settles O22: what each body reads as, with what the three requests do with it. -/
theorem rowsMenusAndPeriodsAreWritten : Obligations.RowsMenusAndPeriodsAreWritten := by
  unfold Obligations.RowsMenusAndPeriodsAreWritten
  refine ⟨fun tag s ht hm => ?_, fun tag s ht hm => ⟨?_, ?_, ?_, ?_⟩⟩
  · obtain ⟨hwrites, hrefuses⟩ := exec_setRow tag ht hm
    exact ⟨hwrites, fun b hb hout => hrefuses b hb (parseRow_eq_none hout)⟩
  · intro i m hsize hbase
    obtain ⟨hread, hunread⟩ := parseMenu_body i hsize hbase
    obtain ⟨hok, hbusy, hout⟩ :=
      exec_setMenu tag ht hm (b := u8 i.val ++ u8 m.size ++ u8 m.base) rfl
    exact ⟨fun hfit => hok i m (hread hfit), fun hfit => hbusy i m (hread hfit),
      fun hfit => hout (hunread hfit)⟩
  · intro b hb hlane
    obtain ⟨-, -, hout⟩ := exec_setMenu tag ht hm hb
    exact hout (parseMenu_eq_none hlane)
  · intro b hb hindex
    obtain ⟨-, -, hout⟩ := exec_setPeriod tag ht hm hb
    exact hout (parsePeriod_eq_none hindex)
  · intro k x hstart hstop hdisc
    obtain ⟨hread, hunread⟩ := parsePeriod_periodBody k hstart hstop hdisc
    obtain ⟨hok, hbusy, hout⟩ := exec_setPeriod tag ht hm (b := periodBody k x) rfl
    exact ⟨fun hfit => hok k x (hread hfit), fun hfit => hbusy _ (hread hfit),
      fun hfit => hout (hunread hfit)⟩

/-! ## The site clock and the discount in force (R5 to R7) -/

/-- R6: a period matches a minute from its start up to its end, past midnight when it ends before it
starts, and never when the two are equal. -/
theorem Period.covers_iff (p : Period) (m : Nat) : p.covers m = true ↔
    (p.start < p.stop ∧ p.start ≤ m ∧ m < p.stop) ∨
      (p.stop < p.start ∧ (p.start ≤ m ∨ m < p.stop)) := by
  unfold Period.covers
  rcases Nat.lt_trichotomy p.start p.stop with h | h | h
  · rw [if_neg (by omega), if_pos h, Bool.and_eq_true, decide_eq_true_eq, decide_eq_true_eq]
    omega
  · rw [if_pos h]
    simp
    omega
  · rw [if_neg (by omega), if_neg (by omega), Bool.or_eq_true, decide_eq_true_eq,
      decide_eq_true_eq]
    omega

theorem discount_unset {s : State} (h : s.sales.clock.unset = true) : s.discount = 0 := by
  simp [State.discount, h]

/-- R7: the first period that matches gives the discount in force. -/
theorem discount_first {s : State} (h : s.sales.clock.unset = false) {k : Fin 4}
    (hk : (s.settings.periods[k]).covers s.stamp.minute = true)
    (hfirst : ∀ j : Fin 4, j < k → (s.settings.periods[j]).covers s.stamp.minute = false) :
    s.discount = (s.settings.periods[k]).discount := by
  have hfind : s.settings.periods.toList.find? (fun p => p.covers s.stamp.minute) =
      some s.settings.periods[k] := by
    refine List.find?_eq_some_iff_getElem.mpr ⟨hk, k.val, by simp, by simp, fun j hj => ?_⟩
    simpa using hfirst ⟨j, by omega⟩ hj
  simp [State.discount, h, hfind]

/-- R7: with no period that matches, there is no discount. -/
theorem discount_none {s : State} (h : s.sales.clock.unset = false)
    (hnone : ∀ k : Fin 4, (s.settings.periods[k]).covers s.stamp.minute = false) :
    s.discount = 0 := by
  have hfind : s.settings.periods.toList.find? (fun p => p.covers s.stamp.minute) = none := by
    refine List.find?_eq_none.mpr fun p hp => ?_
    obtain ⟨k, hk, rfl⟩ := List.mem_iff_getElem.mp hp
    simpa using hnone ⟨k, by simpa using hk⟩
  simp [State.discount, h, hfind]

/-- R5: the two values of a SET CLOCK body are read back. -/
theorem wordAt_clockBody {day minute : Nat} (hd : day < 65536) (hm : minute < 65536) :
    wordAt (u16 day ++ u16 minute) 0 = day ∧ wordAt (u16 day ++ u16 minute) 2 = minute := by
  refine ⟨wordAt_u16 hd _, ?_⟩
  simp [u16, hm]

/-- R5: SET CLOCK, in every mode but LOCKOUT. -/
theorem exec_setClock (tag : Byte) {day minute : Nat} {s : State} (ht : s.takes .site)
    (hm : s.mode ≠ .lockout) (hday : day < 65536) (hminute : minute < 65536) :
    (minute ≤ 1439 → exec (.setClock .site tag (u16 day ++ u16 minute)) s =
      answered .site 0x43 tag .ok [] { hunt .site s with sales := { s.sales with
        clock := ⟨⟨day, minute⟩, false⟩, minuteTimer := .running 6000000 } }) ∧
    (1439 < minute → exec (.setClock .site tag (u16 day ++ u16 minute)) s =
      answered .site 0x43 tag .outOfRange [] (hunt .site s)) := by
  obtain ⟨hd, hmin⟩ := wordAt_clockBody hday hminute
  constructor <;> intro h
  · refine request_ok (k := .setClock) ht rfl rfl (Or.inl hm) ?_
    show setClockRequest _ _ = _
    rw [setClockRequest, hd, hmin, if_pos h]
    rfl
  · refine request_refused (k := .setClock) ht rfl rfl (Or.inl hm) ?_
    show setClockRequest _ _ = _
    rw [setClockRequest, hmin, if_neg (by omega)]

/-- R5: a minute is followed by the next, 1,439 by 0 of the next day, and day 65,535 by day 0. -/
theorem Stamp.next_eq {day minute : Nat} (hd : day ≤ 65535) (hm : minute ≤ 1439) :
    Stamp.next ⟨day, minute⟩ =
      if minute = 1439 then ⟨if day = 65535 then 0 else day + 1, 0⟩ else ⟨day, minute + 1⟩ := by
  by_cases h1 : minute = 1439 <;> by_cases h2 : day = 65535
  · simp [Stamp.next, h1, h2]
  · simp [Stamp.next, h1, h2, show day < 65535 by omega]
  · simp [Stamp.next, h1, show minute < 1439 by omega]
  · simp [Stamp.next, h1, show minute < 1439 by omega]

/-- R5: an expiry of the running minute timer advances the clock and starts the timer again. -/
theorem minuteExpiry_running {s : State} {left : Nat} (h : s.sales.minuteTimer = .running left) :
    minuteExpiry s = { s with sales := { s.sales with
      clock := { s.sales.clock with stamp := s.stamp.next }, minuteTimer := .running 6000000 } } := by
  have hruns : s.sales.minuteTimer.isRunning = true := by rw [h]; rfl
  exact if_pos hruns

/-- Settles O17, from the rules of the discount, of SET CLOCK and of the minute timer. -/
theorem theClockSetsTheDiscount : Obligations.TheClockSetsTheDiscount := by
  unfold Obligations.TheClockSetsTheDiscount
  refine ⟨fun s => ⟨discount_unset, fun hset => ⟨fun k hk hfirst => ?_, fun hnone => ?_⟩⟩,
    fun tag day minute s ht hm hday hminute => exec_setClock tag ht hm hday hminute,
    fun left day minute s htimer hstamp hday hminute => ?_⟩
  · refine discount_first hset ((Period.covers_iff _ _).mpr hk) fun j hj => ?_
    exact Bool.eq_false_iff.mpr fun h => hfirst j hj ((Period.covers_iff _ _).mp h)
  · refine discount_none hset fun k => ?_
    exact Bool.eq_false_iff.mpr fun h => hnone k ((Period.covers_iff _ _).mp h)
  · have hnext : s.stamp.next = _ := (congrArg Stamp.next hstamp).trans (Stamp.next_eq hday hminute)
    show done (minuteExpiry s) = _
    rw [minuteExpiry_running htimer, hnext]

end Sys2Proof.Machine
end

section
/-! # Plan sales: the ticket of a sale, QUOTE (R3, R12, R14, R15) -/

namespace Sys2Proof.Machine

variable {s : State} {i : Lane} {n : Nat}

/-! ## The ticket a new sale keeps or takes -/

/-- R15: a kept number is that of the slot's pending sale, and its ticket is live. -/
theorem keptTicket_eq_some (h : s.keptTicket i = some n) :
    (s.saleSlot i).ticket? = some n ∧ ∃ k, s.ticket? n = some k := by
  unfold State.keptTicket at h
  split at h
  · next m _ _ _ hslot =>
    split at h
    · next k hk =>
      obtain ⟨-, rfl⟩ := Option.ite_none_right_eq_some.mp h |>.imp_right Option.some.inj
      exact ⟨by rw [hslot]; rfl, k, hk⟩
    · cases h
  · cases h
  · cases h

/-- What the lane's sale slot holds leaves the table. -/
def clearedForSale (i : Lane) (s : State) : State :=
  match (s.saleSlot i).ticket? with
  | some t => freeTicket t s
  | none => s

theorem writeSale_kept (h : s.keptTicket i = some n) (record : Nat → Ticket) :
    writeSale i record s = (n, updateTicket n (fun _ => record n) s) := by
  simp [writeSale, h]

theorem writeSale_new (h : s.keptTicket i = none) (record : Nat → Ticket) :
    writeSale i record s = ((clearedForSale i s).nextNumber,
      addTicket (record (clearedForSale i s).nextNumber) (takeNumber (clearedForSale i s)).2) := by
  unfold writeSale
  rw [h]
  rfl

theorem saleNumber_kept (h : s.keptTicket i = some n) : s.saleNumber i = n := by
  simp [State.saleNumber, h]

theorem saleNumber_new (h : s.keptTicket i = none) :
    s.saleNumber i = (clearedForSale i s).nextNumber := by
  unfold State.saleNumber clearedForSale
  rw [h]
  cases (s.saleSlot i).ticket? <;> rfl

theorem clearedForSale_credits : (clearedForSale i s).credits = s.credits := by
  unfold clearedForSale
  split <;> rfl

/-- R12: a sale that needs a new slot finds one free once its lane's slot is cleared. -/
theorem freeSlots_clearedForSale (hslot : s.hasSlot i) (h : s.keptTicket i = none) :
    (clearedForSale i s).freeSlots ≠ 0 := by
  have hfree : 5 ≤ s.freeSlots + (if (s.saleSlot i).ticket?.isSome then 1 else 0) := by
    rcases hslot with hk | hk
    · simp [h] at hk
    · exact hk
  unfold clearedForSale
  cases hticket : (s.saleSlot i).ticket? with
  | none =>
    rw [hticket, Option.isSome_none, if_neg Bool.false_ne_true] at hfree
    dsimp only
    omega
  | some t =>
    rw [hticket, Option.isSome_some, if_pos rfl] at hfree
    have hle : s.freeSlots ≤ (freeTicket t s).freeSlots := freeSlots_le_freeTicket t s
    dsimp only
    omega

theorem ticket?_clearedForSale_other {m : Nat} (h : (s.saleSlot i).ticket? ≠ some m) :
    (clearedForSale i s).ticket? m = s.ticket? m := by
  unfold clearedForSale
  split
  · next t ht => exact ticket?_freeTicket_other (fun e => h (by rw [ht, e])) s
  · rfl

theorem ticket?_clearedForSale_held {m : Nat} (h : (s.saleSlot i).ticket? = some m) :
    (clearedForSale i s).ticket? m = none := by
  simp [clearedForSale, h]

theorem writeSale_number (record : Nat → Ticket) : (writeSale i record s).1 = s.saleNumber i := by
  cases h : s.keptTicket i with
  | some n => rw [writeSale_kept h, saleNumber_kept h]
  | none => rw [writeSale_new h, saleNumber_new h]

/-- What a sale's ticket leaves of the other records; Laws/SaleMoves says the rest. -/
theorem writeSale_leaves (i : Lane) (record : Nat → Ticket) (s : State) :
    (writeSale i record s).2.gate = s.gate ∧ (writeSale i record s).2.credits = s.credits ∧
      (writeSale i record s).2.memb = s.memb ∧ (writeSale i record s).2.track = s.track ∧
      (writeSale i record s).2.halt = s.halt ∧
      (writeSale i record s).2.sales.totals = s.sales.totals ∧
      (writeSale i record s).2.settings = s.settings := by
  rw [writeSale_rest i record s]
  exact ⟨rfl, rfl, rfl, rfl, rfl, rfl, rfl⟩

section
variable {record : Nat → Ticket} (hr : ∀ n, (record n).number = n)
include hr

/-- R15: the sale's ticket is the record written. -/
theorem ticket?_writeSale_same (hc : s.creditsFit) (hslot : s.hasSlot i) :
    (writeSale i record s).2.ticket? (s.saleNumber i) = some (record (s.saleNumber i)) := by
  cases h : s.keptTicket i with
  | some n =>
    obtain ⟨-, k, hk⟩ := keptTicket_eq_some h
    rw [writeSale_kept h, saleNumber_kept h, ticket?_updateTicket_same (fun _ _ => hr n), hk]
    rfl
  | none =>
    rw [writeSale_new h, saleNumber_new h]
    have hfree : (takeNumber (clearedForSale i s)).2.freeSlots ≠ 0 := freeSlots_clearedForSale hslot h
    have hcredits : (clearedForSale i s).creditsFit := by
      unfold State.creditsFit
      rw [clearedForSale_credits]
      exact hc
    have hnew : ∀ j ∈ (takeNumber (clearedForSale i s)).2.tickets,
        j.number ≠ (record (clearedForSale i s).nextNumber).number := by
      rw [hr]
      exact (nextNumber_unheld hcredits).1
    have hfound := ticket?_addTicket_new hfree hnew
    rwa [hr] at hfound

/-- R15: every ticket but the sale's and what the slot held stays. -/
theorem ticket?_writeSale_other {m : Nat} (hm : m ≠ s.saleNumber i)
    (hslot : (s.saleSlot i).ticket? ≠ some m) :
    (writeSale i record s).2.ticket? m = s.ticket? m := by
  cases h : s.keptTicket i with
  | some n =>
    rw [saleNumber_kept h] at hm
    rw [writeSale_kept h]
    exact ticket?_updateTicket_other (fun _ _ => hr n) hm s
  | none =>
    rw [saleNumber_new h] at hm
    rw [writeSale_new h, ticket?_addTicket_other (by rwa [hr])]
    exact ticket?_clearedForSale_other hslot

/-- R15: what else the slot held leaves the table. -/
theorem ticket?_writeSale_held {m : Nat} (hm : m ≠ s.saleNumber i)
    (hslot : (s.saleSlot i).ticket? = some m) : (writeSale i record s).2.ticket? m = none := by
  cases h : s.keptTicket i with
  | some n =>
    rw [saleNumber_kept h] at hm
    obtain ⟨hkept, -⟩ := keptTicket_eq_some h
    exact absurd (Option.some.inj (hslot.symm.trans hkept)) hm
  | none =>
    rw [saleNumber_new h] at hm
    rw [writeSale_new h, ticket?_addTicket_other (by rwa [hr])]
    exact ticket?_clearedForSale_held hslot

end

/-! ## The buttons of a QUOTE (R3, R14) -/

/-- R3: a button of the window names the row at its place; one past it names none. -/
theorem Menu.rowOf_inside {m : Menu} {b : Nat} {r : Row} (h : b < m.size) (hr : r.val = m.base + b) :
    m.rowOf b = some r := by
  rw [Menu.rowOf, if_pos h, ← hr, fin?_val]

theorem Menu.rowOf_outside {m : Menu} {b : Nat} (h : m.size ≤ b) : m.rowOf b = none :=
  if_neg (Nat.not_lt.mpr h)

/-- The buttons name rows when each of them does. -/
theorem mapM_eq_some {α β : Type} {f : α → Option β} : ∀ {l : List α} {rows : List β},
    l.map f = rows.map some → l.mapM f = some rows
  | [], [], _ => rfl
  | [], _ :: _, h => by simp at h
  | _ :: _, [], h => by simp at h
  | a :: l, r :: rows, h => by
    obtain ⟨ha, hl⟩ := List.cons.inj h
    simp [ha, mapM_eq_some hl]

/-- One button that names no row is enough. -/
theorem mapM_eq_none {α β : Type} {f : α → Option β} : ∀ {l : List α},
    none ∈ l.map f → l.mapM f = none
  | [], h => by simp at h
  | a :: l, h => by
    rw [List.mapM_cons]
    cases ha : f a with
    | none => rfl
    | some r =>
      have hl : none ∈ l.map f := by simpa [ha] using h
      rw [mapM_eq_none hl]
      rfl

/-- R14: active rows, a PLAN with ADDONs. -/
theorem quotable_iff {base : Row} {adds : List Row} : s.quotable base adds = true ↔
    (s.row base).active = true ∧ (s.row base).kind = .plan ∧
      ∀ r ∈ adds, (s.row r).active = true ∧ (s.row r).kind = .addon := by
  simp only [State.quotable, Bool.and_eq_true, List.all_eq_true, beq_iff_eq]
  constructor
  · rintro ⟨⟨⟨hb, ha⟩, hp⟩, hk⟩
    exact ⟨hb, hp, fun r hr => ⟨ha r hr, hk r hr⟩⟩
  · rintro ⟨hb, hp, h⟩
    exact ⟨⟨⟨hb, fun r hr => (h r hr).1⟩, hp⟩, fun r hr => (h r hr).2⟩

theorem slotRoom_iff : s.slotRoom i = true ↔ s.hasSlot i := by
  rw [State.slotRoom, Bool.or_eq_true]
  exact or_congr_right decide_eq_true_iff

theorem laneRoom_iff : s.laneRoom i = true ↔ (s.laneQueue i).length < 4 :=
  decide_eq_true_iff

/-! ## QUOTE (R14, R15) -/

section
variable {b : List Byte} {base : Row} {adds : List Row}

theorem quoteRequest_closed (hm : s.mode ≠ .openMode) :
    quoteRequest i b s = (refuse .closed, s) := if_pos hm

theorem quoteRequest_outOfRange (hm : s.mode = .openMode)
    (hb : none ∈ b.map (fun x => (s.settings.menus[i]).rowOf x.toNat)) :
    quoteRequest i b s = (refuse .outOfRange, s) := by
  rw [quoteRequest, if_neg (not_not.mpr hm), mapM_eq_none hb]

variable (hm : s.mode = .openMode)
  (hb : b.map (fun x => (s.settings.menus[i]).rowOf x.toNat) = some base :: adds.map some)
include hm hb

/-- R14: what a QUOTE of rows answers, by its tests in order. -/
theorem quoteRequest_rows : quoteRequest i b s =
    if s.quotable base adds = false then (refuse .notSellable, s)
    else if s.laneRoom i = false then (refuse .full, s)
    else if s.slotRoom i = false then (refuse .full, s)
    else
      (okWith (u16 (s.saleNumber i) ++
          u16 (priceOf (s.row base) (adds.map s.row) s.discount).total ++
          u8 (priceOf (s.row base) (adds.map s.row) s.discount).percent),
        setSaleSlot i
          (.pending (s.saleNumber i) (priceOf (s.row base) (adds.map s.row) s.discount).lines
            (Timer.seconds s.settings.timing.pendingTime) none)
          (writeSale i (quoteTicket i base adds
            (priceOf (s.row base) (adds.map s.row) s.discount)) s).2) := by
  rw [quoteRequest, if_neg (not_not.mpr hm), mapM_eq_some (rows := base :: adds) hb]
  simp only [Bool.not_eq_true', ← writeSale_number (quoteTicket i base adds
    (priceOf (s.row base) (adds.map s.row) s.discount))]

theorem quoteRequest_notSellable (hq : ¬ s.quotable base adds = true) :
    quoteRequest i b s = (refuse .notSellable, s) := by
  rw [quoteRequest_rows hm hb, if_pos (Bool.eq_false_iff.mpr hq)]

theorem quoteRequest_full (hq : s.quotable base adds = true)
    (hroom : 4 ≤ (s.laneQueue i).length ∨ ¬ s.hasSlot i) :
    quoteRequest i b s = (refuse .full, s) := by
  rw [quoteRequest_rows hm hb, if_neg (by simp [hq])]
  split
  · rfl
  · next hlane =>
    have hshort : (s.laneQueue i).length < 4 := laneRoom_iff.mp (by simpa using hlane)
    have hslot : ¬ s.slotRoom i = true := by
      rw [slotRoom_iff]
      exact hroom.resolve_left (by omega)
    rw [if_pos (Bool.eq_false_iff.mpr hslot)]

theorem quoteRequest_ok (hq : s.quotable base adds = true) (hlane : (s.laneQueue i).length < 4)
    (hslot : s.hasSlot i) : quoteRequest i b s =
      (okWith (u16 (s.saleNumber i) ++
          u16 (priceOf (s.row base) (adds.map s.row) s.discount).total ++
          u8 (priceOf (s.row base) (adds.map s.row) s.discount).percent),
        setSaleSlot i
          (.pending (s.saleNumber i) (priceOf (s.row base) (adds.map s.row) s.discount).lines
            (Timer.seconds s.settings.timing.pendingTime) none)
          (writeSale i (quoteTicket i base adds
            (priceOf (s.row base) (adds.map s.row) s.discount)) s).2) := by
  rw [quoteRequest_rows hm hb, if_neg (by simp [hq]), if_neg (by simp [laneRoom_iff.mpr hlane]),
    if_neg (by simp [slotRoom_iff.mpr hslot])]

end

theorem quote_lengthOk {b : List Byte} (h1 : 1 ≤ b.length) (h4 : b.length ≤ 4) :
    RequestKind.quote.lengthOk b.length = true := by simp [RequestKind.lengthOk, h1, h4]

/-- A QUOTE that the block refuses leaves all but the port alone. -/
theorem exec_quote_refused {b : List Byte} {tag : Byte} {st : Status} (ht : s.takes (.lane i))
    (hm : s.mode ≠ .lockout) (h1 : 1 ≤ b.length) (h4 : b.length ≤ 4)
    (h : quoteRequest i b (hunt (.lane i) s) = (refuse st, hunt (.lane i) s)) :
    exec (.quote (.lane i) tag b) s =
      answered (.lane i) 0x10 tag st [] (hunt (.lane i) s) :=
  request_refused (k := .quote) ht rfl (quote_lengthOk h1 h4) (Or.inl hm) h

/-- Settles O19: the receiver apart, a QUOTE is quoteRequest, and the ticket it writes is found by the
rules of writeSale. -/
theorem quoteOpensAPendingSale : Obligations.QuoteOpensAPendingSale := by
  unfold Obligations.QuoteOpensAPendingSale
  refine ⟨fun m b => ⟨fun h r hr => Menu.rowOf_inside h hr, Menu.rowOf_outside⟩, ?_, ?_⟩
  · intro i tag b base adds s ht hc hm h1 h4 hb hactive hplan hadds hlane hslot pr n
    have hq : s.quotable base adds = true := quotable_iff.mpr ⟨hactive, hplan, hadds⟩
    have hnum : ∀ k, (quoteTicket i base adds pr k).number = k := fun _ => rfl
    have hserved := quoteRequest_ok (s := hunt (.lane i) s) hm hb hq hlane hslot
    refine ⟨_, request_ok (k := .quote) ht rfl (quote_lengthOk h1 h4) (Or.inl (by simp [hm])) hserved,
      ?_, ?_, ?_, ?_, ?_, ?_⟩
    · exact congrArg PortState.request (port_setPort_same _ _ _)
    · exact (saleSlot_set i i _ _).trans (if_pos rfl)
    · exact ticket?_writeSale_same (s := hunt (.lane i) s) hnum hc hslot
    · exact fun m hmn hheld => ticket?_writeSale_other (s := hunt (.lane i) s) hnum hmn hheld
    · exact fun m hheld hmn => ticket?_writeSale_held (s := hunt (.lane i) s) hnum hmn hheld
    · exact writeSale_leaves i (quoteTicket i base adds pr) (hunt (.lane i) s)
  · intro i tag b s ht hm h1 h4 rows no
    refine ⟨fun hclosed => ?_, fun hopen hnone => ?_, fun base adds hopen hrows =>
      ⟨fun hbad => ?_, fun hactive hplan hadds hroom => ?_⟩⟩
    · exact exec_quote_refused ht hm h1 h4 (quoteRequest_closed (s := hunt (.lane i) s) hclosed)
    · exact exec_quote_refused ht hm h1 h4
        (quoteRequest_outOfRange (s := hunt (.lane i) s) hopen hnone)
    · refine exec_quote_refused ht hm h1 h4
        (quoteRequest_notSellable (s := hunt (.lane i) s) hopen hrows fun hq => ?_)
      obtain ⟨hactive, hplan, hadds⟩ := quotable_iff.mp hq
      rcases hbad with h | h | ⟨r, hr, h | h⟩
      · exact Bool.false_ne_true (h.symm.trans hactive)
      · exact h hplan
      · exact Bool.false_ne_true (h.symm.trans (hadds r hr).1)
      · exact h (hadds r hr).2
    · exact exec_quote_refused ht hm h1 h4 (quoteRequest_full (s := hunt (.lane i) s) hopen hrows
        (quotable_iff.mpr ⟨hactive, hplan, hadds⟩) hroom)

end Sys2Proof.Machine
end

section
/-! # Plan sales: PAY, CANCEL and the pending timer (R16 to R18, R23, R41) -/

namespace Sys2Proof.Machine

variable {s t : State} {i : Lane} {n : Nat}

/-! ## The end of a sale in its lane queue -/

/-- R17: the ticket joins its lane queue and the sale slot is empty. -/
def queueSale (i : Lane) (n : Nat) (s : State) : State :=
  setSaleSlot i .empty (joinLaneQueue i n s)

@[simp] theorem queueSale_saleSlot_same (s : State) : (queueSale i n s).saleSlot i = .empty :=
  (saleSlot_set i i _ _).trans (if_pos rfl)

@[simp] theorem queueSale_laneQueue_same (s : State) :
    (queueSale i n s).laneQueue i = s.laneQueue i ++ [n] :=
  (laneQueue_set i i _ _).trans (if_pos rfl)

theorem queueSale_otherLane {l : Lane} (h : l ≠ i) (s : State) :
    (queueSale i n s).laneQueue l = s.laneQueue l ∧ (queueSale i n s).saleSlot l = s.saleSlot l :=
  ⟨(laneQueue_set i l _ _).trans (if_neg (Ne.symm h)), (saleSlot_set i l _ _).trans (if_neg (Ne.symm h))⟩

theorem ticket?_queueSale_same (s : State) : (queueSale i n s).ticket? n =
    (s.ticket? n).map (fun k => { k with state := .laneQueued }) :=
  ticket?_updateTicket_same (g := fun k => { k with state := .laneQueued }) (fun _ h => h) s

theorem ticket?_queueSale_other {m : Nat} (h : m ≠ n) (s : State) :
    (queueSale i n s).ticket? m = s.ticket? m :=
  ticket?_updateTicket_other (g := fun k => { k with state := .laneQueued }) (fun _ h => h) h s

/-! ## What is written of a sale before it is queued -/

/-- R17, R23: a PAID ticket keeps the receipt, and each row is counted with its line amount. -/
def settlePaid (n : Nat) (k : Ticket) (lines : List Nat) (receipt : Word32) (s : State) : State :=
  countRows (k.baseRow.toList ++ k.addOns) lines
    (updateTicket n (fun k => { k with receipt := some receipt }) s)

/-- R41: the credit that the sale names leaves the list. -/
def spendCredit (names : Option Nat) (s : State) : State :=
  match names with
  | some code => removeCredit code s
  | none => s

/-- R41, R23: for a REWASH ticket the credit is spent and the base row is counted with 0. -/
def settleRewash (k : Ticket) (names : Option Nat) (s : State) : State :=
  match k.baseRow with
  | some r => countRow r 0 (spendCredit names s)
  | none => spendCredit names s

/-- The records that settling a sale leaves alone. -/
def saleRest (s : State) :=
  (s.gate, s.sales.saleSlots, s.track, s.halt, s.memb, s.settings)

/-- Beside the ticket, settling a PAID sale writes totals alone. -/
theorem settlePaid_eq (n : Nat) (k : Ticket) (lines : List Nat) (receipt : Word32) (s : State) :
    ∃ x, settlePaid n k lines receipt s =
      { updateTicket n (fun k => { k with receipt := some receipt }) s with
        sales := { (updateTicket n (fun k => { k with receipt := some receipt }) s).sales with
          totals := x } } :=
  countRows_totals _ _ _

theorem settlePaid_rest (n : Nat) (k : Ticket) (lines : List Nat) (receipt : Word32) (s : State) :
    saleRest (settlePaid n k lines receipt s) = saleRest s := by
  obtain ⟨totals, h⟩ := settlePaid_eq n k lines receipt s
  rw [h]
  rfl

theorem settlePaid_credits (n : Nat) (k : Ticket) (lines : List Nat) (receipt : Word32) (s : State) :
    (settlePaid n k lines receipt s).credits = s.credits := by
  obtain ⟨totals, h⟩ := settlePaid_eq n k lines receipt s
  rw [h]
  rfl

/-- Counting rows touches no ticket. -/
theorem ticket?_settlePaid (n m : Nat) (k : Ticket) (lines : List Nat) (receipt : Word32)
    (s : State) : (settlePaid n k lines receipt s).ticket? m =
      (updateTicket n (fun k => { k with receipt := some receipt }) s).ticket? m := by
  obtain ⟨totals, h⟩ := settlePaid_eq n k lines receipt s
  rw [h]
  rfl

theorem ticket?_settlePaid_same {k : Ticket} (h : s.ticket? n = some k) (lines : List Nat)
    (receipt : Word32) :
    (settlePaid n k lines receipt s).ticket? n = some { k with receipt := some receipt } := by
  rw [ticket?_settlePaid, ticket?_updateTicket_same (g := fun k => { k with receipt := some receipt })
    (fun _ h => h), h]
  rfl

theorem ticket?_settlePaid_other {m : Nat} (h : m ≠ n) (k : Ticket) (lines : List Nat)
    (receipt : Word32) (s : State) :
    (settlePaid n k lines receipt s).ticket? m = s.ticket? m := by
  rw [ticket?_settlePaid]
  exact ticket?_updateTicket_other (g := fun k => { k with receipt := some receipt })
    (fun _ h => h) h s

/-- What is counted depends on the totals alone. -/
theorem foldl_countRow_congr : ∀ (l : List (Row × Nat)) {s t : State},
    s.sales.totals = t.sales.totals →
      (l.foldl (fun s x => countRow x.1 x.2 s) s).sales.totals =
        (l.foldl (fun s x => countRow x.1 x.2 s) t).sales.totals
  | [], _, _, h => h
  | x :: l, _, _, h => foldl_countRow_congr l (by simp only [countRow, h])

theorem settlePaid_totals (n : Nat) (k : Ticket) (lines : List Nat) (receipt : Word32)
    (h : t.sales.totals = s.sales.totals) : (settlePaid n k lines receipt t).sales.totals =
      (((k.baseRow.toList ++ k.addOns).zip lines).foldl
        (fun s x => countRow x.1 x.2 s) s).sales.totals :=
  foldl_countRow_congr _ h

theorem spendCredit_credits (names : Option Nat) (s : State) :
    (spendCredit names s).credits = s.credits.filter (fun c => some c.code ≠ names) := by
  cases names <;> simp [spendCredit, removeCredit]

theorem settleRewash_credits (k : Ticket) (names : Option Nat) (s : State) :
    (settleRewash k names s).credits = s.credits.filter (fun c => some c.code ≠ names) := by
  rw [← spendCredit_credits, settleRewash]
  split <;> rfl

theorem settleRewash_rest (k : Ticket) (names : Option Nat) (s : State) :
    saleRest (settleRewash k names s) = saleRest s := by
  unfold settleRewash
  cases k.baseRow <;> cases names <;> rfl

theorem ticket?_settleRewash (k : Ticket) (names : Option Nat) (m : Nat) (s : State) :
    (settleRewash k names s).ticket? m = s.ticket? m := by
  unfold settleRewash
  cases k.baseRow <;> cases names <;> rfl

theorem settleRewash_totals (k : Ticket) (names : Option Nat)
    (h : t.sales.totals = s.sales.totals) : (settleRewash k names t).sales.totals =
      (k.baseRow.toList.foldl (fun s r => countRow r 0 s) s).sales.totals := by
  have hspent : (spendCredit names t).sales.totals = s.sales.totals := by
    cases names <;> exact h
  unfold settleRewash
  cases k.baseRow with
  | none => exact hspent
  | some r => simp [countRow, hspent]

/-! ## PAY (R17) -/

theorem trading_iff : s.trading = true ↔ s.mode = .openMode ∨ s.mode = .draining := by
  simp [State.trading]

theorem payRequest_closed {b : List Byte} (h : s.mode = .setup ∨ s.mode = .closed) :
    payRequest i b s = (refuse .closed, s) := by
  have htrading : s.trading = false := by rcases h with h | h <;> simp [State.trading, h]
  simp [payRequest, htrading]

theorem payRequest_notFound {b : List Byte} (hm : s.mode = .openMode ∨ s.mode = .draining)
    (h : ∀ n lines tm names, s.saleSlot i ≠ .pending n lines tm names) :
    payRequest i b s = (refuse .notFound, s) := by
  rw [payRequest, if_neg (by simp [trading_iff.mpr hm])]
  cases hslot : s.saleSlot i with
  | empty => rfl
  | lookup => rfl
  | pending n lines tm names => exact absurd hslot (h n lines tm names)

/-- R17, R41: PAY settles the pending sale by the kind of its ticket and queues it. -/
theorem payRequest_ok {b : List Byte} {lines : List Nat} {tm : Timer} {names : Option Nat}
    {k : Ticket} (hm : s.mode = .openMode ∨ s.mode = .draining)
    (hslot : s.saleSlot i = .pending n lines tm names) (hk : s.ticket? n = some k) :
    payRequest i b s = (okWith (u16 n), queueSale i n
      (if k.kind = .rewash then settleRewash k names s
        else settlePaid n k lines (longAt b 0) s)) := by
  rw [payRequest, if_neg (by simp [trading_iff.mpr hm]), hslot]
  simp only [hk]
  rfl

/-- What a PAY leaves behind, from what its settling u leaves of the records. -/
theorem answered_queueSale (i : Lane) (tag : Byte) (n : Nat) {u : State}
    (h : saleRest u = saleRest s) :
    ∃ t, answered (.lane i) 0x11 tag .ok (u16 n) (queueSale i n u) = .next t ∧
      (t.port (.lane i)).request = .replying ⟨0x91, tag, u8 0 ++ u16 n⟩ ∧
      t.saleSlot i = .empty ∧ t.laneQueue i = s.laneQueue i ++ [n] ∧
      (∀ l, l ≠ i → t.laneQueue l = s.laneQueue l ∧ t.saleSlot l = s.saleSlot l) ∧
      (∀ m, m ≠ n → t.ticket? m = u.ticket? m) ∧
      t.ticket? n = (u.ticket? n).map (fun k => { k with state := .laneQueued }) ∧
      t.credits = u.credits ∧ t.sales.totals = u.sales.totals ∧
      t.track = s.track ∧ t.halt = s.halt ∧ t.memb = s.memb ∧ t.settings = s.settings := by
  simp only [saleRest, Prod.mk.injEq] at h
  obtain ⟨hgate, hslots, htrack, hhalt, hmemb, hsettings⟩ := h
  have hqueue : ∀ l, u.laneQueue l = s.laneQueue l := fun l => by simp only [State.laneQueue, hgate]
  have hslot : ∀ l, u.saleSlot l = s.saleSlot l := fun l => by simp only [State.saleSlot, hslots]
  refine ⟨_, rfl, congrArg PortState.request (port_setPort_same _ _ _), queueSale_saleSlot_same u,
    (queueSale_laneQueue_same u).trans (by rw [hqueue]), fun l hl => ?_,
    fun m hm => ticket?_queueSale_other hm u, ticket?_queueSale_same u, rfl, rfl,
    htrack, hhalt, hmemb, hsettings⟩
  rw [← hqueue l, ← hslot l]
  exact queueSale_otherLane hl u

/-- R17: PAY of a pending sale, at a port that takes its frame. -/
theorem exec_pay (tag : Byte) (receipt : Word32) {lines : List Nat} {tm : Timer}
    {names : Option Nat} {k : Ticket} (ht : s.takes (.lane i))
    (hm : s.mode = .openMode ∨ s.mode = .draining)
    (hslot : s.saleSlot i = .pending n lines tm names) (hk : s.ticket? n = some k) :
    exec (.pay (.lane i) tag (u32 receipt.toNat)) s = answered (.lane i) 0x11 tag .ok (u16 n)
      (queueSale i n (if k.kind = .rewash then settleRewash k names (hunt (.lane i) s)
        else settlePaid n k lines receipt (hunt (.lane i) s))) := by
  have hopen : s.mode ≠ .lockout := by rcases hm with h | h <;> simp [h]
  have hread : longAt (u32 receipt.toNat) 0 = receipt := by
    simpa using longAt_u32 receipt []
  have hserved := payRequest_ok (b := u32 receipt.toNat) (s := hunt (.lane i) s) hm hslot hk
  rw [hread] at hserved
  exact request_ok (k := .pay) ht rfl rfl (Or.inl hopen) hserved

theorem exec_pay_refused (tag : Byte) (receipt : Word32) {st : Status} (ht : s.takes (.lane i))
    (hm : s.mode ≠ .lockout)
    (h : payRequest i (u32 receipt.toNat) (hunt (.lane i) s) = (refuse st, hunt (.lane i) s)) :
    exec (.pay (.lane i) tag (u32 receipt.toNat)) s =
      answered (.lane i) 0x11 tag st [] (hunt (.lane i) s) :=
  request_refused (k := .pay) ht rfl rfl (Or.inl hm) h

/-! ## CANCEL and the pending timer (R16, R18) -/

theorem ticket?_none_iff_empty {x : SaleSlot} : x.ticket? = none ↔ x = .empty := by
  cases x <;> simp [SaleSlot.ticket?]

theorem cancelSlot_held (h : (s.saleSlot i).ticket? = some n) :
    cancelSlot i s = setSaleSlot i .empty (freeTicket n s) := by
  simp [cancelSlot, h]

theorem cancelRequest_held (h : (s.saleSlot i).ticket? = some n) :
    cancelRequest i s =
      (okWith (u16 n), settleDrain s (setSaleSlot i .empty (freeTicket n s))) := by
  simp [cancelRequest, h, cancelSlot_held h]

theorem cancelRequest_empty (h : s.saleSlot i = .empty) :
    cancelRequest i s = (refuse .notFound, s) := by
  simp [cancelRequest, ticket?_none_iff_empty.mpr h]

theorem pendingExpiry_running {lines : List Nat} {left : Nat} {names : Option Nat}
    (h : s.saleSlot i = .pending n lines (.running left) names) :
    pendingExpiry i s = settleDrain s (raiseTo (.lane i) (.saleLapsed n)
      (setSaleSlot i .empty (freeTicket n s))) := by
  have hheld : (s.saleSlot i).ticket? = some n := by rw [h]; rfl
  simp [pendingExpiry, h, Timer.isRunning, cancelSlot_held hheld]

theorem pendingExpiry_other
    (h : ∀ n lines left names, s.saleSlot i ≠ .pending n lines (.running left) names) :
    pendingExpiry i s = s := by
  cases hslot : s.saleSlot i with
  | empty => simp [pendingExpiry, hslot]
  | lookup => simp [pendingExpiry, hslot]
  | pending n lines tm names =>
    cases tm with
    | running left => exact absurd hslot (h n lines left names)
    | stopped => simp [pendingExpiry, hslot, Timer.isRunning]
    | paused left => simp [pendingExpiry, hslot, Timer.isRunning]

/-- Settles O20: PAY by the kind of its ticket, then the ends of a sale without one. -/
theorem salesArePaidOrEnd : Obligations.SalesArePaidOrEnd := by
  unfold Obligations.SalesArePaidOrEnd
  refine ⟨?_, fun i s => ⟨fun tag ht hm => ⟨fun n hn => ?_, fun he => ?_⟩,
    fun tag receipt ht => ⟨fun hm => ?_, fun hm hp => ?_⟩, ?_, ?_, ?_⟩⟩
  · intro i tag receipt n lines tm names k s ht hm hslot hk hkind
    have hexec := exec_pay tag receipt ht hm hslot hk
    rcases hkind with hpaid | hrewash
    · have hkind : k.kind ≠ .rewash := by simp [hpaid]
      rw [if_neg hkind] at hexec
      obtain ⟨t, hnext, hreply, hempty, hqueue, hlanes, hothers, hsame, hcredits, htotals, hrest⟩ :=
        answered_queueSale (s := s) i tag n
          (settlePaid_rest n k lines receipt (hunt (.lane i) s))
      refine ⟨t, hexec.trans hnext, hreply, hempty, hqueue, hlanes,
        fun m hm => (hothers m hm).trans (ticket?_settlePaid_other hm _ _ _ _),
        fun _ => ⟨?_, hcredits.trans (settlePaid_credits _ _ _ _ _),
          htotals.trans (settlePaid_totals _ _ _ _ rfl)⟩,
        fun h => absurd h hkind, hrest⟩
      rw [hsame, ticket?_settlePaid_same (s := hunt (.lane i) s) hk]
      rfl
    · rw [if_pos hrewash] at hexec
      obtain ⟨t, hnext, hreply, hempty, hqueue, hlanes, hothers, hsame, hcredits, htotals, hrest⟩ :=
        answered_queueSale (s := s) i tag n (settleRewash_rest k names (hunt (.lane i) s))
      refine ⟨t, hexec.trans hnext, hreply, hempty, hqueue, hlanes,
        fun m hm => (hothers m hm).trans (ticket?_settleRewash _ _ _ _),
        fun h => absurd (h.symm.trans hrewash) (by decide),
        fun _ => ⟨?_, hcredits.trans (settleRewash_credits _ _ _),
          htotals.trans (settleRewash_totals _ _ rfl)⟩, hrest⟩
      rw [hsame, ticket?_settleRewash]
      exact congrArg (Option.map _) hk
  · exact request_ok (k := .cancel) ht rfl rfl (Or.inl hm) (cancelRequest_held hn)
  · exact request_refused (k := .cancel) ht rfl rfl (Or.inl hm) (cancelRequest_empty he)
  · exact exec_pay_refused tag receipt ht (by rcases hm with h | h <;> simp [h])
      (payRequest_closed hm)
  · exact exec_pay_refused tag receipt ht (by rcases hm with h | h <;> simp [h])
      (payRequest_notFound hm hp)
  · exact fun n lines left names h => congrArg done (pendingExpiry_running h)
  · exact fun h => congrArg done (pendingExpiry_other h)
  · exact fun n => ⟨ticket?_freeTicket_same n s, fun m h => ticket?_freeTicket_other h s⟩

end Sys2Proof.Machine
end

section
/-! # Plan sales: a ticket that leaves with a result (R20 to R22, R38 to R40) -/

namespace Sys2Proof.Machine

variable {s : State} {n : Nat} {k : Ticket} {r : Result}

/-! ## Notices (R184) -/

/-- R184: a notice that is raised is pending. -/
theorem mem_addNotice (x : Notice) : ∀ l : List Notice, x ∈ addNotice x l
  | [] => by simp [addNotice]
  | y :: l => by
    have ih := mem_addNotice x l
    unfold addNotice
    split
    · simp
    · split
      · simp
      · simp [ih]

theorem mem_notices_raiseTo (p : Port) (x : Notice) (s : State) :
    x ∈ ((raiseTo p x s).port p).notices := by
  simp only [raiseTo, port_setPort_same]
  exact mem_addNotice x _

theorem port_raiseTo_other {p q : Port} (h : p ≠ q) (x : Notice) (s : State) :
    (raiseTo p x s).port q = s.port q := port_setPort_other s _ h

/-! ## The credit a ticket earns (R38, R39) -/

/-- R39: a pending sale that names the dropped code names none from then on. -/
theorem SaleSlot.forget_named (m : Nat) (lines : List Nat) (x : Timer) (code : Nat) :
    (SaleSlot.pending m lines x (some code)).forget code = .pending m lines x none := by
  simp [SaleSlot.forget]

theorem SaleSlot.forget_unnamed {x : SaleSlot} {code : Nat} (h : x.names? ≠ some code) :
    x.forget code = x := by
  cases x with
  | empty => rfl
  | lookup => rfl
  | pending m lines tm names => exact congrArg (SaleSlot.pending m lines tm) (if_neg h)

/-- R38: the credit that a leaving ticket leaves. -/
def creditOf (k : Ticket) (r : Result) (s : State) : Credit :=
  { code := k.number, baseRow := k.baseRow, features := k.features, cap := k.cap, reason := r,
    stamp := s.sales.clock.stamp, origin := k.origin }

theorem issueCredit_room (h : s.credits.length < 32) :
    issueCredit k r s = { s with credits := s.credits ++ [creditOf k r s] } := by
  have hroom : ¬ Config.creditMax ≤ s.credits.length := Nat.not_le.mpr h
  rw [issueCredit, if_neg hroom]
  rfl

theorem issueCredit_full {c : Credit} {rest : List Credit} (hc : s.credits = c :: rest)
    (h : 32 ≤ s.credits.length) : issueCredit k r s = raiseTo .site (.creditDropped c.code)
      { s with
        credits := rest ++ [creditOf k r s]
        sales := { s.sales with saleSlots := vmap (SaleSlot.forget c.code) s.sales.saleSlots } } := by
  have hfull : Config.creditMax ≤ s.credits.length := h
  rw [issueCredit, if_pos hfull, dropOldestCredit, hc]
  rfl

theorem issueCredit_credits (k : Ticket) (r : Result) (s : State) : (issueCredit k r s).credits =
    (if 32 ≤ s.credits.length then s.credits.drop 1 else s.credits) ++ [creditOf k r s] := by
  split
  · next h =>
    cases hc : s.credits with
    | nil => simp [hc] at h
    | cons c rest => rw [issueCredit_full hc h]; rfl
  · next h => rw [issueCredit_room (by omega)]

/-- R39: the sale slots after a credit is issued: each forgets the code that was dropped. -/
theorem issueCredit_saleSlot_full {c : Credit} (hc : s.credits.head? = some c)
    (h : 32 ≤ s.credits.length) (i : Lane) :
    (issueCredit k r s).saleSlot i = (s.saleSlot i).forget c.code := by
  obtain ⟨rest, hrest⟩ := List.head?_eq_some_iff.mp hc
  rw [issueCredit_full hrest h]
  exact vmap_getElem _ _ _ _

theorem issueCredit_saleSlot_room (h : s.credits.length < 32) (i : Lane) :
    (issueCredit k r s).saleSlot i = s.saleSlot i := by
  rw [issueCredit_room h]
  rfl

theorem issueCredit_notice {c : Credit} (hc : s.credits.head? = some c)
    (h : 32 ≤ s.credits.length) :
    .creditDropped c.code ∈ ((issueCredit k r s).port .site).notices := by
  obtain ⟨rest, hrest⟩ := List.head?_eq_some_iff.mp hc
  rw [issueCredit_full hrest h]
  exact mem_notices_raiseTo _ _ _

/-- What issuing a credit leaves: the ticket table, the finished lists and the member entries. -/
theorem issueCredit_leaves (k : Ticket) (r : Result) (s : State) :
    (issueCredit k r s).sales.slots = s.sales.slots ∧
      (issueCredit k r s).sales.finished = s.sales.finished ∧ (issueCredit k r s).memb = s.memb := by
  by_cases h : 32 ≤ s.credits.length
  · cases hc : s.credits with
    | nil => simp [hc] at h
    | cons c rest => rw [issueCredit_full hc h]; exact ⟨rfl, rfl, rfl⟩
  · rw [issueCredit_room (by omega)]
    exact ⟨rfl, rfl, rfl⟩

/-! ## The stamp a member keeps (R40) -/

theorem entry_clearStamp (t : Word32) (s : State) (e : EntryIx) : (clearStamp t s).entry e =
    if (s.entry e).covers t = true then { s.entry e with stamp := none } else s.entry e :=
  vmap_getElem _ _ _ _

/-! ## What a ticket leaves with (R22) -/

/-- R22 step 1: a result and a kind that earn a credit. -/
abbrev Earns (k : Ticket) (r : Result) : Prop :=
  r ≠ .full ∧ (k.kind = .paid ∨ k.kind = .rewash ∨ k.kind = .consoleSold)

theorem earns_iff : (r != .full && k.kind.earnsCredit) = true ↔ Earns k r := by
  cases hk : k.kind <;> simp [Earns, TicketKind.earnsCredit, hk]

/-- R22: a ticket without a credit: a MEMBER one clears the stamp of the entries that cover its
tag. -/
def unstamped (k : Ticket) (r : Result) (s : State) : State :=
  if r ≠ .full ∧ k.kind = .member then
    match k.tag with
    | some tg => clearStamp tg s
    | none => s
  else s

/-- R22: the ticket leaves the table, and a lane ticket's entry joins its lane's finished list. -/
def leaveTable (n : Nat) (k : Ticket) (r : Result) (credit : Option Nat) (s : State) : State :=
  match k.origin with
  | .lane i => pushFinished i ⟨n, k.receipt, r, credit⟩ (freeTicket n s)
  | .console => freeTicket n s

theorem retireTicket_earning (h : s.ticket? n = some k) (he : Earns k r) :
    retireTicket n r s = leaveTable n k r (some n) (issueCredit k r s) := by
  simp only [retireTicket, h, earns_iff.mpr he, if_true]
  rfl

theorem retireTicket_plain (h : s.ticket? n = some k) (he : ¬ Earns k r) :
    retireTicket n r s = leaveTable n k r none (unstamped k r s) := by
  have hcredited : (r != .full && k.kind.earnsCredit) = false :=
    Bool.eq_false_iff.mpr fun e => he (earns_iff.mp e)
  simp only [retireTicket, h, hcredited, Bool.false_eq_true, if_false]
  rfl

theorem entry_unstamped (k : Ticket) (r : Result) (s : State) (e : EntryIx) :
    (unstamped k r s).entry e =
      if r ≠ .full ∧ k.kind = .member ∧ (∃ tg, k.tag = some tg ∧ (s.entry e).covers tg = true) then
        { s.entry e with stamp := none }
      else s.entry e := by
  unfold unstamped
  by_cases hm : r ≠ .full ∧ k.kind = .member
  · rw [if_pos hm]
    cases htag : k.tag with
    | none => simp
    | some tg => simp [entry_clearStamp, hm]
  · rw [if_neg hm, if_neg fun h => hm ⟨h.1, h.2.1⟩]

/-- What clearing a stamp leaves: the sales and the credits. -/
theorem unstamped_leaves (k : Ticket) (r : Result) (s : State) :
    (unstamped k r s).sales = s.sales ∧ (unstamped k r s).credits = s.credits := by
  unfold unstamped
  repeat' split
  all_goals exact ⟨rfl, rfl⟩

section
variable (n : Nat) (k : Ticket) (r : Result) (credit : Option Nat) (s : State)

theorem ticket?_leaveTable (m : Nat) :
    (leaveTable n k r credit s).ticket? m = (freeTicket n s).ticket? m := by
  unfold leaveTable
  split <;> rfl

/-- What the leaving itself keeps: the credits, the sale slots, the member entries and the site
port. -/
theorem leaveTable_leaves : (leaveTable n k r credit s).credits = s.credits ∧
    (∀ i, (leaveTable n k r credit s).saleSlot i = s.saleSlot i) ∧
    (∀ e, (leaveTable n k r credit s).entry e = s.entry e) ∧
    (leaveTable n k r credit s).port .site = s.port .site := by
  unfold leaveTable
  split
  · exact ⟨rfl, fun _ => rfl, fun _ => rfl, port_raiseTo_other (by simp) _ _⟩
  · exact ⟨rfl, fun _ => rfl, fun _ => rfl, rfl⟩

variable {n k r credit s}

/-- R20, R21: the entry at the head of its lane's list, and its notice. -/
theorem leaveTable_finished {i : Lane} (h : k.origin = .lane i) :
    (leaveTable n k r credit s).sales.finished[i] =
      ((⟨n, k.receipt, r, credit⟩ : Finished) :: s.sales.finished[i]).take 4 ∧
    .saleDone ⟨n, k.receipt, r, credit⟩ ∈
      ((leaveTable n k r credit s).port (.lane i)).notices := by
  unfold leaveTable
  rw [h]
  exact ⟨vset_getElem_same _ _ _, mem_notices_raiseTo _ _ _⟩

theorem leaveTable_finished_other {i : Lane} (h : k.origin ≠ .lane i) :
    (leaveTable n k r credit s).sales.finished[i] = s.sales.finished[i] := by
  unfold leaveTable
  split
  · next l hl =>
    have hne : l ≠ i := fun e => h (e ▸ hl)
    exact (vset_get _ _ _ _).trans (if_neg hne)
  · rfl

end

/-! ## The retirement of a ticket, by what it earns -/

/-- The tickets after a retirement, whatever was earned. -/
theorem ticket?_retireTicket (h : s.ticket? n = some k) (m : Nat) :
    (retireTicket n r s).ticket? m = (freeTicket n s).ticket? m := by
  by_cases he : Earns k r
  · rw [retireTicket_earning h he, ticket?_leaveTable]
    obtain ⟨hslots, -, -⟩ := issueCredit_leaves k r s
    exact ticket?_congr (by simp only [freeTicket, hslots]) m
  · rw [retireTicket_plain h he, ticket?_leaveTable]
    obtain ⟨hsales, -⟩ := unstamped_leaves k r s
    exact ticket?_congr (by simp only [freeTicket, hsales]) m

/-- R39: what a retirement does to the sale slots. -/
theorem saleSlot_retireTicket_full (h : s.ticket? n = some k) (he : Earns k r) {c : Credit}
    (hc : s.credits.head? = some c) (hfull : 32 ≤ s.credits.length) (i : Lane) :
    (retireTicket n r s).saleSlot i = (s.saleSlot i).forget c.code := by
  obtain ⟨-, hslot, -, -⟩ := leaveTable_leaves n k r (some n) (issueCredit k r s)
  rw [retireTicket_earning h he, hslot, issueCredit_saleSlot_full hc hfull]

theorem saleSlot_retireTicket_same (h : s.ticket? n = some k)
    (hkeep : ¬ (Earns k r ∧ 32 ≤ s.credits.length)) (i : Lane) :
    (retireTicket n r s).saleSlot i = s.saleSlot i := by
  by_cases he : Earns k r
  · obtain ⟨-, hslot, -, -⟩ := leaveTable_leaves n k r (some n) (issueCredit k r s)
    have hroom : s.credits.length < 32 := by
      by_contra hfull
      exact hkeep ⟨he, by omega⟩
    rw [retireTicket_earning h he, hslot, issueCredit_saleSlot_room hroom]
  · obtain ⟨-, hslot, -, -⟩ := leaveTable_leaves n k r none (unstamped k r s)
    obtain ⟨hsales, -⟩ := unstamped_leaves k r s
    rw [retireTicket_plain h he, hslot]
    simp only [State.saleSlot, hsales]

/-- R39: a sale slot that names no dropped code stays as it was. -/
theorem saleSlot_retireTicket_unnamed (h : s.ticket? n = some k) {i : Lane}
    (hnames : ∀ code, (s.saleSlot i).names? = some code → ¬ (Earns k r ∧ 32 ≤ s.credits.length ∧
      ∃ c, s.credits.head? = some c ∧ c.code = code)) :
    (retireTicket n r s).saleSlot i = s.saleSlot i := by
  by_cases hdrops : Earns k r ∧ 32 ≤ s.credits.length
  · obtain ⟨he, hfull⟩ := hdrops
    obtain ⟨c, hc⟩ : ∃ c, s.credits.head? = some c := by
      cases hcredits : s.credits with
      | nil => simp [hcredits] at hfull
      | cons c rest => exact ⟨c, rfl⟩
    rw [saleSlot_retireTicket_full h he hc hfull]
    exact SaleSlot.forget_unnamed fun hn => hnames c.code hn ⟨he, hfull, c, hc, rfl⟩
  · exact saleSlot_retireTicket_same h hdrops i

/-- R22, R40: what a retirement does to the member entries. -/
theorem entry_retireTicket (h : s.ticket? n = some k) (e : EntryIx) :
    (retireTicket n r s).entry e =
      if r ≠ .full ∧ k.kind = .member ∧ (∃ tg, k.tag = some tg ∧ (s.entry e).covers tg = true) then
        { s.entry e with stamp := none }
      else s.entry e := by
  by_cases he : Earns k r
  · have hkind : ¬ (r ≠ .full ∧ k.kind = .member ∧
        ∃ tg, k.tag = some tg ∧ (s.entry e).covers tg = true) := by
      rintro ⟨-, hm, -⟩
      simp [Earns, hm] at he
    obtain ⟨-, -, hentry, -⟩ := leaveTable_leaves n k r (some n) (issueCredit k r s)
    obtain ⟨-, -, hmemb⟩ := issueCredit_leaves k r s
    rw [if_neg hkind, retireTicket_earning h he, hentry]
    simp only [State.entry, hmemb]
  · obtain ⟨-, -, hentry, -⟩ := leaveTable_leaves n k r none (unstamped k r s)
    rw [retireTicket_plain h he, hentry, entry_unstamped]

/-- R20, R21: the entry of a lane ticket, with the credit it earned, if it earned one. -/
theorem finished_retireTicket (h : s.ticket? n = some k) {i : Lane} (hi : k.origin = .lane i) :
    (Earns k r → (retireTicket n r s).sales.finished[i] =
        ((⟨n, k.receipt, r, some n⟩ : Finished) :: s.sales.finished[i]).take 4 ∧
      .saleDone ⟨n, k.receipt, r, some n⟩ ∈ ((retireTicket n r s).port (.lane i)).notices) ∧
    (¬ Earns k r → (retireTicket n r s).sales.finished[i] =
        ((⟨n, k.receipt, r, none⟩ : Finished) :: s.sales.finished[i]).take 4 ∧
      .saleDone ⟨n, k.receipt, r, none⟩ ∈ ((retireTicket n r s).port (.lane i)).notices) := by
  constructor <;> intro he
  · obtain ⟨-, hfinished, -⟩ := issueCredit_leaves k r s
    rw [retireTicket_earning h he, ← hfinished]
    exact leaveTable_finished hi
  · obtain ⟨hsales, -⟩ := unstamped_leaves k r s
    rw [retireTicket_plain h he, ← hsales]
    exact leaveTable_finished hi

theorem finished_retireTicket_other (h : s.ticket? n = some k) {i : Lane} (hi : k.origin ≠ .lane i) :
    (retireTicket n r s).sales.finished[i] = s.sales.finished[i] := by
  by_cases he : Earns k r
  · obtain ⟨-, hfinished, -⟩ := issueCredit_leaves k r s
    rw [retireTicket_earning h he, leaveTable_finished_other hi, hfinished]
  · obtain ⟨hsales, -⟩ := unstamped_leaves k r s
    rw [retireTicket_plain h he, leaveTable_finished_other hi, hsales]

/-- Settles O23: a retirement is what the ticket earns followed by its leaving. -/
theorem ticketsRetireWithTheirResult : Obligations.TicketsRetireWithTheirResult := by
  unfold Obligations.TicketsRetireWithTheirResult
  intro n r k s h u earns dropped
  refine ⟨?_, fun m hm => ?_, fun he => ?_, fun he => ?_, fun c he hfull hc => ?_,
    fun i m lines x code hslot hdropped => ?_,
    fun i hnames => saleSlot_retireTicket_unnamed h hnames, fun e => entry_retireTicket h e,
    fun i hi => finished_retireTicket h hi, fun i hi => finished_retireTicket_other h hi⟩
  · exact (ticket?_retireTicket h n).trans (ticket?_freeTicket_same n s)
  · exact (ticket?_retireTicket h m).trans (ticket?_freeTicket_other hm s)
  · obtain ⟨hcredits, -⟩ := leaveTable_leaves n k r none (unstamped k r s)
    obtain ⟨-, hkept⟩ := unstamped_leaves k r s
    exact (congrArg State.credits (retireTicket_plain h he)).trans (hcredits.trans hkept)
  · obtain ⟨hcredits, -⟩ := leaveTable_leaves n k r (some n) (issueCredit k r s)
    exact (congrArg State.credits (retireTicket_earning h he)).trans
      (hcredits.trans (issueCredit_credits k r s))
  · obtain ⟨-, -, -, hport⟩ := leaveTable_leaves n k r (some n) (issueCredit k r s)
    show _ ∈ ((retireTicket n r s).port .site).notices
    rw [retireTicket_earning h he, hport]
    exact issueCredit_notice hc hfull
  · obtain ⟨he, hfull, c, hc, rfl⟩ := hdropped
    show (retireTicket n r s).saleSlot i = _
    rw [saleSlot_retireTicket_full h he hc hfull, hslot, SaleSlot.forget_named]

end Sys2Proof.Machine
end

section
/-! # Members and credits: searching the member table (R26, R29, R30) -/

namespace Sys2Proof.Machine

/-- The lowest index of the member table that satisfies a condition. -/
abbrev Lowest (ok : EntryIx → Prop) (k : EntryIx) : Prop := ok k ∧ ∀ j, j < k → ¬ ok j

section
variable {p : EntryIx → Bool} {ok : EntryIx → Prop}

/-- A search of the table answers the lowest index that satisfies its test. -/
theorem find?_entryIxs_lowest (hp : ∀ j, p j = true ↔ ok j) {k : EntryIx} (h : Lowest ok k) :
    entryIxs.find? p = some k := by
  obtain ⟨hk, hlower⟩ := h
  refine List.find?_eq_some_iff_getElem.mpr
    ⟨(hp k).mpr hk, k.val, by simp [entryIxs], by simp [entryIxs], fun j hj => ?_⟩
  have hj48 : j < 48 := Nat.lt_trans hj k.isLt
  have hno : p ⟨j, hj48⟩ = false := Bool.eq_false_iff.mpr fun e => hlower ⟨j, hj48⟩ hj ((hp _).mp e)
  simpa [entryIxs] using hno

/-- A search that no index satisfies answers none. -/
theorem find?_entryIxs_none (hp : ∀ j, p j = true ↔ ok j) (h : ∀ k, ¬ ok k) :
    entryIxs.find? p = none :=
  List.find?_eq_none.mpr fun k _ e => h k ((hp k).mp e)

end

/-- R26: what a valid entry covers. -/
theorem MemberEntry.covers_iff {e : MemberEntry} {tg : Word32} : e.covers tg = true ↔
    e.valid = true ∧ e.base.toNat ≤ tg.toNat ∧ tg.toNat < e.base.toNat + 2 ^ e.order := by
  simp only [MemberEntry.covers, Bool.and_eq_true, decide_eq_true_eq, and_assoc]
  rfl

section
variable {s : State} {tg : Word32}

theorem matchTag_lowest {k : EntryIx} (h : Lowest (fun j => (s.entry j).covers tg = true) k) :
    s.matchTag tg = some k :=
  find?_entryIxs_lowest (fun _ => Iff.rfl) h

theorem matchTag_none (h : ∀ k : EntryIx, (s.entry k).covers tg = false) : s.matchTag tg = none :=
  find?_entryIxs_none (ok := fun j => (s.entry j).covers tg = true) (fun _ => Iff.rfl)
    fun k => Bool.eq_false_iff.mp (h k)

end

end Sys2Proof.Machine
end

section
/-! # Members and credits: a hit on an entry (R33, R34) -/

namespace Sys2Proof.Machine

variable {s u : State} {i : Lane} {k : EntryIx} {n : Nat} {e : MemberEntry}

/-! ## The tests of a hit (R33) -/

/-- R33 step 2: an active row of kind MEMBER. -/
abbrev State.Sellable (s : State) (r : Row) : Prop :=
  (s.row r).active = true ∧ (s.row r).kind = .member

/-- R33 step 3: the clock stands within MemberInterval of the entry's last wash stamp. -/
abbrev State.TooSoon (s : State) (e : MemberEntry) : Prop :=
  s.settings.timing.memberInterval ≠ 0 ∧ s.sales.clock.unset = false ∧
    ∃ st, e.stamp = some st ∧ st.count ≤ s.stamp.count ∧
      s.stamp.count - st.count < s.settings.timing.memberInterval

theorem intervalOk_iff : s.intervalOk e = true ↔ ¬ s.TooSoon e := by
  unfold State.intervalOk State.TooSoon
  cases e.stamp with
  | none => simp
  | some st =>
    cases s.sales.clock.unset
    · simp only [Bool.or_false, Bool.or_eq_true, beq_iff_eq, decide_eq_true_eq, Option.some.injEq,
        exists_eq_left', true_and]
      omega
    · simp

theorem hitRefusal_suspended (h : e.status = .suspended) : s.hitRefusal e = some .suspended :=
  if_pos h

theorem hitRefusal_notSellable (ha : e.status = .active) (h : ¬ s.Sellable e.row) :
    s.hitRefusal e = some .notSellable := by
  have hrow : (!(s.row e.row).active || (s.row e.row).kind != .member) = true := by
    by_cases hactive : (s.row e.row).active = true
    · simpa [hactive] using fun hkind => h ⟨hactive, hkind⟩
    · simp [hactive]
  rw [State.hitRefusal, if_neg (by simp [ha]), if_pos hrow]

/-- R33: an active entry of a row for sale is left to the repeat interval. -/
theorem hitRefusal_sellable (ha : e.status = .active) (h : s.Sellable e.row) :
    s.hitRefusal e = if s.intervalOk e = true then none else some .tooSoon := by
  obtain ⟨hactive, hkind⟩ := h
  cases hok : s.intervalOk e <;> simp [State.hitRefusal, ha, hactive, hkind, hok]

theorem hitRefusal_tooSoon (ha : e.status = .active) (h : s.Sellable e.row) (hs : s.TooSoon e) :
    s.hitRefusal e = some .tooSoon := by
  rw [hitRefusal_sellable ha h, if_neg fun hok => intervalOk_iff.mp hok hs]

theorem hitRefusal_none (ha : e.status = .active) (h : s.Sellable e.row) (hs : ¬ s.TooSoon e) :
    s.hitRefusal e = none := by
  rw [hitRefusal_sellable ha h, if_pos (intervalOk_iff.mpr hs)]

/-! ## What a granted hit writes (R34) -/

/-- A granted hit queues its sale, stamps its entry and counts its row. -/
theorem finishHit_eq (i : Lane) (k : EntryIx) (n : Nat) (s : State) :
    finishHit i k n s = countRow (s.entry k).row 0
      (setEntry k { s.entry k with stamp := some s.stamp } (queueSale i n s)) := rfl

/-- What is counted on one row depends on the totals alone. -/
theorem countRow_congr (h : u.sales.totals = s.sales.totals) (r : Row) (a : Nat) :
    (countRow r a u).sales.totals = (countRow r a s).sales.totals := by
  simp only [countRow, h]

/-- Only the ticket table and the last number given differ. -/
abbrev TicketsAlone (s u : State) : Prop :=
  u = { s with sales := { s.sales with
    slots := u.sales.slots, lastNumber := u.sales.lastNumber } }

/-- R34: what a granted hit ends with, once its ticket is written. -/
theorem finishHit_granted {tg : Word32} (hu : TicketsAlone s u)
    (hticket : u.ticket? n = some (memberTicket s i (s.entry k) tg n)) :
    (finishHit i k n u).saleSlot i = .empty ∧
    (finishHit i k n u).laneQueue i = s.laneQueue i ++ [n] ∧
    (finishHit i k n u).ticket? n = some (memberTicket s i (s.entry k) tg n) ∧
    (finishHit i k n u).entry k = { s.entry k with stamp := some s.stamp } ∧
    (∀ j, j ≠ k → (finishHit i k n u).entry j = s.entry j) ∧
    (finishHit i k n u).sales.totals = (countRow (s.entry k).row 0 s).sales.totals ∧
    (∀ m, m ≠ n → (finishHit i k n u).ticket? m = u.ticket? m) ∧
    (finishHit i k n u).credits = s.credits ∧ (finishHit i k n u).track = s.track ∧
    (finishHit i k n u).halt = s.halt ∧ (finishHit i k n u).gate.merge = s.gate.merge := by
  have hentry : ∀ j, u.entry j = s.entry j := fun j => by rw [hu]; rfl
  have hstamp : u.stamp = s.stamp := by rw [hu]; rfl
  have hqueue : u.laneQueue i = s.laneQueue i := by rw [hu]; rfl
  have htotals : u.sales.totals = s.sales.totals := by rw [hu]
  rw [finishHit_eq, hentry, hstamp]
  refine ⟨queueSale_saleSlot_same u, (queueSale_laneQueue_same u).trans (by rw [hqueue]), ?_,
    (entry_setEntry _ _ _ _).trans (if_pos rfl), fun j hj => ?_, countRow_congr htotals _ _,
    fun m hm => ticket?_queueSale_other (i := i) hm u, ?_, ?_, ?_, ?_⟩
  · exact (ticket?_queueSale_same (i := i) u).trans (congrArg (Option.map _) hticket)
  · exact ((entry_setEntry _ _ _ _).trans (if_neg (Ne.symm hj))).trans (hentry j)
  all_goals rw [hu]; rfl

end Sys2Proof.Machine
end

section
/-! # Members and credits: TAG (R32 to R35) -/

namespace Sys2Proof.Machine

variable {s : State} {i : Lane} {b : List Byte} {k : EntryIx}

/-- R12, R43: no room in the lane queue, or no slot to take. -/
theorem room_tests_fail (h : 4 ≤ (s.laneQueue i).length ∨ ¬ s.hasSlot i) :
    s.laneRoom i = false ∨ s.slotRoom i = false := by
  rcases h with h | h
  · exact Or.inl (Bool.eq_false_iff.mpr fun e => Nat.not_lt.mpr h (laneRoom_iff.mp e))
  · exact Or.inr (Bool.eq_false_iff.mpr fun e => h (slotRoom_iff.mp e))

theorem tagRequest_closed (hm : s.mode ≠ .openMode) : tagRequest i b s = (refuse .closed, s) :=
  if_pos hm

theorem tagRequest_full (hm : s.mode = .openMode)
    (h : 4 ≤ (s.laneQueue i).length ∨ ¬ s.hasSlot i) : tagRequest i b s = (refuse .full, s) := by
  rcases room_tests_fail h with h | h <;> simp [tagRequest, hm, h]

section
variable (hm : s.mode = .openMode) (hlane : (s.laneQueue i).length < 4) (hslot : s.hasSlot i)
include hm hlane hslot

theorem tagRequest_refused {st : Status} (hk : s.matchTag (longAt b 0) = some k)
    (h : s.hitRefusal (s.entry k) = some st) : tagRequest i b s = (refuse st, s) := by
  simp [tagRequest, hm, laneRoom_iff.mpr hlane, slotRoom_iff.mpr hslot, hk, h]

theorem tagRequest_granted (hk : s.matchTag (longAt b 0) = some k)
    (h : s.hitRefusal (s.entry k) = none) :
    tagRequest i b s = (okWith (u16 (s.saleNumber i)), finishHit i k (s.saleNumber i)
      (writeSale i (memberTicket s i (s.entry k) (longAt b 0)) s).2) := by
  rw [← writeSale_number (memberTicket s i (s.entry k) (longAt b 0))]
  simp [tagRequest, hm, laneRoom_iff.mpr hlane, slotRoom_iff.mpr hslot, hk, h]

theorem tagRequest_miss (h : s.matchTag (longAt b 0) = none) :
    tagRequest i b s = (refuse .taken, raiseTo .site (.memberMiss i (longAt b 0))
      (setSaleSlot i (.lookup (s.saleNumber i) (longAt b 0)
          (Timer.seconds s.settings.timing.lookupTime))
        (writeSale i (lookupTicket i (longAt b 0)) s).2)) := by
  rw [← writeSale_number (lookupTicket i (longAt b 0))]
  simp [tagRequest, hm, laneRoom_iff.mpr hlane, slotRoom_iff.mpr hslot, h]

end

/-- A reply at one port leaves the notices of another pending. -/
theorem mem_notices_after_reply {p q : Port} {r : RequestState} {x : Notice} (h : p ≠ q)
    (hx : x ∈ (s.port q).notices) : x ∈ ((drive (setRequest p r s)).port q).notices := by
  show x ∈ ((setRequest p r s).port q).notices
  rwa [setRequest, port_setPort_other s _ h]

theorem longAt_tag (tg : Word32) : longAt (u32 tg.toNat) 0 = tg := by
  simpa using longAt_u32 tg []

section
variable (tag : Byte) {tg : Word32} (ht : s.takes (.lane i))
include ht

/-- A TAG that is refused leaves all but the port alone. -/
theorem exec_tag_refused {st : Status} (hm : s.mode ≠ .lockout)
    (h : tagRequest i (u32 tg.toNat) (hunt (.lane i) s) = (refuse st, hunt (.lane i) s)) :
    exec (.tag (.lane i) tag (u32 tg.toNat)) s =
      answered (.lane i) 0x13 tag st [] (hunt (.lane i) s) :=
  request_refused (k := .tag) ht rfl rfl (Or.inl hm) h

variable (hm : s.mode = .openMode) (hlane : (s.laneQueue i).length < 4) (hslot : s.hasSlot i)
include hm hlane hslot

/-- R33 steps 1 to 3: a hit that fails a test is refused. -/
theorem exec_tag_hit_refused {st : Status} (hk : s.matchTag tg = some k)
    (h : s.hitRefusal (s.entry k) = some st) : exec (.tag (.lane i) tag (u32 tg.toNat)) s =
      answered (.lane i) 0x13 tag st [] (hunt (.lane i) s) :=
  exec_tag_refused tag ht (by simp [hm])
    (tagRequest_refused (s := hunt (.lane i) s) hm hlane hslot
      ((congrArg s.matchTag (longAt_tag tg)).trans hk) h)

/-- R34: a hit that passes the tests is answered with the ticket's number. -/
theorem exec_tag_granted (hk : s.matchTag tg = some k) (h : s.hitRefusal (s.entry k) = none) :
    exec (.tag (.lane i) tag (u32 tg.toNat)) s =
      answered (.lane i) 0x13 tag .ok (u16 (s.saleNumber i)) (finishHit i k (s.saleNumber i)
        (writeSale i (memberTicket s i (s.entry k) tg) (hunt (.lane i) s)).2) := by
  have hserved := tagRequest_granted (b := u32 tg.toNat) (s := hunt (.lane i) s) hm hlane hslot
    ((congrArg s.matchTag (longAt_tag tg)).trans hk) h
  rw [longAt_tag] at hserved
  exact request_ok (k := .tag) ht rfl rfl (Or.inl (by simp [hm])) hserved

/-- R35: a miss is answered TAKEN, and a lookup wait begins. -/
theorem exec_tag_miss (h : s.matchTag tg = none) :
    exec (.tag (.lane i) tag (u32 tg.toNat)) s =
      answered (.lane i) 0x13 tag .taken [] (raiseTo .site (.memberMiss i tg)
        (setSaleSlot i (.lookup (s.saleNumber i) tg (Timer.seconds s.settings.timing.lookupTime))
          (writeSale i (lookupTicket i tg) (hunt (.lane i) s)).2)) := by
  have hserved := tagRequest_miss (b := u32 tg.toNat) (s := hunt (.lane i) s) hm hlane hslot
    ((congrArg s.matchTag (longAt_tag tg)).trans h)
  rw [longAt_tag] at hserved
  exact request_refused (k := .tag) ht rfl rfl (Or.inl (by simp [hm])) hserved

end

/-- Settles O24: the search for the tag decides between a hit and a miss; a hit is refused by its
first failing test, and the ticket that either writes is found by the rules of writeSale. -/
theorem tagsAreLookedUp : Obligations.TagsAreLookedUp := by
  unfold Obligations.TagsAreLookedUp
  constructor
  · intro i tag tg s ht hc hm hlane hslot c n no
    constructor
    · intro k hvalid hbase htop hlower e row sellable soon
      have hk : s.matchTag tg = some k := matchTag_lowest
        ⟨MemberEntry.covers_iff.mpr ⟨hvalid, hbase, htop⟩, fun j hj => by simp [hlower j hj]⟩
      refine ⟨fun ha => exec_tag_hit_refused tag ht hm hlane hslot hk (hitRefusal_suspended ha),
        fun ha hs => exec_tag_hit_refused tag ht hm hlane hslot hk (hitRefusal_notSellable ha hs),
        fun ha hs hsoon =>
          exec_tag_hit_refused tag ht hm hlane hslot hk (hitRefusal_tooSoon ha hs hsoon),
        fun ha hs hsoon => ?_⟩
      have hnum : ∀ m, (memberTicket s i e tg m).number = m := fun _ => rfl
      obtain ⟨hempty, hqueue, hticket, hentry, hentries, htotals, hothers, hrest⟩ :=
        finishHit_granted (s := hunt (.lane i) s) (i := i) (k := k)
          (writeSale_rest i (memberTicket s i e tg) (hunt (.lane i) s))
          (ticket?_writeSale_same (s := hunt (.lane i) s) hnum hc hslot)
      refine ⟨_, exec_tag_granted tag ht hm hlane hslot hk (hitRefusal_none ha hs hsoon),
        congrArg PortState.request (port_setPort_same _ _ _), hempty, hqueue, hticket, hentry,
        hentries, htotals, fun m hmn hheld => (hothers m hmn).trans ?_, hrest⟩
      exact ticket?_writeSale_other (s := hunt (.lane i) s) hnum hmn hheld
    · intro hmiss
      have hnum : ∀ m, (lookupTicket i tg m).number = m := fun _ => rfl
      obtain ⟨hgate, hcredits, hmemb, -, -, htotals, -⟩ :=
        writeSale_leaves i (lookupTicket i tg) (hunt (.lane i) s)
      refine ⟨_, exec_tag_miss tag ht hm hlane hslot (matchTag_none hmiss),
        congrArg PortState.request (port_setPort_same _ _ _),
        (saleSlot_set i i _ _).trans (if_pos rfl),
        ticket?_writeSale_same (s := hunt (.lane i) s) hnum hc hslot, ?_,
        fun m hmn hheld => ticket?_writeSale_other (s := hunt (.lane i) s) hnum hmn hheld,
        hgate, hmemb, hcredits, htotals⟩
      exact mem_notices_after_reply (by simp) (mem_notices_raiseTo .site _ _)
  · intro i tag tg s ht hm no
    exact ⟨fun hclosed =>
        exec_tag_refused tag ht hm (tagRequest_closed (s := hunt (.lane i) s) hclosed),
      fun hopen hroom =>
        exec_tag_refused tag ht hm (tagRequest_full (s := hunt (.lane i) s) hopen hroom)⟩

end Sys2Proof.Machine
end

section
/-! # Members and credits: what the test of a drain leaves (R162)

The end of a drain re-tests run demand and raises CLOSE_DONE at the site port. -/

namespace Sys2Proof.Machine

/-- The records that run demand and the stations never write. -/
def dealings (s : State) := (s.sales, s.gate, s.memb, s.settings, s.ports)

theorem startStep_dealings (j : StationIx) (s : State) : dealings (startStep j s) = dealings s := by
  unfold startStep
  repeat' split
  all_goals rfl

theorem endStep_dealings (j : StationIx) (s : State) : dealings (endStep j s) = dealings s := by
  unfold endStep
  dsimp only
  repeat' split
  all_goals rfl

theorem evalStation_dealings (j : StationIx) (s : State) :
    dealings (evalStation j s) = dealings s := by
  unfold evalStation
  split
  · have hstart := startStep_dealings j (missStep j (endStep j (qualifyStep j s)))
    exact hstart.trans (endStep_dealings j (qualifyStep j s))
  · rfl
  · rfl

theorem evaluate_dealings (s : State) : dealings (evaluate s) = dealings s :=
  List.foldlRecOn (motive := fun u => dealings u = dealings s) stationIxs _ rfl
    fun u hu j _ => (evalStation_dealings j u).trans hu

theorem testDemand_dealings (s : State) : dealings (testDemand s) = dealings s := by
  unfold testDemand startWarning
  repeat' split
  all_goals rfl

theorem retestDemand_dealings (s : State) : dealings (retestDemand s) = dealings s := by
  unfold retestDemand evalIfPaceMoved
  split
  · exact testDemand_dealings s
  · exact (evaluate_dealings _).trans (testDemand_dealings s)

theorem testPark_dealings (b s : State) : dealings (testPark b s) = dealings s := by
  unfold testPark
  repeat' split
  all_goals rfl

/-- R162: the test of a drain leaves the sales, the gate, the member table, the settings and every
port but the site port. -/
theorem settleDrain_leaves (b s : State) : (settleDrain b s).sales = s.sales ∧
    (settleDrain b s).gate = s.gate ∧ (settleDrain b s).memb = s.memb ∧
    (settleDrain b s).settings = s.settings ∧
    ∀ p, p ≠ .site → (settleDrain b s).port p = s.port p := by
  have hpark : dealings (settleDrain b s) = dealings (testDrain s) := testPark_dealings b _
  simp only [dealings, Prod.mk.injEq] at hpark
  obtain ⟨hsales, hgate, hmemb, hsettings, hports⟩ := hpark
  rw [hsales, hgate, hmemb, hsettings]
  simp only [port_congr hports]
  unfold testDrain
  split
  · have hdrained := retestDemand_dealings (raiseTo .site .closeDone { s with mode := .closed })
    simp only [dealings, Prod.mk.injEq] at hdrained
    obtain ⟨hsales, hgate, hmemb, hsettings, hports⟩ := hdrained
    exact ⟨hsales, hgate, hmemb, hsettings,
      fun p hp => (port_congr hports p).trans (port_raiseTo_other (Ne.symm hp) _ _)⟩
  · exact ⟨rfl, rfl, rfl, rfl, fun _ _ => rfl⟩

/-- What the reply to a site request leaves of v, once the drain was tested. -/
theorem answered_settleDrain (kind tag : Byte) (st : Status) (results : List Byte) (b v : State) :
    ∃ t, answered .site kind tag st results (settleDrain b v) = .next t ∧
      (t.port .site).request = .replying ⟨kind + 0x80, tag, u8 st.code ++ results⟩ ∧
      (∀ i, t.saleSlot i = v.saleSlot i ∧ t.port (.lane i) = v.port (.lane i)) ∧
      (∀ m, t.ticket? m = v.ticket? m) ∧
      t.memb = v.memb ∧ t.gate = v.gate ∧ t.settings = v.settings := by
  obtain ⟨hsales, hgate, hmemb, hsettings, hports⟩ := settleDrain_leaves b v
  refine ⟨_, rfl, congrArg PortState.request (port_setPort_same _ _ _),
    fun i => ⟨congrArg (fun x : Sales => x.saleSlots[i]) hsales, ?_⟩,
    ticket?_congr (congrArg Sales.slots hsales), hmemb, hgate, hsettings⟩
  exact (port_setPort_other _ _ (by simp)).trans (hports (.lane i) (by simp))

end Sys2Proof.Machine
end

section
/-! # Members and credits: the end of a lookup wait (R36, R37) -/

namespace Sys2Proof.Machine

variable {s u : State} {i : Lane} {n : Nat} {tg : Word32} {tm : Timer} {st : Status}

/-! ## One wait that ends (R36, R37) -/

theorem endWait_held (h : (s.saleSlot i).ticket? = some n) : endWait i st s =
    raiseTo (.lane i) (.tagResult st 0) (setSaleSlot i .empty (freeTicket n s)) := by
  rw [endWait, cancelSlot_held h]

/-- A wait that ends leaves its slot empty and its lane notified. -/
theorem endWait_ends (h : (s.saleSlot i).ticket? = some n) : (endWait i st s).saleSlot i = .empty ∧
    (endWait i st s).ticket? n = none ∧
    .tagResult st 0 ∈ ((endWait i st s).port (.lane i)).notices := by
  rw [endWait_held h]
  exact ⟨(saleSlot_set i i _ _).trans (if_pos rfl), ticket?_freeTicket_same n s,
    mem_notices_raiseTo _ _ _⟩

/-- What the end of a wait leaves: the other lanes, the other tickets and the other records. -/
theorem endWait_leaves (h : (s.saleSlot i).ticket? = some n) :
    (∀ l, l ≠ i → (endWait i st s).saleSlot l = s.saleSlot l ∧
      (endWait i st s).port (.lane l) = s.port (.lane l)) ∧
    (∀ m, m ≠ n → (endWait i st s).ticket? m = s.ticket? m) ∧
    (endWait i st s).memb = s.memb ∧ (endWait i st s).gate = s.gate ∧
    (endWait i st s).settings = s.settings := by
  rw [endWait_held h]
  refine ⟨fun l hl => ⟨(saleSlot_set i l _ _).trans (if_neg (Ne.symm hl)), ?_⟩,
    fun m hm => ticket?_freeTicket_other hm s, rfl, rfl, rfl⟩
  exact port_raiseTo_other (by simpa using Ne.symm hl) _ _

/-- A ticket that has left the table does not return when a wait ends. -/
theorem ticket?_endWait_none (h : (s.saleSlot i).ticket? = some n) {m : Nat}
    (hm : s.ticket? m = none) : (endWait i st s).ticket? m = none := by
  by_cases he : m = n
  · rw [he]
    obtain ⟨-, hnone, -⟩ := endWait_ends (st := st) h
    exact hnone
  · obtain ⟨-, hothers, -⟩ := endWait_leaves (st := st) h
    rw [hothers m he, hm]

/-! ## Every wait for one tag (R37) -/

/-- A lane waits for exactly a tag, with a ticket. -/
abbrev State.Waits (s : State) (tg : Word32) (i : Lane) (n : Nat) : Prop :=
  ∃ tm, s.saleSlot i = .lookup n tg tm

theorem waitsFor_iff : s.waitsFor tg i = true ↔ ∃ n, s.Waits tg i n := by
  unfold State.waitsFor State.Waits
  cases s.saleSlot i with
  | empty => simp
  | pending => simp
  | lookup n t tm => simp

/-- R37: of a list of lanes, those that wait for a tag in s have their waits ended in u. -/
def endWaits (s : State) (tg : Word32) (l : List Lane) (u : State) : State :=
  l.foldl (fun u i => if s.waitsFor tg i then endWait i .notFound u else u) u

theorem endWaits_cons_waiting {l : List Lane} (h : s.Waits tg i n) :
    endWaits s tg (i :: l) u = endWaits s tg l (endWait i .notFound u) := by
  simp only [endWaits, List.foldl_cons, waitsFor_iff.mpr ⟨n, h⟩, if_true]

theorem endWaits_cons_other {l : List Lane} (h : ∀ n, ¬ s.Waits tg i n) :
    endWaits s tg (i :: l) u = endWaits s tg l u := by
  have hno : ¬ s.waitsFor tg i = true := fun e => (waitsFor_iff.mp e).elim h
  simp only [endWaits, List.foldl_cons, if_neg hno]

/-- What ending the waits of the lanes of l makes of u, where their slots stand as in s. -/
structure WaitsEnded (s : State) (tg : Word32) (l : List Lane) (u t : State) : Prop where
  ended : ∀ i ∈ l, ∀ n, s.Waits tg i n → t.saleSlot i = .empty ∧ t.ticket? n = none ∧
    .tagResult .notFound 0 ∈ (t.port (.lane i)).notices
  others : ∀ i, (i ∈ l → ∀ n, ¬ s.Waits tg i n) →
    t.saleSlot i = u.saleSlot i ∧ t.port (.lane i) = u.port (.lane i)
  tickets : ∀ m, (∀ i ∈ l, ¬ s.Waits tg i m) → t.ticket? m = u.ticket? m
  freed : ∀ m, u.ticket? m = none → t.ticket? m = none
  rest : t.memb = u.memb ∧ t.gate = u.gate ∧ t.settings = u.settings

/-- R37: the wait of a first lane ends, and then those of the others. -/
theorem WaitsEnded.cons_waiting {l : List Lane} {t : State} (hn : s.Waits tg i n)
    (hslot : u.saleSlot i = s.saleSlot i) (hnotin : i ∉ l)
    (ih : WaitsEnded s tg l (endWait i .notFound u) t) : WaitsEnded s tg (i :: l) u t := by
  obtain ⟨tm, hwait⟩ := hn
  have hheld : (u.saleSlot i).ticket? = some n := by rw [hslot, hwait]; rfl
  obtain ⟨hempty, hfreed, hnotice⟩ := endWait_ends (st := .notFound) hheld
  obtain ⟨hlanes, hothers, hmemb, hgate, hsettings⟩ := endWait_leaves (st := .notFound) hheld
  obtain ⟨hslotEnd, hportEnd⟩ := ih.others i fun h => absurd h hnotin
  obtain ⟨hmembEnd, hgateEnd, hsettingsEnd⟩ := ih.rest
  refine ⟨fun j hj m hm => ?_, fun j hj => ?_, fun m hm => ?_,
    fun m hm => ih.freed m (ticket?_endWait_none hheld hm),
    hmembEnd.trans hmemb, hgateEnd.trans hgate, hsettingsEnd.trans hsettings⟩
  · rcases List.mem_cons.mp hj with rfl | hj
    · obtain ⟨tm', hwait'⟩ := hm
      obtain ⟨rfl, -⟩ := SaleSlot.lookup.inj (hwait.symm.trans hwait')
      exact ⟨hslotEnd.trans hempty, ih.freed _ hfreed, hportEnd ▸ hnotice⟩
    · exact ih.ended j hj m hm
  · have hji : j ≠ i := by
      rintro rfl
      exact hj List.mem_cons_self n ⟨tm, hwait⟩
    obtain ⟨hs, hp⟩ := ih.others j fun h => hj (List.mem_cons_of_mem i h)
    obtain ⟨hsBefore, hpBefore⟩ := hlanes j hji
    exact ⟨hs.trans hsBefore, hp.trans hpBefore⟩
  · have hmn : m ≠ n := by
      rintro rfl
      exact hm i List.mem_cons_self ⟨tm, hwait⟩
    exact (ih.tickets m fun j hj => hm j (List.mem_cons_of_mem i hj)).trans (hothers m hmn)

/-- A first lane that does not wait for the tag adds nothing. -/
theorem WaitsEnded.cons_other {l : List Lane} {t : State} (hno : ∀ n, ¬ s.Waits tg i n)
    (ih : WaitsEnded s tg l u t) : WaitsEnded s tg (i :: l) u t := by
  refine ⟨fun j hj m hm => ?_, fun j hj => ih.others j fun h => hj (List.mem_cons_of_mem i h),
    fun m hm => ih.tickets m fun j hj => hm j (List.mem_cons_of_mem i hj), ih.freed, ih.rest⟩
  rcases List.mem_cons.mp hj with rfl | hj
  · exact absurd hm (hno m)
  · exact ih.ended j hj m hm

theorem endWaits_ended : ∀ {l : List Lane} {u : State}, l.Nodup →
    (∀ i ∈ l, u.saleSlot i = s.saleSlot i) → WaitsEnded s tg l u (endWaits s tg l u)
  | [], u, _, _ => ⟨by simp, fun _ _ => ⟨rfl, rfl⟩, fun _ _ => rfl, fun _ h => h, rfl, rfl, rfl⟩
  | i :: l, u, hnodup, hslots => by
    obtain ⟨hnotin, hnodup⟩ := List.nodup_cons.mp hnodup
    have hslot : u.saleSlot i = s.saleSlot i := hslots i List.mem_cons_self
    have hbehind : ∀ j ∈ l, u.saleSlot j = s.saleSlot j := fun j hj =>
      hslots j (List.mem_cons_of_mem i hj)
    by_cases hwaits : ∃ n, s.Waits tg i n
    · obtain ⟨n, hn⟩ := hwaits
      have hheld : (u.saleSlot i).ticket? = some n := by
        obtain ⟨tm, hwait⟩ := hn
        rw [hslot, hwait]
        rfl
      obtain ⟨hlanes, -⟩ := endWait_leaves (st := .notFound) hheld
      rw [endWaits_cons_waiting hn]
      refine .cons_waiting hn hslot hnotin (endWaits_ended hnodup fun j hj => ?_)
      obtain ⟨hkept, -⟩ := hlanes j fun e => hnotin (e ▸ hj)
      exact hkept.trans (hbehind j hj)
    · have hno : ∀ n, ¬ s.Waits tg i n := fun n h => hwaits ⟨n, h⟩
      rw [endWaits_cons_other hno]
      exact .cons_other hno (endWaits_ended hnodup hbehind)

theorem mem_lanes (i : Lane) : i ∈ lanes := by
  revert i
  decide

/-! ## NO MEMBER (R37) -/

theorem noMemberRequest_ends {b : List Byte} (h : ∃ i n, s.Waits (longAt b 0) i n) :
    noMemberRequest b s = (okWith [], settleDrain s (endWaits s (longAt b 0) lanes s)) := by
  obtain ⟨i, n, hn⟩ := h
  exact if_pos (List.any_eq_true.mpr ⟨i, mem_lanes i, waitsFor_iff.mpr ⟨n, hn⟩⟩)

theorem noMemberRequest_notFound {b : List Byte} (h : ∀ i n, ¬ s.Waits (longAt b 0) i n) :
    noMemberRequest b s = (refuse .notFound, s) := by
  refine if_neg fun e => ?_
  obtain ⟨i, -, hi⟩ := List.any_eq_true.mp e
  obtain ⟨n, hn⟩ := waitsFor_iff.mp hi
  exact h i n hn

/-- R37: NO MEMBER ends the waits for its tag. -/
theorem exec_noMember_ends (tag : Byte) (ht : s.takes .site) (hm : s.mode ≠ .lockout)
    (h : ∃ i n, s.Waits tg i n) : exec (.noMember .site tag (u32 tg.toNat)) s =
      answered .site 0x52 tag .ok [] (settleDrain (hunt .site s)
        (endWaits (hunt .site s) tg lanes (hunt .site s))) := by
  have hserved := noMemberRequest_ends (b := u32 tg.toNat) (s := hunt .site s)
    (by rw [longAt_tag]; exact h)
  rw [longAt_tag] at hserved
  exact request_ok (k := .noMember) ht rfl rfl (Or.inl hm) hserved

theorem exec_noMember_notFound (tag : Byte) (ht : s.takes .site) (hm : s.mode ≠ .lockout)
    (h : ∀ i n, ¬ s.Waits tg i n) : exec (.noMember .site tag (u32 tg.toNat)) s =
      answered .site 0x52 tag .notFound [] (hunt .site s) :=
  request_refused (k := .noMember) ht rfl rfl (Or.inl hm)
    (noMemberRequest_notFound (s := hunt .site s) (by rw [longAt_tag]; exact h))

/-! ## The lookup timer (R37) -/

theorem lookupExpiry_running {left : Nat} (h : s.saleSlot i = .lookup n tg (.running left)) :
    lookupExpiry i s = settleDrain s (raiseTo (.lane i) (.tagResult .notFound 0)
      (setSaleSlot i .empty (freeTicket n s))) := by
  have hheld : (s.saleSlot i).ticket? = some n := by rw [h]; rfl
  simp [lookupExpiry, h, Timer.isRunning, endWait_held hheld]

theorem lookupExpiry_other (h : ∀ n tg left, s.saleSlot i ≠ .lookup n tg (.running left)) :
    lookupExpiry i s = s := by
  cases hslot : s.saleSlot i with
  | empty => simp [lookupExpiry, hslot]
  | pending => simp [lookupExpiry, hslot]
  | lookup n tg tm =>
    cases tm with
    | running left => exact absurd hslot (h n tg left)
    | stopped => simp [lookupExpiry, hslot, Timer.isRunning]
    | paused left => simp [lookupExpiry, hslot, Timer.isRunning]

/-! ## A load that covers the tag (R36) -/

section
variable {k : EntryIx}

theorem completeWait_other (h : ∀ n tg tm, s.saleSlot i ≠ .lookup n tg tm) :
    completeWait k s i = s := by
  cases hslot : s.saleSlot i with
  | empty => simp [completeWait, hslot]
  | pending => simp [completeWait, hslot]
  | lookup n tg tm => exact absurd hslot (h n tg tm)

variable (hslot : s.saleSlot i = .lookup n tg tm)
include hslot

theorem completeWait_uncovered (h : (s.entry k).covers tg = false) : completeWait k s i = s := by
  simp [completeWait, hslot, h]

variable (hcovers : (s.entry k).covers tg = true)
include hcovers

theorem completeWait_refused (h : s.hitRefusal (s.entry k) = some st) :
    completeWait k s i = endWait i st s := by
  simp [completeWait, hslot, hcovers, h]

theorem completeWait_granted (h : s.hitRefusal (s.entry k) = none) :
    completeWait k s i = raiseTo (.lane i) (.tagResult .ok n) (finishHit i k n
      (updateTicket n (fun _ => memberTicket s i (s.entry k) tg n) s)) := by
  simp [completeWait, hslot, hcovers, h]

end

/-- Settles O25: the waits for a tag end lane by lane, and a wait that a load covers is a hit under
its own number. -/
theorem lookupWaitsEnd : Obligations.LookupWaitsEnd := by
  unfold Obligations.LookupWaitsEnd
  refine ⟨⟨?_, fun i n tg left s h => congrArg done (lookupExpiry_running h),
    fun i s h => congrArg done (lookupExpiry_other h)⟩,
    fun k s => rfl, ?_, fun k i s h => completeWait_other h⟩
  · intro tag tg s ht hm waits
    refine ⟨fun hsome => ?_, fun hnone => exec_noMember_notFound tag ht hm hnone⟩
    have hended : WaitsEnded (hunt .site s) tg lanes (hunt .site s) _ :=
      endWaits_ended (by decide) fun _ _ => rfl
    obtain ⟨t, hnext, hreply, hlanes, htickets, hmemb, hgate, hsettings⟩ := answered_settleDrain
      0x52 tag .ok [] (hunt .site s) (endWaits (hunt .site s) tg lanes (hunt .site s))
    obtain ⟨hmembEnd, hgateEnd, hsettingsEnd⟩ := hended.rest
    refine ⟨t, (exec_noMember_ends tag ht hm hsome).trans hnext, hreply,
      fun i n hn => ?_, fun i hi => ?_, fun m hnot => ?_,
      hmemb.trans hmembEnd, hgate.trans hgateEnd, hsettings.trans hsettingsEnd⟩
    · obtain ⟨hempty, hfreed, hnotice⟩ := hended.ended i (mem_lanes i) n hn
      obtain ⟨hslot, hport⟩ := hlanes i
      exact ⟨hslot.trans hempty, (htickets n).trans hfreed, hport ▸ hnotice⟩
    · obtain ⟨hslotEnd, hportEnd⟩ := hended.others i fun _ => hi
      obtain ⟨hslot, hport⟩ := hlanes i
      exact ⟨hslot.trans hslotEnd,
        (hport.trans hportEnd).trans (port_setPort_other s _ (by simp))⟩
    · exact (htickets m).trans (hended.tickets m fun i _ => hnot i)
  · intro k i n tg tm tk s hslot hticket t e
    refine ⟨fun h => completeWait_uncovered hslot h, fun hcovers h => ?_, fun st hcovers h => ?_⟩
    · have hwritten : (updateTicket n (fun _ => memberTicket s i e tg n) s).ticket? n =
          some (memberTicket s i e tg n) :=
        (ticket?_updateTicket_same (g := fun _ => memberTicket s i e tg n) (fun _ _ => rfl) s).trans
          (congrArg (Option.map _) hticket)
      obtain ⟨hempty, hqueue, hmember, hentry, -, htotals, -⟩ :=
        finishHit_granted (s := s) (i := i) (k := k) rfl hwritten
      rw [show t = _ from completeWait_granted hslot hcovers h]
      exact ⟨hempty, hqueue, hmember, hentry, htotals, mem_notices_raiseTo _ _ _⟩
    · have hheld : (s.saleSlot i).ticket? = some n := by rw [hslot]; rfl
      obtain ⟨hempty, hfreed, hnotice⟩ := endWait_ends (st := st) hheld
      obtain ⟨-, -, hmemb, hgate, -⟩ := endWait_leaves (st := st) hheld
      rw [show t = _ from completeWait_refused hslot hcovers h]
      exact ⟨hempty, hfreed, congrArg (fun x : Members => x.entries[k]) hmemb,
        congrArg (fun x : Gate => x.laneQueues[i]) hgate, hnotice⟩

end Sys2Proof.Machine
end

section
/-! # Members and credits: DROP MEMBER, SET WIRED and DROP CREDIT (R27, R30, R42) -/

namespace Sys2Proof.Machine

variable {s : State} {b : List Byte} {k : EntryIx} {tag : Byte}

/-! ## DROP MEMBER (R30) -/

/-- R30: the valid entry with a tag base. -/
abbrev State.HasBase (s : State) (base : Word32) (k : EntryIx) : Prop :=
  (s.entry k).valid = true ∧ (s.entry k).base = base

theorem hasBase_iff {base : Word32} {k : EntryIx} :
    ((s.entry k).valid && (s.entry k).base == base) = true ↔ s.HasBase base k := by
  rw [Bool.and_eq_true, beq_iff_eq]

theorem dropMemberRequest_notFound (h : ∀ k, ¬ s.HasBase (longAt b 0) k) :
    dropMemberRequest b s = (refuse .notFound, s) := by
  rw [dropMemberRequest, find?_entryIxs_none (fun _ => hasBase_iff) h]

theorem dropMemberRequest_found (h : Lowest (s.HasBase (longAt b 0)) k) : dropMemberRequest b s =
    if k.val < s.settings.wired ∧ s.saving = true then (refuse .busy, s)
    else (okWith (u8 k.val), setEntry k { s.entry k with valid := false } s) := by
  rw [dropMemberRequest, find?_entryIxs_lowest (fun _ => hasBase_iff) h]
  simp only [Bool.and_eq_true, decide_eq_true_eq]

/-- R30: DROP MEMBER, in every mode but LOCKOUT. -/
theorem exec_dropMember {base : Word32} (ht : s.takes .site) (hm : s.mode ≠ .lockout) :
    ((∀ k, ¬ s.HasBase base k) → exec (.dropMember .site tag (u32 base.toNat)) s =
      answered .site 0x51 tag .notFound [] (hunt .site s)) ∧
    (∀ k, Lowest (s.HasBase base) k →
      (k.val < s.settings.wired → s.store.save ≠ none →
        exec (.dropMember .site tag (u32 base.toNat)) s =
          answered .site 0x51 tag .busy [] (hunt .site s)) ∧
      (s.settings.wired ≤ k.val ∨ s.store.save = none →
        exec (.dropMember .site tag (u32 base.toNat)) s =
          answered .site 0x51 tag .ok (u8 k.val)
            (setEntry k { s.entry k with valid := false } (hunt .site s)))) := by
  refine ⟨fun hnone => ?_, fun k hk => ?_⟩
  · exact request_refused (k := .dropMember) ht rfl rfl (Or.inl hm)
      (dropMemberRequest_notFound (s := hunt .site s) (by rw [longAt_tag]; exact hnone))
  · have hserved := dropMemberRequest_found (b := u32 base.toNat) (s := hunt .site s) (k := k)
      (by rw [longAt_tag]; exact hk)
    refine ⟨fun hwired hsave => ?_, fun hfree => ?_⟩
    · rw [if_pos ⟨hwired, saving_eq_true (s := hunt .site s) hsave⟩] at hserved
      exact request_refused (k := .dropMember) ht rfl rfl (Or.inl hm) hserved
    · have hnot : ¬ (k.val < (hunt .site s).settings.wired ∧ (hunt .site s).saving = true) := by
        rintro ⟨hwired, hsaving⟩
        rcases hfree with h | h
        · exact Nat.not_lt.mpr h hwired
        · exact Bool.false_ne_true ((saving_eq_false (s := hunt .site s) h).symm.trans hsaving)
      rw [if_neg hnot] at hserved
      exact request_ok (k := .dropMember) ht rfl rfl (Or.inl hm) hserved

/-! ## SET WIRED (R27) -/

theorem setWiredRequest_busy (h : s.store.save ≠ none) :
    setWiredRequest b s = (refuse .busy, s) := by
  simp [setWiredRequest, saving_eq_true h]

theorem setWiredRequest_ok {w : Nat} (hw : w < 256) (h : s.store.save = none)
    (hk : k.val = min w 40) : setWiredRequest (u8 w) s = (okWith (u8 (min w 40)),
      { s with
        settings := { s.settings with wired := min w 40 }
        memb := { s.memb with pointer := k } }) := by
  have hread : min (byteAt (u8 w) 0) Config.wiredMax = k.val := by
    rw [hk, ← List.append_nil (u8 w), byteAt_u8 hw]
    rfl
  simp [setWiredRequest, saving_eq_false h, hread, ← hk]

/-- R27: SET WIRED, in every mode but LOCKOUT. -/
theorem exec_setWired {w : Nat} (hw : w < 256) (ht : s.takes .site) (hm : s.mode ≠ .lockout) :
    (s.store.save ≠ none → exec (.setWired .site tag (u8 w)) s =
      answered .site 0x53 tag .busy [] (hunt .site s)) ∧
    (s.store.save = none → ∃ k : EntryIx, k.val = min w 40 ∧
      exec (.setWired .site tag (u8 w)) s = answered .site 0x53 tag .ok (u8 (min w 40))
        { hunt .site s with
          settings := { s.settings with wired := min w 40 }
          memb := { s.memb with pointer := k } }) := by
  refine ⟨fun h => ?_, fun h => ⟨⟨min w 40, by omega⟩, rfl, ?_⟩⟩
  · exact request_refused (k := .setWired) ht rfl rfl (Or.inl hm)
      (setWiredRequest_busy (s := hunt .site s) h)
  · exact request_ok (k := .setWired) ht rfl rfl (Or.inl hm)
      (setWiredRequest_ok (s := hunt .site s) hw h rfl)

/-! ## DROP CREDIT (R42) -/

theorem credit?_none_iff {code : Nat} : s.credit? code = none ↔ ∀ x ∈ s.credits, x.code ≠ code := by
  simp [State.credit?]

/-- R41: a pending sale of some lane names a code. -/
theorem codeNamed_iff {code : Nat} :
    s.codeNamed code = true ↔ ∃ i : Lane, (s.saleSlot i).names? = some code := by
  rw [State.codeNamed, List.any_eq_true]
  simp [mem_lanes]

theorem dropCreditRequest_notFound (h : ∀ x ∈ s.credits, x.code ≠ wordAt b 0) :
    dropCreditRequest b s = (refuse .notFound, s) := by
  simp [dropCreditRequest, credit?_none_iff.mpr h]

theorem dropCreditRequest_found (h : ∃ x ∈ s.credits, x.code = wordAt b 0) :
    dropCreditRequest b s =
    if s.codeNamed (wordAt b 0) = true then (refuse .busy, s)
    else (okWith [], removeCredit (wordAt b 0) s) := by
  have hsome : (s.credit? (wordAt b 0)).isNone = false := by
    rw [Option.isNone_eq_false_iff, Option.isSome_iff_ne_none]
    intro hnone
    obtain ⟨x, hx, hcode⟩ := h
    exact credit?_none_iff.mp hnone x hx hcode
  simp [dropCreditRequest, hsome]

theorem wordAt_code {code : Nat} (h : code < 65536) : wordAt (u16 code) 0 = code := by
  simpa using wordAt_u16 h []

/-- R42: DROP CREDIT, in every mode but LOCKOUT. -/
theorem exec_dropCredit {code : Nat} (hcode : code < 65536) (ht : s.takes .site)
    (hm : s.mode ≠ .lockout) :
    ((∀ x ∈ s.credits, x.code ≠ code) → exec (.dropCredit .site tag (u16 code)) s =
      answered .site 0x59 tag .notFound [] (hunt .site s)) ∧
    ((∃ x ∈ s.credits, x.code = code) →
      ((∃ i : Lane, (s.saleSlot i).names? = some code) →
        exec (.dropCredit .site tag (u16 code)) s =
          answered .site 0x59 tag .busy [] (hunt .site s)) ∧
      (¬ (∃ i : Lane, (s.saleSlot i).names? = some code) →
        exec (.dropCredit .site tag (u16 code)) s = answered .site 0x59 tag .ok []
          { hunt .site s with credits := s.credits.filter (fun x => x.code ≠ code) })) := by
  refine ⟨fun hnone => ?_, fun hsome => ?_⟩
  · exact request_refused (k := .dropCredit) ht rfl rfl (Or.inl hm)
      (dropCreditRequest_notFound (s := hunt .site s) (by rw [wordAt_code hcode]; exact hnone))
  · have hserved := dropCreditRequest_found (b := u16 code) (s := hunt .site s)
      (by rw [wordAt_code hcode]; exact hsome)
    rw [wordAt_code hcode] at hserved
    refine ⟨fun hnamed => ?_, fun hunnamed => ?_⟩
    · rw [if_pos (codeNamed_iff (s := hunt .site s).mpr hnamed)] at hserved
      exact request_refused (k := .dropCredit) ht rfl rfl (Or.inl hm) hserved
    · rw [if_neg fun e => hunnamed (codeNamed_iff (s := hunt .site s).mp e)] at hserved
      exact request_ok (k := .dropCredit) ht rfl rfl (Or.inl hm) hserved

/-- Settles O27, request by request. -/
theorem memberTableAndCreditsAreEdited : Obligations.MemberTableAndCreditsAreEdited := by
  unfold Obligations.MemberTableAndCreditsAreEdited
  intro tag s ht hm h
  refine ⟨?_, fun w hw => exec_setWired hw ht hm, fun code hcode => exec_dropCredit hcode ht hm⟩
  intro base has c
  obtain ⟨hnotFound, hfound⟩ := exec_dropMember (base := base) (tag := tag) ht hm
  exact ⟨hnotFound, fun k hk hlower => hfound k ⟨hk, hlower⟩⟩

end Sys2Proof.Machine
end

section
/-! # Members and credits: REDEEM (R41) -/

namespace Sys2Proof.Machine

variable {s : State} {i : Lane} {b : List Byte} {x : Credit} {code : Nat} {tag : Byte}

/-- R41: another lane's pending sale names a code. -/
abbrev State.NamedElsewhere (s : State) (i : Lane) (code : Nat) : Prop :=
  ∃ l : Lane, l ≠ i ∧ (s.saleSlot l).names? = some code

theorem namedElsewhere_iff :
    lanes.any (fun l => l != i && (s.saleSlot l).names? == some code) = true ↔
      s.NamedElsewhere i code := by
  rw [List.any_eq_true]
  simp [mem_lanes]

theorem redeemRequest_closed (hm : s.mode ≠ .openMode) : redeemRequest i b s = (refuse .closed, s) :=
  if_pos hm

section
variable (hm : s.mode = .openMode)
include hm

theorem redeemRequest_notFound (h : ∀ x ∈ s.credits, x.code ≠ wordAt b 0) :
    redeemRequest i b s = (refuse .notFound, s) := by
  simp [redeemRequest, hm, credit?_none_iff.mpr h]

variable (hx : s.credit? (wordAt b 0) = some x)
include hx

/-- R41: what a REDEEM of a credit in the list answers, by its tests in order. -/
theorem redeemRequest_listed : redeemRequest i b s =
    if lanes.any (fun l => l != i && (s.saleSlot l).names? == some (wordAt b 0)) = true then
      (refuse .busy, s)
    else if s.laneRoom i = false then (refuse .full, s)
    else if s.slotRoom i = false then (refuse .full, s)
    else
      (okWith (u16 (s.saleNumber i) ++ u16 0 ++ u8 0), setSaleSlot i
        (.pending (s.saleNumber i) [0] (Timer.seconds s.settings.timing.pendingTime)
          (some (wordAt b 0))) (writeSale i (redeemTicket i x) s).2) := by
  rw [redeemRequest, if_neg (not_not.mpr hm)]
  simp only [hx, Bool.not_eq_true', ← writeSale_number (redeemTicket i x)]

theorem redeemRequest_busy (h : s.NamedElsewhere i (wordAt b 0)) :
    redeemRequest i b s = (refuse .busy, s) := by
  rw [redeemRequest_listed hm hx, if_pos (namedElsewhere_iff.mpr h)]

variable (hfree : ¬ s.NamedElsewhere i (wordAt b 0))
include hfree

theorem redeemRequest_full (h : 4 ≤ (s.laneQueue i).length ∨ ¬ s.hasSlot i) :
    redeemRequest i b s = (refuse .full, s) := by
  rw [redeemRequest_listed hm hx, if_neg (namedElsewhere_iff.not.mpr hfree)]
  rcases room_tests_fail h with h | h <;> simp [h]

theorem redeemRequest_ok (hlane : (s.laneQueue i).length < 4) (hslot : s.hasSlot i) :
    redeemRequest i b s = (okWith (u16 (s.saleNumber i) ++ u16 0 ++ u8 0), setSaleSlot i
        (.pending (s.saleNumber i) [0] (Timer.seconds s.settings.timing.pendingTime)
          (some (wordAt b 0))) (writeSale i (redeemTicket i x) s).2) := by
  rw [redeemRequest_listed hm hx, if_neg (namedElsewhere_iff.not.mpr hfree),
    if_neg (by simp [laneRoom_iff.mpr hlane]), if_neg (by simp [slotRoom_iff.mpr hslot])]

end

/-- A REDEEM that is refused leaves all but the port alone. -/
theorem exec_redeem_refused {st : Status} (ht : s.takes (.lane i)) (hm : s.mode ≠ .lockout)
    (h : redeemRequest i (u16 code) (hunt (.lane i) s) = (refuse st, hunt (.lane i) s)) :
    exec (.redeem (.lane i) tag (u16 code)) s =
      answered (.lane i) 0x14 tag st [] (hunt (.lane i) s) :=
  request_refused (k := .redeem) ht rfl rfl (Or.inl hm) h

/-- R41: the credit found in the list is the one with the code. -/
theorem credit?_code (h : s.credit? code = some x) : x.code = code := by
  simpa using List.find?_some h

/-- Settles O28: the refusals in order, then the ticket that the REDEEM writes. -/
theorem redeemOpensARewash : Obligations.RedeemOpensARewash := by
  unfold Obligations.RedeemOpensARewash
  intro i tag code s ht hc hcode hm c n no namedElsewhere
  have hword : wordAt (u16 code) 0 = code := wordAt_code hcode
  refine ⟨fun hclosed =>
      exec_redeem_refused ht hm (redeemRequest_closed (s := hunt (.lane i) s) hclosed),
    fun hopen => ⟨fun hnone => ?_, fun x hx => ⟨fun hnamed => ?_, fun hfree hroom => ?_,
      fun hfree hlane hslot => ?_⟩⟩⟩
  · exact exec_redeem_refused ht hm
      (redeemRequest_notFound (s := hunt (.lane i) s) hopen (by rw [hword]; exact hnone))
  · exact exec_redeem_refused ht hm (redeemRequest_busy (s := hunt (.lane i) s) hopen
      (by rw [hword]; exact hx) (by rw [hword]; exact hnamed))
  · exact exec_redeem_refused ht hm (redeemRequest_full (s := hunt (.lane i) s) hopen
      (by rw [hword]; exact hx) (by rw [hword]; exact hfree) hroom)
  · have hserved := redeemRequest_ok (b := u16 code) (s := hunt (.lane i) s) hopen
      (by rw [hword]; exact hx) (by rw [hword]; exact hfree) hlane hslot
    rw [hword, List.append_assoc] at hserved
    have hnum : ∀ m, (redeemTicket i x m).number = m := fun _ => rfl
    obtain ⟨hgate, hcredits, hmemb, -, -, htotals, -⟩ :=
      writeSale_leaves i (redeemTicket i x) (hunt (.lane i) s)
    refine ⟨_, request_ok (k := .redeem) ht rfl rfl (Or.inl hm) hserved,
      congrArg PortState.request (port_setPort_same _ _ _),
      (saleSlot_set i i _ _).trans (if_pos rfl), ?_,
      fun m hmn hheld => ticket?_writeSale_other (s := hunt (.lane i) s) hnum hmn hheld,
      hcredits, hgate, hmemb, htotals⟩
    have hticket := ticket?_writeSale_same (s := hunt (.lane i) s) hnum hc hslot
    rw [redeemTicket, credit?_code hx] at hticket
    exact hticket

end Sys2Proof.Machine
end

section
/-! # Members and credits: LOAD MEMBER (R28, R29, R36) -/

namespace Sys2Proof.Machine

variable {s : State} {b : List Byte} {a : LoadArgs} {k : EntryIx} {tag : Byte}

/-! ## The body of a load (R28 step 1, R189) -/

/-- R28 step 1: what a load's range must satisfy. -/
abbrev LoadArgs.Fits (a : LoadArgs) : Prop :=
  (a.order = 0 ∨ a.order = 4 ∨ a.order = 8 ∨ a.order = 12) ∧ a.base.toNat % 2 ^ a.order = 0

/-- R190: the number of a member status is read back as the status. -/
@[simp] theorem MemberStatus.ofCode_number (st : MemberStatus) :
    MemberStatus.ofCode st.number = some st := by
  cases st <;> rfl

theorem MemberStatus.number_lt (st : MemberStatus) : st.number < 256 := by cases st <;> decide

theorem MemberStatus.ofCode_eq_none {n : Nat} (h : 1 < n) : MemberStatus.ofCode n = none := by
  match n, h with
  | n + 2, _ => rfl

/-- R28: a LOAD MEMBER body in its form is read back. -/
theorem parseLoad_memberBody (h : a.Fits) : parseLoad (memberBody a) = some a := by
  obtain ⟨horder, hbase⟩ := h
  have hread : longAt (memberBody a) 0 = a.base := by
    simpa [memberBody] using
      longAt_u32 a.base (u8 a.order ++ u8 a.row.val ++ u8 a.status.number ++ flagByte a.wired)
  have horderByte : byteAt (memberBody a) 4 = a.order :=
    byteAt_u8 (by omega) (u8 a.row.val ++ u8 a.status.number ++ flagByte a.wired)
  have hrowByte : byteAt (memberBody a) 5 = a.row.val :=
    byteAt_u8 (by omega) (u8 a.status.number ++ flagByte a.wired)
  have hstatusByte : byteAt (memberBody a) 6 = a.status.number :=
    byteAt_u8 a.status.number_lt (flagByte a.wired)
  have hflag : flagAt (memberBody a) 7 = some a.wired := flagAt_flagByte a.wired []
  simp [parseLoad, hread, horderByte, hrowByte, hstatusByte, hflag, rangeSize, hbase, horder,
    or_assoc]

/-- R28 step 1: a LOAD MEMBER body out of its form is not read. -/
theorem parseLoad_eq_none
    (h : (byteAt b 4 ≠ 0 ∧ byteAt b 4 ≠ 4 ∧ byteAt b 4 ≠ 8 ∧ byteAt b 4 ≠ 12) ∨
      (longAt b 0).toNat % 2 ^ byteAt b 4 ≠ 0 ∨ 31 < byteAt b 5 ∨ 1 < byteAt b 6 ∨
      1 < byteAt b 7) : parseLoad b = none := by
  refine Option.eq_none_iff_forall_ne_some.mpr fun x hx => ?_
  simp only [parseLoad, Option.bind_eq_bind, Option.bind_eq_some_iff, rangeSize,
    Option.ite_none_right_eq_some, Bool.and_eq_true, Bool.or_eq_true, beq_iff_eq] at hx
  obtain ⟨r, hr, st, hst, wired, hwired, ⟨horder, hbase⟩, -⟩ := hx
  have hindex : byteAt b 5 = r.val := fin?_eq_some.mp hr
  rcases h with ⟨h0, h4, h8, h12⟩ | h | h | h | h
  · omega
  · exact h hbase
  · omega
  · simp [MemberStatus.ofCode_eq_none h] at hst
  · simp [flagAt_eq_none h] at hwired

/-! ## The entries that a load meets (R28 steps 4 and 5) -/

/-- R28 step 4: a valid entry with exactly the load's base and order. -/
abbrev State.SameRange (s : State) (a : LoadArgs) (k : EntryIx) : Prop :=
  (s.entry k).valid = true ∧ (s.entry k).base = a.base ∧ (s.entry k).order = a.order

/-- R28 step 5: an entry whose range lies clear of the load's, when it is valid. -/
abbrev State.ClearOf (s : State) (a : LoadArgs) (k : EntryIx) : Prop := (s.entry k).valid = true →
  (s.entry k).base.toNat + 2 ^ (s.entry k).order ≤ a.base.toNat ∨
    a.base.toNat + 2 ^ a.order ≤ (s.entry k).base.toNat

theorem sameRange_iff : ((s.entry k).valid && (s.entry k).base == a.base &&
    (s.entry k).order == a.order) = true ↔ s.SameRange a k := by
  simp only [Bool.and_eq_true, beq_iff_eq, and_assoc]

theorem overlaps_iff : (s.entry k).overlaps a.base a.order = true ↔ ¬ s.ClearOf a k := by
  unfold MemberEntry.overlaps State.ClearOf rangeSize
  simp only [Bool.and_eq_true, decide_eq_true_eq, Classical.not_imp, not_or, not_le, and_assoc]
  exact and_congr_right fun _ => and_comm

/-- A range overlaps itself. -/
theorem not_sameRange_of_clearOf (h : s.ClearOf a k) : ¬ s.SameRange a k := by
  rintro ⟨hvalid, hbase, horder⟩
  have hsize : 0 < 2 ^ a.order := Nat.two_pow_pos _
  have hclear := h hvalid
  rw [hbase, horder] at hclear
  omega

/-! ## Where a load is placed (R29) -/

/-- R29: an invalid entry below W. -/
abbrev State.WiredFree (s : State) (k : EntryIx) : Prop :=
  k.val < s.settings.wired ∧ (s.entry k).valid = false

/-- R29: an invalid entry from W on. -/
abbrev State.UnwiredFree (s : State) (k : EntryIx) : Prop :=
  s.settings.wired ≤ k.val ∧ (s.entry k).valid = false

theorem wiredFree_iff : (decide (k.val < s.settings.wired) && !(s.entry k).valid) = true ↔
    s.WiredFree k := by
  simp only [Bool.and_eq_true, decide_eq_true_eq, Bool.not_eq_true']

theorem unwiredFree_iff : (decide (s.settings.wired ≤ k.val) && !(s.entry k).valid) = true ↔
    s.UnwiredFree k := by
  simp only [Bool.and_eq_true, decide_eq_true_eq, Bool.not_eq_true']

section
variable {w : Bool}

theorem placeFor_wired (hw : w = true) (h : Lowest s.WiredFree k) :
    s.placeFor w = some (k, false) := by
  rw [State.placeFor, if_pos hw, find?_entryIxs_lowest (fun _ => wiredFree_iff) h]
  rfl

theorem placeFor_full (hw : w = true)
    (h : ∀ k : EntryIx, k.val < s.settings.wired → (s.entry k).valid = true) :
    s.placeFor w = none := by
  rw [State.placeFor, if_pos hw, find?_entryIxs_none (fun _ => wiredFree_iff)
    fun k ⟨hbelow, hfree⟩ => Bool.false_ne_true (hfree.symm.trans (h k hbelow))]
  rfl

theorem placeFor_unwired (hw : w = false) (h : Lowest s.UnwiredFree k) :
    s.placeFor w = some (k, false) := by
  rw [State.placeFor, if_neg (Bool.eq_false_iff.mp hw),
    find?_entryIxs_lowest (fun _ => unwiredFree_iff) h]

theorem placeFor_pointer (hw : w = false)
    (h : ∀ k : EntryIx, s.settings.wired ≤ k.val → (s.entry k).valid = true) :
    s.placeFor w = some (s.memb.pointer, true) := by
  rw [State.placeFor, if_neg (Bool.eq_false_iff.mp hw),
    find?_entryIxs_none (fun _ => unwiredFree_iff)
      fun k ⟨habove, hfree⟩ => Bool.false_ne_true (hfree.symm.trans (h k habove))]

end

/-- R29: the pointer advances by one, and from 47 it wraps to W. -/
theorem nextPointer_val (hw : s.settings.wired ≤ 40) : s.nextPointer.val =
    if s.memb.pointer.val = 47 then s.settings.wired else s.memb.pointer.val + 1 := by
  have hwired : s.settings.wired < 48 := by omega
  split
  · next h => simp [State.nextPointer, State.wiredIx, fin?, h, hwired]
  · next h =>
    have hnext : s.memb.pointer.val + 1 < 48 := by omega
    simp [State.nextPointer, fin?, hnext]

/-! ## LOAD MEMBER by its tests (R28) -/

theorem loadMemberRequest_outOfRange (hp : parseLoad b = none) :
    loadMemberRequest b s = (refuse .outOfRange, s) := by
  simp [loadMemberRequest, hp]

/-- R28 step 2: a load that no save keeps waiting. -/
theorem wired_and_saving_eq_false (hfree : a.wired = false ∨ s.store.save = none) :
    (a.wired && s.saving) = false := by
  rcases hfree with h | h
  · rw [h, Bool.false_and]
  · rw [saving_eq_false h, Bool.and_false]

/-- R28 step 5: no entry overlaps a range that lies clear of them all. -/
theorem overlaps_any_eq_false (hclear : ∀ k, s.ClearOf a k) :
    entryIxs.any (fun k => (s.entry k).overlaps a.base a.order) = false :=
  List.any_eq_false.mpr fun k _ e => overlaps_iff.mp e (hclear k)

section
variable (hp : parseLoad b = some a)
include hp

theorem loadMemberRequest_busy (hwired : a.wired = true) (hsave : s.store.save ≠ none) :
    loadMemberRequest b s = (refuse .busy, s) := by
  simp [loadMemberRequest, hp, hwired, saving_eq_true hsave]

variable (hfree : a.wired = false ∨ s.store.save = none)
include hfree

theorem loadMemberRequest_notSellable (hkind : (s.row a.row).kind ≠ .member) :
    loadMemberRequest b s = (refuse .notSellable, s) := by
  simp [loadMemberRequest, hp, wired_and_saving_eq_false hfree, hkind]

variable (hkind : (s.row a.row).kind = .member)
include hkind

/-- R28 step 4. -/
theorem loadMemberRequest_update (h : Lowest (s.SameRange a) k) : loadMemberRequest b s =
    loaded s k (setEntry k { s.entry k with row := a.row, status := a.status } s) := by
  simp only [loadMemberRequest, hp, wired_and_saving_eq_false hfree, hkind, ne_eq, not_true,
    Bool.false_eq_true, if_false, find?_entryIxs_lowest (fun _ => sameRange_iff) h]

/-- R28 step 5. -/
theorem loadMemberRequest_overlap (hsame : ∀ k, ¬ s.SameRange a k) (h : ∃ k, ¬ s.ClearOf a k) :
    loadMemberRequest b s = (refuse .overlap, s) := by
  obtain ⟨k, hk⟩ := h
  have hover : entryIxs.any (fun k => (s.entry k).overlaps a.base a.order) = true :=
    List.any_eq_true.mpr ⟨k, List.mem_finRange k, overlaps_iff.mpr hk⟩
  simp only [loadMemberRequest, hp, wired_and_saving_eq_false hfree, hkind, ne_eq, not_true,
    Bool.false_eq_true, if_false, find?_entryIxs_none (fun _ => sameRange_iff) hsame, hover, if_true]

variable (hclear : ∀ k, s.ClearOf a k)
include hclear

/-- R29: a load whose range lies clear of every entry's goes where it is placed. -/
theorem loadMemberRequest_placed {usedPointer : Bool}
    (h : s.placeFor a.wired = some (k, usedPointer)) : loadMemberRequest b s =
      loaded s k (if usedPointer = true then
        { setEntry k a.entry s with
          memb := { (setEntry k a.entry s).memb with pointer := s.nextPointer } }
        else setEntry k a.entry s) := by
  simp only [loadMemberRequest, hp, wired_and_saving_eq_false hfree, hkind, ne_eq, not_true,
    Bool.false_eq_true, if_false, overlaps_any_eq_false hclear, h,
    find?_entryIxs_none (fun _ => sameRange_iff) fun k => not_sameRange_of_clearOf (hclear k)]

theorem loadMemberRequest_full (h : s.placeFor a.wired = none) :
    loadMemberRequest b s = (refuse .full, s) := by
  simp only [loadMemberRequest, hp, wired_and_saving_eq_false hfree, hkind, ne_eq, not_true,
    Bool.false_eq_true, if_false, overlaps_any_eq_false hclear, h,
    find?_entryIxs_none (fun _ => sameRange_iff) fun k => not_sameRange_of_clearOf (hclear k)]

end

/-! ## LOAD MEMBER as a command -/

section
variable (ht : s.takes .site) (hm : s.mode ≠ .lockout) (hb : b.length = 8)
include ht hm hb

theorem exec_loadMember_refused {st : Status}
    (h : loadMemberRequest b (hunt .site s) = (refuse st, hunt .site s)) :
    exec (.loadMember .site tag b) s = answered .site 0x50 tag st [] (hunt .site s) :=
  request_refused (k := .loadMember) ht rfl (by simp [RequestKind.lengthOk, hb]) (Or.inl hm) h

/-- R28, R36: a load that succeeds answers the index and completes the waits it covers. -/
theorem exec_loadMember_loaded {u : State}
    (h : loadMemberRequest b (hunt .site s) = loaded (hunt .site s) k u) :
    exec (.loadMember .site tag b) s = answered .site 0x50 tag .ok (u8 k.val)
      (settleDrain (hunt .site s) (completeWaits k u)) :=
  request_ok (k := .loadMember) ht rfl (by simp [RequestKind.lengthOk, hb]) (Or.inl hm) h

end

/-- Settles O26: the body is read back, and the load is followed through its tests in order. -/
theorem loadsPlaceMemberEntries : Obligations.LoadsPlaceMemberEntries := by
  unfold Obligations.LoadsPlaceMemberEntries
  constructor
  · intro tag a s ht hm horder hbase hw c h no yes placed same clear lowest
    have hp : parseLoad (memberBody a) = some a := parseLoad_memberBody ⟨horder, hbase⟩
    have refused : ∀ st, loadMemberRequest (memberBody a) h = (refuse st, h) → no st :=
      fun st => exec_loadMember_refused ht hm rfl
    have succeeds : ∀ k u, loadMemberRequest (memberBody a) h = loaded h k u → yes k u :=
      fun k u => exec_loadMember_loaded ht hm rfl
    refine ⟨fun hwired hsave => refused _ (loadMemberRequest_busy hp hwired hsave),
      fun hfree => ⟨fun hkind => refused _ (loadMemberRequest_notSellable hp hfree hkind),
        fun hkind => ⟨fun k hk => succeeds k _ (loadMemberRequest_update hp hfree hkind hk),
          fun hsame hover => refused _ (loadMemberRequest_overlap hp hfree hkind hsame hover),
          fun hclear => ⟨fun hwired => ⟨fun k hk => ?_, fun hfull => ?_⟩,
            fun hunwired => ⟨fun k hk => ?_, fun hfull => ?_⟩⟩⟩⟩⟩
    · exact succeeds k _ (loadMemberRequest_placed (s := h) (usedPointer := false) hp hfree hkind
        hclear (placeFor_wired hwired hk))
    · exact refused _ (loadMemberRequest_full (s := h) hp hfree hkind hclear
        (placeFor_full hwired hfull))
    · exact succeeds k _ (loadMemberRequest_placed (s := h) (usedPointer := false) hp hfree hkind
        hclear (placeFor_unwired hunwired hk))
    · exact ⟨s.nextPointer, nextPointer_val hw, succeeds _ _ (loadMemberRequest_placed (s := h)
        (usedPointer := true) hp hfree hkind hclear (placeFor_pointer hunwired hfull))⟩
  · intro tag b s ht hm hb hout
    exact exec_loadMember_refused ht hm hb
      (loadMemberRequest_outOfRange (s := hunt .site s) (parseLoad_eq_none hout))

end Sys2Proof.Machine
end

section
/-! # Lanes, merge and gate: the tests that end an event, and OFFER (R45, R46, R51, R52, R78) -/

namespace Sys2Proof.Machine

variable {s u : State}

/-! ## A gate that is not IDLE -/

theorem testIdleOnce_standing (h : s.gate.state ≠ .idle) : testIdleOnce s = s := if_pos h

theorem testIdle_standing (h : s.gate.state ≠ .idle) : testIdle s = s := by
  rw [testIdle, testIdleOnce_standing h, testIdleOnce_standing h]

/-- R162: a drain ends with an IDLE gate alone. -/
theorem testDrain_standing (h : s.gate.state ≠ .idle) : testDrain s = s :=
  if_neg fun ⟨_, hall⟩ => h (by simp [State.drainConditions] at hall; tauto)

/-- R77: the park timer is tested where the three conditions begin or cease to hold. -/
theorem testPark_same (h : u.parkHolds = s.parkHolds) : testPark s u = u := if_pos h

theorem parkHolds_iff : s.parkHolds = true ↔
    s.conv.state = .running ∧ s.track.roster = [] ∧ s.gate.state = .idle := by
  simp [State.parkHolds, and_assoc]

theorem parkHolds_standing (h : s.gate.state ≠ .idle) : s.parkHolds = false :=
  Bool.eq_false_iff.mpr fun hp => h (parkHolds_iff.mp hp).2.2

theorem parkHolds_notRunning (h : s.conv.state ≠ .running) : s.parkHolds = false :=
  Bool.eq_false_iff.mpr fun hp => h (parkHolds_iff.mp hp).1

/-- What an event ends with leaves a gate alone that stands outside IDLE throughout. -/
theorem settle_standing (hs : s.gate.state ≠ .idle) (hu : u.gate.state ≠ .idle) :
    settle s u = u := by
  rw [settle, testIdle_standing hu, settleDrain, testDrain_standing hu,
    testPark_same (by rw [parkHolds_standing hs, parkHolds_standing hu])]

theorem settleHalted_standing (hs : s.gate.state ≠ .idle) (hu : u.gate.state ≠ .idle) :
    settleHalted s u = u := by
  rw [settleHalted, settle_standing hs hu, ite_self]

/-- An event that leaves the halt state alone makes no test after it. -/
theorem settleHalted_sameHalt (h : u.halt.state = s.halt.state) : settleHalted s u = u := if_pos h

/-! ## Lane exit eyes (R45, R46) -/

/-- R47: the merge queue and the ticket AT_GATE number 12. -/
theorem mergeFull_iff : s.mergeFull = true ↔
    12 ≤ s.gate.merge.length + (if s.gate.atGate.isSome then 1 else 0) := decide_eq_true_iff

theorem laneBreak_full (i : Lane) (h : s.mergeFull = true) :
    laneBreak i s = overrun i .mergeFull s := by
  unfold laneBreak
  split <;> exact if_pos h

section
variable {i : Lane} (hroom : s.mergeFull = false)
include hroom

theorem laneBreak_queued {n : Nat} {rest : List Nat} (hq : s.laneQueue i = n :: rest) :
    laneBreak i s = joinMergeTail n (setLaneQueue i rest s) := by
  simp [laneBreak, hq, hroom]

theorem laneBreak_noSlot (hq : s.laneQueue i = []) (h0 : s.freeSlots = 0) :
    laneBreak i s = overrun i .noSlot s := by
  simp [laneBreak, hq, hroom, h0]

theorem laneBreak_placeholder (hq : s.laneQueue i = []) (h0 : s.freeSlots ≠ 0) :
    laneBreak i s = joinMergeTail s.nextNumber (addTicket (placeholder i s.nextNumber)
      { s with sales := { s.sales with lastNumber := s.nextNumber } }) := by
  simp [laneBreak, hq, hroom, h0, takeNumber]

end

/-- Settles O29: the break of a lane exit eye by what the lane queue, the merge queue and the ticket
table hold, and the gate's tests for a gate that is not IDLE. -/
theorem laneBreaksFeedTheMerge : Obligations.LaneBreaksFeedTheMerge := by
  unfold Obligations.LaneBreaksFeedTheMerge
  intro i s c full overrun
  have hroom : ¬ full → s.mergeFull = false :=
    fun h => Bool.eq_false_iff.mpr fun e => h (mergeFull_iff.mp e)
  have hexec : ∀ u, laneBreak i s = u → exec c s = done (settle s u) :=
    fun u h => congrArg (fun u => done (settle s u)) h
  refine ⟨fun n rest hq h => hexec _ (laneBreak_queued (hroom h) hq),
    fun h => hexec _ (laneBreak_full i (mergeFull_iff.mpr h)),
    fun hq h h0 => hexec _ (laneBreak_noSlot (hroom h) hq h0),
    fun hq h h0 => hexec _ (laneBreak_placeholder (hroom h) hq h0),
    fun u hs hu => settle_standing hs hu⟩

/-! ## The conditions of an offer (R51, R52) -/

/-- R51: a ticket of kind UNPAID. -/
abbrev State.Unpaid (s : State) (n : Nat) : Prop := ∃ t, s.ticket? n = some t ∧ t.kind = .unpaid

/-- R52 condition 5, R62. -/
abbrev State.Gap (s : State) : Prop :=
  s.track.roster = [] ∨ ∃ c l, s.track.roster.getLast? = some c ∧ c.length = some l ∧
    (s.settings.timing.minGap : Int) ≤ (c.front : Int) - (l : Int)

/-- R52 conditions 1 to 5. -/
abbrev State.OfferWanted (s : State) : Prop :=
  (s.mode = .openMode ∨ s.mode = .draining) ∧ s.halt.state = .running ∧
    s.track.roster.length < 20 ∧ (∃ n rest, s.gate.merge = n :: rest ∧ ¬ s.Unpaid n) ∧ s.Gap

theorem gapOpen_iff : s.gapOpen = true ↔ s.Gap := by
  unfold State.gapOpen State.newestCar State.Gap
  cases hnew : s.track.roster.getLast? with
  | none => simp [List.getLast?_eq_none_iff.mp hnew]
  | some c =>
    have hroster : s.track.roster ≠ [] := by rintro h; simp [h] at hnew
    cases hlen : c.length <;> simp [hroster, Car.rear, hlen]

theorem headUnpaid_cons {n : Nat} {rest : List Nat} (h : s.gate.merge = n :: rest) :
    s.headUnpaid = true ↔ s.Unpaid n := by
  unfold State.headUnpaid State.Unpaid
  rw [h]
  cases hticket : s.ticket? n <;> simp [hticket]

/-- R52: a head of the merge queue that is not of kind UNPAID. -/
theorem headSold_iff : (!s.gate.merge.isEmpty && !s.headUnpaid) = true ↔
    ∃ n rest, s.gate.merge = n :: rest ∧ ¬ s.Unpaid n := by
  cases hmerge : s.gate.merge with
  | nil => simp
  | cons n rest =>
    rw [List.isEmpty_cons, Bool.not_false, Bool.true_and, Bool.not_eq_true', ← Bool.not_eq_true,
      headUnpaid_cons hmerge]
    exact ⟨fun h => ⟨n, rest, rfl, h⟩, fun ⟨_, _, e, h⟩ => by injection e with e1; exact e1 ▸ h⟩

theorem offerWanted_iff : s.offerWanted = true ↔ s.OfferWanted := by
  unfold State.offerWanted State.OfferWanted
  rw [← gapOpen_iff, ← headSold_iff, ← trading_iff, Config.rosterMax]
  simp only [Bool.and_eq_true, beq_iff_eq, decide_eq_true_eq, and_assoc]

/-! ## The gate's tests in IDLE (R51, R52) -/

section
variable (hidle : s.gate.state = .idle)
include hidle

theorem testIdleOnce_mergeCheck (hcheck : s.gate.mergeCheck = true) :
    testIdleOnce s = holdGate .mergeCheck (s.gate.merge.headD 0) s := by
  simp [testIdleOnce, hidle, hcheck]

variable (hcheck : s.gate.mergeCheck = false)
include hcheck

theorem testIdleOnce_unpaid {n : Nat} {rest : List Nat} (hm : s.gate.merge = n :: rest)
    (hn : s.Unpaid n) : testIdleOnce s = holdGate .unpaid n (takeHead n rest s) := by
  simp [testIdleOnce, hidle, hcheck, hm, (headUnpaid_cons hm).mpr hn]

/-- R52, R78: with conditions 1 to 5, what follows depends on the conveyor. -/
theorem testIdleOnce_wanted {n : Nat} {rest : List Nat} (hm : s.gate.merge = n :: rest)
    (hw : s.OfferWanted) : testIdleOnce s =
      if s.conv.state = .running then enterOffer (takeHead n rest s)
      else if s.conv.parked = true then
        retestDemand { s with conv := { s.conv with parked := false } }
      else s := by
  obtain ⟨-, -, -, ⟨m, tail, hm', hpaid⟩, -⟩ := id hw
  obtain ⟨rfl, rfl⟩ : n = m ∧ rest = tail := by simpa [hm] using hm'
  have hhead : s.headUnpaid = false := Bool.eq_false_iff.mpr fun h => hpaid ((headUnpaid_cons hm).mp h)
  simp [testIdleOnce, hidle, hcheck, hm, hhead, offerWanted_iff.mpr hw]

theorem testIdleOnce_unwanted (hw : ¬ s.OfferWanted)
    (hpaid : ∀ n rest, s.gate.merge = n :: rest → ¬ s.Unpaid n) : testIdleOnce s = s := by
  have hno : s.offerWanted = false := Bool.eq_false_iff.mpr fun h => hw (offerWanted_iff.mp h)
  cases hm : s.gate.merge with
  | nil => simp [testIdleOnce, hidle, hcheck, hm]
  | cons n rest =>
    have hhead : s.headUnpaid = false :=
      Bool.eq_false_iff.mpr fun h => hpaid n rest hm ((headUnpaid_cons hm).mp h)
    simp [testIdleOnce, hidle, hcheck, hm, hhead, hno]

end

/-- The tests are not made again where they found nothing to do, or took the gate out of IDLE. -/
theorem testIdle_of_once (h : testIdleOnce s = u) (hu : u = s ∨ u.gate.state ≠ .idle) :
    testIdle s = u := by
  rw [testIdle, h]
  rcases hu with rfl | hu
  · exact h
  · exact testIdleOnce_standing hu

/-! ## An offer and an unpark (R52 to R54, R72, R78) -/

/-- R53, R54: what the gate becomes when it offers its ticket under RUNNING. -/
def offeringGate (n : Nat) (rest : List Nat) (s : State) : Gate :=
  if s.inputs.tireClosed = true then
    { s.gate with state := .loading, merge := rest, atGate := some n, offerTimer := .stopped
                  rollerTimer := .running 50000, loadCount := 0 }
  else
    { s.gate with state := .offer, merge := rest, atGate := some n
                  offerTimer := .running (s.settings.timing.offerTime * 100000) }

theorem offeringGate_standing (n : Nat) (rest : List Nat) (s : State) :
    (offeringGate n rest s).state ≠ .idle := by
  unfold offeringGate
  split <;> simp

/-- R52 to R54: under RUNNING the ticket is offered, and loaded at once with the tire switch closed. -/
theorem enterOffer_takeHead (n : Nat) (rest : List Nat) (hrun : s.halt.state = .running) :
    enterOffer (takeHead n rest s) = { updateTicket n (fun t => { t with state := .atGate }) s with
      gate := offeringGate n rest s } := by
  have hrun' : (takeHead n rest s).halt.state = .running := hrun
  have htire : (takeHead n rest s).inputs.tireClosed = s.inputs.tireClosed := rfl
  simp only [enterOffer, testTire, hrun', htire, if_true, true_and, and_true, offeringGate]
  split <;> rfl

/-- R81: the averaged period is that of the samples. -/
theorem avgPeriod_conv {v : Conveyor} (h : v.samples = s.conv.samples) :
    State.avgPeriod { s with conv := v } = s.avgPeriod := by
  simp only [State.avgPeriod, h]

/-- R71, R78: the demand of a part that has just unparked under RUNNING, in a trading mode. -/
theorem runDemand_unparked (hmode : s.mode = .openMode ∨ s.mode = .draining)
    (hrun : s.halt.state = .running) :
    State.runDemand { s with conv := { s.conv with parked := false } } = s.inputs.chainClosed := by
  have htrading : State.trading { s with conv := { s.conv with parked := false } } = true :=
    trading_iff.mpr hmode
  simp [State.runDemand, htrading, hrun]

/-- R77: a gate that leaves IDLE stops a park timer that its three conditions kept running. -/
theorem testPark_leavesIdle (hs : s.gate.state = .idle) (hu : u.gate.state ≠ .idle) :
    testPark s u = { u with conv := { u.conv with
      parkTimer := if s.conv.state = .running ∧ s.track.roster = [] then .stopped
        else u.conv.parkTimer } } := by
  have hafter := parkHolds_standing hu
  by_cases hb : s.conv.state = .running ∧ s.track.roster = []
  · have hbefore : s.parkHolds = true := parkHolds_iff.mpr ⟨hb.1, hb.2, hs⟩
    simp [testPark, hbefore, hafter, hb]
  · have hbefore : s.parkHolds = false :=
      Bool.eq_false_iff.mpr fun h => hb ⟨(parkHolds_iff.mp h).1, (parkHolds_iff.mp h).2.1⟩
    rw [testPark_same (hafter.trans hbefore.symm), if_neg hb]

section
variable (hidle : s.gate.state = .idle)
include hidle

/-- OFFER where the first tests take the gate out of IDLE. -/
theorem exec_offer_leavesIdle (h : testIdleOnce s = u) (hu : u.gate.state ≠ .idle) :
    exec .offer s = done { u with conv := { u.conv with
      parkTimer := if s.conv.state = .running ∧ s.track.roster = [] then .stopped
        else u.conv.parkTimer } } := by
  rw [← testPark_leavesIdle hidle hu, ← testIdle_of_once h (Or.inr hu)]
  rfl

variable (hcheck : s.gate.mergeCheck = false) (hw : s.OfferWanted)
  (hstate : s.conv.state ≠ .running) {v : Conveyor}
include hcheck hw hstate

/-- R78: the first tests unpark a parked conveyor, which makes of itself what run demand asks. -/
theorem testIdleOnce_unparks (hparked : s.conv.parked = true)
    (hd : testDemand { s with conv := { s.conv with parked := false } } = { s with conv := v })
    (hpace : v.samples = s.conv.samples) : testIdleOnce s = { s with conv := v } := by
  obtain ⟨-, -, -, ⟨n, rest, hm, -⟩, -⟩ := id hw
  rw [testIdleOnce_wanted hidle hcheck hm hw, if_neg hstate, if_pos hparked, retestDemand, hd]
  exact if_pos (avgPeriod_conv (v := v) hpace)

/-- R78: OFFER where the unparked conveyor does not pass to RUNNING. -/
theorem exec_offer_unparks (hfirst : testIdleOnce s = { s with conv := v })
    (hfree : v.parked = false) (hrest : v.state ≠ .running) :
    exec .offer s = done { s with conv := v } := by
  obtain ⟨-, -, -, ⟨n, rest, hm, -⟩, -⟩ := id hw
  have hsecond : testIdleOnce { s with conv := v } = { s with conv := v } :=
    (testIdleOnce_wanted (s := { s with conv := v }) hidle hcheck hm hw).trans
      ((if_neg hrest).trans (if_neg (by simp [hfree])))
  show done (testPark s (testIdle s)) = _
  rw [testIdle, hfirst, hsecond, testPark_same]
  exact (parkHolds_notRunning (s := { s with conv := v }) hrest).trans
    (parkHolds_notRunning hstate).symm

/-- R72: OFFER where the unparked conveyor passes to RUNNING, and the ticket is offered. -/
theorem exec_offer_starts {n : Nat} {rest : List Nat} (hm : s.gate.merge = n :: rest)
    (hfirst : testIdleOnce s = { s with conv := v }) (hruns : v.state = .running) :
    exec .offer s = done { updateTicket n (fun t => { t with state := .atGate }) s with
      gate := offeringGate n rest s, conv := v } := by
  have hrun : s.halt.state = .running := hw.2.1
  have hsecond : testIdleOnce { s with conv := v } = _ :=
    (testIdleOnce_wanted (s := { s with conv := v }) hidle hcheck hm hw).trans
      ((if_pos hruns).trans (enterOffer_takeHead n rest hrun))
  show done (testPark s (testIdle s)) = _
  rw [testIdle, hfirst, hsecond, testPark_same]
  · rfl
  · rw [parkHolds_notRunning hstate]
    exact parkHolds_standing (offeringGate_standing n rest s)

end

/-- OFFER where the tests find nothing to do. -/
theorem exec_offer_nothing (h : testIdleOnce s = s) : exec .offer s = done s := by
  show done (testPark s (testIdle s)) = done s
  rw [testIdle_of_once h (Or.inl rfl), testPark_same rfl]

/-! ## Run demand from rest (R71, R72) -/

theorem testDemand_stopping (h : s.conv.state = .stopping) : testDemand s = s := by
  simp [testDemand, h]

theorem testDemand_rests (hd : s.runDemand = false) (h : s.conv.state = .stopped) :
    testDemand s = s := by
  simp [testDemand, hd, h]

theorem testDemand_warns (hd : s.runDemand = true) (h : s.conv.state = .stopped) :
    testDemand s = startWarning s := by
  simp [testDemand, hd, h]

/-- Settles O30: the tests in IDLE branch by branch; after an unpark they are made a second time. -/
theorem offerTestsTheIdleGate : Obligations.OfferTestsTheIdleGate := by
  unfold Obligations.OfferTestsTheIdleGate
  intro s unpaid gap wanted park offered
  refine ⟨fun h => exec_offer_nothing (testIdleOnce_standing h), fun hidle hcheck => ?_,
    fun hidle hcheck => ⟨fun n rest hm hn => ?_, fun n rest hm hw hrun => ?_,
      fun hw hparked hstate => ?_, fun hw hparked hstate hchain hwarn => ?_,
      fun n rest hm hw hparked hstate hchain hwarn => ?_, fun hw hparked hstate hchain => ?_,
      fun hw hfree hstate => ?_, fun hw hpaid => ?_⟩⟩
  · exact exec_offer_leavesIdle hidle (testIdleOnce_mergeCheck hidle hcheck) (by simp [holdGate])
  · exact exec_offer_leavesIdle hidle (testIdleOnce_unpaid hidle hcheck hm hn) (by simp [holdGate])
  · have hfirst := testIdleOnce_wanted hidle hcheck hm hw
    rw [if_pos hrun, enterOffer_takeHead n rest hw.2.1] at hfirst
    exact exec_offer_leavesIdle hidle hfirst (offeringGate_standing n rest s)
  · have hmoving : s.conv.state ≠ .running := by simp [hstate]
    exact exec_offer_unparks hidle hcheck hw hmoving
      (testIdleOnce_unparks hidle hcheck hw hmoving hparked (testDemand_stopping hstate) rfl) rfl
      hmoving
  · have hresting : s.conv.state ≠ .running := by simp [hstate]
    have hdemand := (runDemand_unparked hw.1 hw.2.1).trans hchain
    exact exec_offer_unparks hidle hcheck hw hresting
      (testIdleOnce_unparks hidle hcheck hw hresting hparked
        ((testDemand_warns hdemand hstate).trans (if_neg hwarn)) rfl) rfl (by simp)
  · have hresting : s.conv.state ≠ .running := by simp [hstate]
    have hdemand := (runDemand_unparked hw.1 hw.2.1).trans hchain
    exact exec_offer_starts hidle hcheck hw hresting hm
      (testIdleOnce_unparks hidle hcheck hw hresting hparked
        ((testDemand_warns hdemand hstate).trans (if_pos hwarn)) rfl) rfl
  · have hresting : s.conv.state ≠ .running := by simp [hstate]
    have hdemand := (runDemand_unparked hw.1 hw.2.1).trans hchain
    exact exec_offer_unparks hidle hcheck hw hresting
      (testIdleOnce_unparks hidle hcheck hw hresting hparked (testDemand_rests hdemand hstate) rfl)
      rfl hresting
  · obtain ⟨-, -, -, ⟨n, rest, hm, -⟩, -⟩ := id hw
    have hfirst := testIdleOnce_wanted hidle hcheck hm hw
    rw [if_neg hstate, if_neg (by simp [hfree])] at hfirst
    exact exec_offer_nothing hfirst
  · exact exec_offer_nothing (testIdleOnce_unwanted hidle hcheck hw hpaid)

end Sys2Proof.Machine
end

section
/-! # Halts, stations and gate: what each leaves of the other's records (R118, R130 to R141)

An evaluation rewrites statuses and machines alone; a change of the halt state leaves what a car
shows, the sales, and a gate that makes no offer; a cause once raised stays. -/

namespace Sys2Proof.Machine

variable {s t u : State}

/-! ## The stations (R118, R130 to R133) -/

/-- What a car shows to the blocks other than STN: everything but its statuses. -/
def Car.sight (c : Car) : Nat × Nat × Option Nat × VehicleFlags × Vector Bool 4 × Bool :=
  (c.ticket, c.front, c.length, c.flags, c.marks, c.exitMark)

/-- Only the cars' statuses and the machines of the stations change. -/
def Washes (s t : State) : Prop :=
  ∃ r m, t = { s with track := { s.track with roster := r }, stn := m } ∧
    r.map Car.sight = s.track.roster.map Car.sight

theorem Washes.refl (s : State) : Washes s s := ⟨s.track.roster, s.stn, rfl, rfl⟩

theorem Washes.trans (h : Washes s t) (k : Washes t u) : Washes s u := by
  obtain ⟨r, m, rfl, hr⟩ := h
  obtain ⟨r', m', rfl, hr'⟩ := k
  exact ⟨r', m', rfl, hr'.trans hr⟩

theorem Washes.foldl {α : Type} {f : State → α → State} (hf : ∀ s x, Washes s (f s x)) (l : List α)
    (s : State) : Washes s (l.foldl f s) :=
  List.foldlRecOn (motive := fun u => Washes s u) l f (Washes.refl s)
    fun u hu x _ => hu.trans (hf u x)

theorem setRoster_washes {r : List Car} (h : r.map Car.sight = s.track.roster.map Car.sight) :
    Washes s (setRoster r s) := ⟨r, s.stn, rfl, h⟩

theorem mapRoster_washes (f : Car → Car) (hf : ∀ c, (f c).sight = c.sight) (s : State) :
    Washes s (setRoster (s.track.roster.map f) s) :=
  setRoster_washes (by simp [Function.comp_def, hf])

theorem markAll_washes (j : StationIx) (test : Car → Bool) (p : Progress) (s : State) :
    Washes s (markAll j test p s) :=
  mapRoster_washes (fun c => if test c then c.setStatus j p else c) (by intro c; split <;> rfl) s

theorem markOldest_washes (j : StationIx) (test : Car → Bool) (p : Progress) (s : State) :
    Washes s (markOldest j test p s) :=
  setRoster_washes (mapFirst_map Car.sight test (fun c => c.setStatus j p) (fun _ => rfl) _)

theorem updateMachine_washes (j : StationIx) (f : StationMachine → StationMachine) (s : State) :
    Washes s (updateMachine j f s) := ⟨s.track.roster, _, rfl, rfl⟩

theorem withdrawArm_washes (j : StationIx) (s : State) : Washes s (withdrawArm j s) :=
  updateMachine_washes j _ s

theorem endStep_washes (j : StationIx) (s : State) : Washes s (endStep j s) := by
  unfold endStep
  dsimp only
  split
  · exact markAll_washes ..
  · split
    · split
      · exact .refl s
      · exact (markAll_washes ..).trans (withdrawArm_washes ..)
    · split
      · exact .refl s
      · split
        · exact (markAll_washes ..).trans (markOldest_washes ..)
        · exact (markAll_washes ..).trans (withdrawArm_washes ..)
    all_goals exact .refl s

theorem startStep_washes (j : StationIx) (s : State) : Washes s (startStep j s) := by
  unfold startStep
  split
  · exact markAll_washes ..
  · split
    · exact (markOldest_washes ..).trans (updateMachine_washes ..)
    · exact .refl s

theorem evalStation_washes (j : StationIx) (s : State) : Washes s (evalStation j s) := by
  unfold evalStation
  split
  · exact (((markAll_washes ..).trans (endStep_washes ..)).trans (markAll_washes ..)).trans
      (startStep_washes ..)
  · exact (markAll_washes ..).trans (markAll_washes ..)
  · exact .refl s

theorem evaluate_washes (s : State) : Washes s (evaluate s) :=
  Washes.foldl (fun s j => evalStation_washes j s) stationIxs s

theorem stopArm_washes (s : State) (j : StationIx) : Washes s (stopArm s j) := by
  unfold stopArm
  split
  · exact withdrawArm_washes ..
  · exact withdrawArm_washes ..
  all_goals exact updateMachine_washes ..

theorem stopStations_washes (s : State) : Washes s (stopStations s) :=
  (mapRoster_washes (fun c => { c with
    progress := vmap (fun p => if p = .active then .interrupted else p) c.progress })
    (fun _ => rfl) s).trans (Washes.foldl stopArm_washes stationIxs _)

theorem judgeStations_washes (s : State) : Washes s (judgeStations s) :=
  Washes.foldl (fun s _ => mapRoster_washes _ (by intro c; split <;> rfl) s) ..

theorem holdStations_washes (s : State) : Washes s (holdStations s) := ⟨s.track.roster, _, rfl, rfl⟩

theorem releaseStations_washes (s : State) : Washes s (releaseStations s) :=
  ⟨s.track.roster, _, rfl, rfl⟩

theorem stationsHaltChange_washes (old new : HaltState) (s : State) :
    Washes s (stationsHaltChange old new s) := by
  unfold stationsHaltChange
  refine Washes.trans ?_ (evaluate_washes _)
  split
  · exact stopStations_washes s
  · exact stopStations_washes s
  · exact holdStations_washes s
  · exact (judgeStations_washes s).trans (holdStations_washes _)
  · exact judgeStations_washes s
  · exact releaseStations_washes s
  all_goals exact .refl s

/-! ## What a change of the halt state spares -/

/-- The records that the halt unit, run demand and the stations leave alone: the cars as the other
blocks see them, the sales, and a gate that makes no offer. -/
structure Spares (s t : State) : Prop where
  cars : t.track.roster.map Car.sight = s.track.roster.map Car.sight
  moved : t.track.moved = s.track.moved
  sales : t.sales = s.sales
  settings : t.settings = s.settings
  inputs : t.inputs = s.inputs
  mode : t.mode = s.mode
  gate : s.gate.state ≠ .offer → t.gate = s.gate

theorem Spares.refl (s : State) : Spares s s := ⟨rfl, rfl, rfl, rfl, rfl, rfl, fun _ => rfl⟩

theorem Spares.trans (h : Spares s t) (k : Spares t u) : Spares s u where
  cars := k.cars.trans h.cars
  moved := k.moved.trans h.moved
  sales := k.sales.trans h.sales
  settings := k.settings.trans h.settings
  inputs := k.inputs.trans h.inputs
  mode := k.mode.trans h.mode
  gate hg := (k.gate (by rw [h.gate hg]; exact hg)).trans (h.gate hg)

theorem Spares.foldl {α : Type} {f : State → α → State} (hf : ∀ s x, Spares s (f s x)) (l : List α)
    (s : State) : Spares s (l.foldl f s) :=
  List.foldlRecOn (motive := fun u => Spares s u) l f (Spares.refl s)
    fun u hu x _ => hu.trans (hf u x)

theorem Spares.ticket? (h : Spares s t) (n : Nat) : t.ticket? n = s.ticket? n :=
  ticket?_congr (congrArg Sales.slots h.sales) n

theorem Washes.spares (h : Washes s t) : Spares s t := by
  obtain ⟨r, m, rfl, hr⟩ := h
  exact ⟨hr, rfl, rfl, rfl, rfl, rfl, fun _ => rfl⟩

theorem testDemand_spares (s : State) : Spares s (testDemand s) := by
  unfold testDemand startWarning
  repeat' split
  all_goals exact ⟨rfl, rfl, rfl, rfl, rfl, rfl, fun _ => rfl⟩

theorem gateHaltChange_standing (h : s.gate.state ≠ .offer) : gateHaltChange s = s := if_neg h

theorem gateHaltChange_spares (s : State) : Spares s (gateHaltChange s) := by
  refine ⟨?_, ?_, ?_, ?_, ?_, ?_, fun h => congrArg State.gate (gateHaltChange_standing h)⟩
  all_goals
    unfold gateHaltChange testTire
    repeat' split
    all_goals rfl

/-- The halt state itself, before its readers take it. -/
def moveHalt (new : HaltState) (s : State) : State :=
  { s with halt := { s.halt with state := new } }

/-- R141: a moved halt state as CONV and STN have taken it. -/
def haltTaken (new : HaltState) (s : State) : State :=
  stationsHaltChange s.stationHalt (moveHalt new s).stationHalt (testDemand (moveHalt new s))

theorem setHalt_eq (new : HaltState) (s : State) :
    setHalt new s = gateHaltChange (haltTaken new s) := rfl

theorem haltTaken_spares (new : HaltState) (s : State) : Spares s (haltTaken new s) := by
  have hmove : Spares s (moveHalt new s) := ⟨rfl, rfl, rfl, rfl, rfl, rfl, fun _ => rfl⟩
  exact (hmove.trans (testDemand_spares _)).trans (stationsHaltChange_washes ..).spares

theorem setHalt_spares (new : HaltState) (s : State) : Spares s (setHalt new s) := by
  rw [setHalt_eq]
  exact (haltTaken_spares new s).trans (gateHaltChange_spares _)

theorem openEpisode_spares (c : Cause) (subj : Subject) (s : State) :
    Spares s (openEpisode c subj s) := ⟨rfl, rfl, rfl, rfl, rfl, rfl, fun _ => rfl⟩

theorem joinEpisode_spares (c : Cause) (s : State) : Spares s (joinEpisode c s) := by
  unfold joinEpisode
  repeat' split
  all_goals exact ⟨rfl, rfl, rfl, rfl, rfl, rfl, fun _ => rfl⟩

theorem closeEpisode_spares (b : EndedBy) (s : State) : Spares s (closeEpisode b s) := by
  unfold closeEpisode
  repeat' split
  all_goals exact ⟨rfl, rfl, rfl, rfl, rfl, rfl, fun _ => rfl⟩

/-! ## What the readers of the halt state leave of the halt unit -/

theorem testDemand_halt (s : State) : (testDemand s).halt = s.halt := by
  unfold testDemand startWarning
  repeat' split
  all_goals rfl

theorem Washes.halt (h : Washes s t) : t.halt = s.halt := by
  obtain ⟨r, m, rfl, -⟩ := h
  rfl

theorem gateHaltChange_halt (s : State) : (gateHaltChange s).halt = s.halt := by
  unfold gateHaltChange testTire
  repeat' split
  all_goals rfl

theorem haltTaken_halt (new : HaltState) (s : State) :
    (haltTaken new s).halt = { s.halt with state := new } := by
  rw [haltTaken, (stationsHaltChange_washes ..).halt, testDemand_halt]
  rfl

/-- R141: the move of the halt state itself. -/
theorem setHalt_halt (new : HaltState) (s : State) :
    (setHalt new s).halt = { s.halt with state := new } := by
  rw [setHalt_eq, gateHaltChange_halt, haltTaken_halt]

theorem Washes.gate (h : Washes s t) : t.gate = s.gate := by
  obtain ⟨r, m, rfl, -⟩ := h
  rfl

theorem testDemand_gate (s : State) : (testDemand s).gate = s.gate := by
  have h := testDemand_dealings s
  simp only [dealings, Prod.mk.injEq] at h
  exact h.2.1

theorem haltTaken_gate (new : HaltState) (s : State) : (haltTaken new s).gate = s.gate := by
  rw [haltTaken, (stationsHaltChange_washes ..).gate, testDemand_gate]
  rfl

/-- R53: outside RUNNING a standing offer's timer can only pause. -/
theorem gateHaltChange_offer (h : s.halt.state ≠ .running) :
    ∃ tm, (gateHaltChange s).gate = { s.gate with offerTimer := tm } := by
  unfold gateHaltChange
  rw [if_neg h]
  split
  · exact ⟨s.gate.offerTimer.pause, rfl⟩
  · exact ⟨s.gate.offerTimer, rfl⟩

theorem setHalt_offer {new : HaltState} (h : new ≠ .running) (s : State) :
    ∃ tm, (setHalt new s).gate = { s.gate with offerTimer := tm } := by
  rw [setHalt_eq, ← haltTaken_gate new s]
  exact gateHaltChange_offer (by rw [haltTaken_halt]; exact h)

/-! ## A raised cause (R139, R140, R143, R144) -/

/-- R139: a cause joins the active cause set. -/
def withCause (c : Cause) (s : State) : State :=
  { s with halt := { s.halt with causes := Set16.insert s.halt.causes c.code } }

/-- R140: what a raised cause does, by the halt state: it opens an episode, joins the standing one, or
it turns a hold into a stop. -/
theorem raiseCause_cases {motive : State → Prop} {c : Cause} {subj : Subject}
    (present : s.hasCause c = true → motive s)
    (opens : s.halt.state = .running → motive
      (setHalt (if c.isStop then .stopped else .holding) (openEpisode c subj (withCause c s))))
    (stops : s.halt.state = .holding → c.isStop = true →
      motive (setHalt .stopped (joinEpisode c (withCause c s))))
    (joins : s.halt.state ≠ .running → (s.halt.state = .holding → c.isStop = false) →
      motive (joinEpisode c (withCause c s))) :
    motive (raiseCause c subj s) := by
  unfold raiseCause
  split
  · next h => exact present h
  · dsimp only
    split
    · next h => exact opens h
    · next h =>
      split
      · next hstop => exact stops h hstop
      · next hstop => exact joins (by simp [h]) fun _ => Bool.eq_false_iff.mpr hstop
    · next h => exact joins (by simp [h]) fun h' => by simp [h] at h'

theorem joinEpisode_leaves (c : Cause) (s : State) :
    (joinEpisode c s).gate = s.gate ∧ (joinEpisode c s).halt.state = s.halt.state ∧
      (joinEpisode c s).halt.causes = s.halt.causes := by
  unfold joinEpisode
  repeat' split
  all_goals exact ⟨rfl, rfl, rfl⟩

theorem withCause_spares (c : Cause) (s : State) : Spares s (withCause c s) :=
  ⟨rfl, rfl, rfl, rfl, rfl, rfl, fun _ => rfl⟩

theorem raiseCause_spares (c : Cause) (subj : Subject) (s : State) :
    Spares s (raiseCause c subj s) := by
  refine raiseCause_cases (fun _ => .refl s) (fun _ => ?_) (fun _ _ => ?_) (fun _ _ => ?_)
  · exact ((withCause_spares c s).trans (openEpisode_spares ..)).trans (setHalt_spares ..)
  · exact ((withCause_spares c s).trans (joinEpisode_spares ..)).trans (setHalt_spares ..)
  · exact (withCause_spares c s).trans (joinEpisode_spares ..)

/-- R53: a raised cause can only pause a standing offer. -/
theorem raiseCause_offer (c : Cause) (subj : Subject) (s : State) :
    ∃ tm, (raiseCause c subj s).gate = { s.gate with offerTimer := tm } := by
  have hjoin : (joinEpisode c (withCause c s)).gate = s.gate := (joinEpisode_leaves ..).1
  refine raiseCause_cases (motive := fun t => ∃ tm, t.gate = { s.gate with offerTimer := tm })
    (fun _ => ⟨s.gate.offerTimer, rfl⟩) (fun _ => ?_) (fun _ _ => ?_)
    (fun _ _ => ⟨s.gate.offerTimer, hjoin⟩)
  · exact setHalt_offer (by split <;> simp) _
  · rw [← hjoin]
    exact setHalt_offer (by simp) _

/-! ## A stop that lasts (R139 to R142) -/

/-- The moved flag is left alone, STOPPED stays STOPPED, and no cause clears. -/
structure KeepsStop (s t : State) : Prop where
  moved : t.track.moved = s.track.moved
  stopped : s.halt.state = .stopped → t.halt.state = .stopped
  causes : ∀ c, s.hasCause c = true → t.hasCause c = true

theorem KeepsStop.trans (h : KeepsStop s t) (k : KeepsStop t u) : KeepsStop s u where
  moved := k.moved.trans h.moved
  stopped hs := k.stopped (h.stopped hs)
  causes c hc := k.causes c (h.causes c hc)

theorem keepsStop_of_halt (hm : t.track.moved = s.track.moved) (hh : t.halt = s.halt) :
    KeepsStop s t := by
  refine ⟨hm, fun hs => by rw [hh]; exact hs, fun c hc => ?_⟩
  rw [State.hasCause, hh]
  exact hc

theorem KeepsStop.refl (s : State) : KeepsStop s s := keepsStop_of_halt rfl rfl

theorem has_insert_self (b : Set16) (c : Cause) : Set16.has (Set16.insert b c.code) c.code = true := by
  have hsingle : (Set16.single c.code).getLsbD c.code = true := by cases c <;> decide
  simp [Set16.has, Set16.insert, hsingle]

theorem has_insert_of_has {b : Set16} {k : Nat} (h : Set16.has b k = true) (m : Nat) :
    Set16.has (Set16.insert b m) k = true := by
  simp only [Set16.has, Set16.insert, BitVec.getLsbD_or] at h ⊢
  simp [h]

/-- A cause is in the set once raised, with every other that was. -/
theorem raiseCause_causes (c : Cause) (subj : Subject) (s : State) :
    (raiseCause c subj s).hasCause c = true ∧
      ∀ d, s.hasCause d = true → (raiseCause c subj s).hasCause d = true := by
  have hwith : ∀ t : State, t.halt.causes = (withCause c s).halt.causes →
      t.hasCause c = true ∧ ∀ d, s.hasCause d = true → t.hasCause d = true := by
    intro t ht
    simp only [State.hasCause, ht]
    exact ⟨has_insert_self _ c, fun d hd => has_insert_of_has hd _⟩
  have hjoin := (joinEpisode_leaves c (withCause c s)).2.2
  refine raiseCause_cases (motive := fun t => t.hasCause c = true ∧
      ∀ d, s.hasCause d = true → t.hasCause d = true)
    (fun h => ⟨h, fun _ hd => hd⟩) (fun _ => hwith _ ?_) (fun _ _ => hwith _ ?_)
    (fun _ _ => hwith _ hjoin)
  · rw [setHalt_halt]
    rfl
  · rw [setHalt_halt]
    exact hjoin

theorem raiseCause_keepsStop (c : Cause) (subj : Subject) (s : State) :
    KeepsStop s (raiseCause c subj s) := by
  refine ⟨(raiseCause_spares c subj s).moved, fun hs => ?_, (raiseCause_causes c subj s).2⟩
  refine raiseCause_cases (motive := fun t => t.halt.state = .stopped) (fun _ => hs)
    (fun h => by simp [hs] at h) (fun h => by simp [hs] at h) fun _ _ => ?_
  rw [(joinEpisode_leaves ..).2.1]
  exact hs

/-- R140: a STOP cause in the set stops the tunnel, by what the set holds in each halt state. -/
theorem stopped_of_hasCause (hf : s.causesFit) {c : Cause} (hstop : c.isStop = true)
    (h : s.hasCause c = true) : s.halt.state = .stopped := by
  obtain ⟨hrunning, hholding⟩ := hf
  unfold State.hasCause at h
  cases hstate : s.halt.state with
  | stopped => rfl
  | running =>
    rw [hrunning hstate] at h
    simp [Set16.has] at h
  | holding =>
    rw [hholding hstate] at h
    revert h hstop
    cases c <;> decide

/-- R140: a raised STOP cause stops the tunnel. -/
theorem raiseCause_stops (hf : s.causesFit) {c : Cause} (hstop : c.isStop = true) (subj : Subject) :
    (raiseCause c subj s).halt.state = .stopped := by
  refine raiseCause_cases (motive := fun t => t.halt.state = .stopped)
    (fun h => stopped_of_hasCause hf hstop h) (fun _ => ?_) (fun _ _ => ?_) (fun h1 h2 => ?_)
  · rw [setHalt_halt, if_pos hstop]
  · rw [setHalt_halt]
  · rw [(joinEpisode_leaves ..).2.1]
    show s.halt.state = .stopped
    cases hstate : s.halt.state with
    | stopped => rfl
    | running => exact absurd hstate h1
    | holding => exact absurd (h2 hstate) (by simp [hstop])

/-- R143: under RUNNING a raised cause opens an episode with its subject. -/
theorem raiseCause_opens (hf : s.causesFit) (hrun : s.halt.state = .running) (c : Cause)
    (subj : Subject) : ∃ ep older, (raiseCause c subj s).halt.history = ep :: older ∧
      ep.first = c ∧ ep.subject = subj ∧ ep.closing = none := by
  have hnone : s.hasCause c = false := by
    simp [State.hasCause, hf.1 hrun, Set16.has]
  refine raiseCause_cases (motive := fun t => ∃ ep older, t.halt.history = ep :: older ∧
      ep.first = c ∧ ep.subject = subj ∧ ep.closing = none)
    (fun h => by simp [hnone] at h) (fun _ => ?_) (fun h => by simp [hrun] at h)
    (fun h => absurd hrun h)
  rw [setHalt_halt]
  exact ⟨_, _, rfl, rfl, rfl, rfl⟩

theorem causesFit_of_stopped (h : s.halt.state = .stopped) : s.causesFit := by
  simp [State.causesFit, h]

/-! ## A change of the roster (R62, R109, R118) -/

theorem testExitBlocked_keepsStop (s : State) : KeepsStop s (testExitBlocked s) := by
  unfold testExitBlocked
  split
  · exact raiseCause_keepsStop ..
  · exact .refl s

theorem testExitBlocked_spares (s : State) : Spares s (testExitBlocked s) := by
  unfold testExitBlocked
  split
  · exact raiseCause_spares ..
  · exact .refl s

theorem testSpacing_keepsStop (s : State) : KeepsStop s (testSpacing s) := by
  unfold testSpacing
  split
  · exact keepsStop_of_halt rfl rfl
  · exact .refl s

theorem Washes.keepsStop (h : Washes s t) : KeepsStop s t :=
  keepsStop_of_halt h.spares.moved h.halt

theorem rosterChanged_keepsStop (s : State) : KeepsStop s (rosterChanged s) :=
  ((testExitBlocked_keepsStop s).trans (evaluate_washes _).keepsStop).trans
    (testSpacing_keepsStop _)

theorem Car.rear_of_sight {c d : Car} (h : c.sight = d.sight) :
    c.rear = d.rear ∧ c.length = d.length := by
  simp only [Car.sight, Prod.mk.injEq] at h
  obtain ⟨-, hfront, hlength, -⟩ := h
  exact ⟨by rw [Car.rear, Car.rear, hlength, hfront], hlength⟩

/-- R62: the gap is read from what the cars show. -/
theorem Spares.gapOpen (h : Spares s t) : t.gapOpen = s.gapOpen := by
  have hnewest : t.newestCar.map Car.sight = s.newestCar.map Car.sight := by
    simp only [State.newestCar, ← List.getLast?_map, h.cars]
  unfold State.gapOpen
  rw [h.settings]
  cases ht : t.newestCar <;> cases hs : s.newestCar <;> simp [ht, hs] at hnewest ⊢
  obtain ⟨hrear, hlength⟩ := Car.rear_of_sight hnewest
  rw [hrear, hlength]

theorem testSpacing_standing (h : s.gate.state ≠ .spacing ∨ s.gapOpen = false) :
    testSpacing s = s := by
  refine if_neg fun ⟨hspacing, hopen⟩ => ?_
  rcases h with h | h
  · exact h hspacing
  · simp [h] at hopen

/-- R62: a change of the roster that opens no gap spares the gate. -/
theorem rosterChanged_spares (hoffer : s.gate.state ≠ .offer)
    (h : s.gate.state ≠ .spacing ∨ s.gapOpen = false) : Spares s (rosterChanged s) := by
  have hquiet : Spares s (evaluate (testExitBlocked s)) :=
    (testExitBlocked_spares s).trans (evaluate_washes _).spares
  have hstand : testSpacing (evaluate (testExitBlocked s)) = evaluate (testExitBlocked s) := by
    apply testSpacing_standing
    rw [hquiet.gate hoffer, hquiet.gapOpen]
    exact h
  rw [rosterChanged, hstand]
  exact hquiet

/-! ## What an event ends with -/

theorem retestDemand_halt (s : State) : (retestDemand s).halt = s.halt := by
  unfold retestDemand evalIfPaceMoved
  split
  · exact testDemand_halt s
  · rw [(evaluate_washes _).halt, testDemand_halt]

theorem retestDemand_spares (s : State) : Spares s (retestDemand s) := by
  unfold retestDemand evalIfPaceMoved
  split
  · exact testDemand_spares s
  · exact (testDemand_spares s).trans (evaluate_washes _).spares

theorem retestDemand_keepsStop (s : State) : KeepsStop s (retestDemand s) :=
  keepsStop_of_halt (retestDemand_spares s).moved (retestDemand_halt s)

theorem testTire_keepsStop (s : State) : KeepsStop s (testTire s) := by
  unfold testTire
  split
  · exact keepsStop_of_halt rfl rfl
  · exact .refl s

theorem enterOffer_keepsStop (s : State) : KeepsStop s (enterOffer s) := by
  unfold enterOffer
  refine KeepsStop.trans ?_ (testTire_keepsStop _)
  exact keepsStop_of_halt rfl rfl

theorem testIdleOnce_keepsStop (s : State) : KeepsStop s (testIdleOnce s) := by
  have hhold : ∀ r n u, KeepsStop u (holdGate r n u) := fun _ _ _ => keepsStop_of_halt rfl rfl
  have htake : ∀ n rest u, KeepsStop u (takeHead n rest u) := fun _ _ _ => keepsStop_of_halt rfl rfl
  have hfree : KeepsStop s { s with conv := { s.conv with parked := false } } :=
    keepsStop_of_halt rfl rfl
  unfold testIdleOnce
  split
  · exact .refl s
  · split
    · exact hhold ..
    · split
      · exact .refl s
      · split
        · exact (htake ..).trans (hhold ..)
        · split
          · split
            · exact (htake ..).trans (enterOffer_keepsStop _)
            · split
              · exact hfree.trans (retestDemand_keepsStop _)
              · exact .refl s
          · exact .refl s

theorem testPark_keepsStop (b s : State) : KeepsStop s (testPark b s) := by
  unfold testPark
  repeat' split
  all_goals exact keepsStop_of_halt rfl rfl

theorem testDrain_keepsStop (s : State) : KeepsStop s (testDrain s) := by
  have hclosed : KeepsStop s (raiseTo .site .closeDone { s with mode := .closed }) :=
    keepsStop_of_halt rfl rfl
  unfold testDrain
  split
  · exact hclosed.trans (retestDemand_keepsStop _)
  · exact .refl s

/-- What an event ends with clears no cause and ends no stop. -/
theorem settle_keepsStop (b s : State) : KeepsStop s (settle b s) :=
  (((testIdleOnce_keepsStop s).trans (testIdleOnce_keepsStop _)).trans
    (testDrain_keepsStop _)).trans (testPark_keepsStop b _)

theorem settleHalted_keepsStop (b s : State) : KeepsStop s (settleHalted b s) := by
  unfold settleHalted
  split
  · exact .refl s
  · exact settle_keepsStop b s

/-- R162: the end of a drain leaves the gate alone. -/
theorem settle_gate (h : testIdle u = u) (b : State) : (settle b u).gate = u.gate := by
  rw [settle, h]
  exact (settleDrain_leaves b u).2.1

/-! ## An eye change at rest (R110) -/

/-- The moved flag is written. -/
def setMoved (b : Bool) (s : State) : State := { s with track := { s.track with moved := b } }

theorem noteMoved_moving (e : Eye) (h : s.conv.state ≠ .stopped ∨ s.halt.state = .running) :
    noteMoved e s = s := by
  unfold noteMoved
  rcases h with h | h <;> simp [h]

theorem noteMoved_stopped (e : Eye) (hconv : s.conv.state = .stopped)
    (h : s.halt.state = .stopped) : noteMoved e s = setMoved true s := by
  simp [noteMoved, hconv, h, setMoved]

theorem noteMoved_holding (e : Eye) (hconv : s.conv.state = .stopped)
    (h : s.halt.state = .holding) :
    noteMoved e s = raiseCause .rosterMoved (.eye e) (setMoved true s) := by
  simp [noteMoved, hconv, h, setMoved]

/-- R110: an eye change leaves the moved flag, or sets it, or sets it with the cause ROSTER_MOVED. -/
theorem noteMoved_cases {motive : State → Prop} {e : Eye} (moving : motive s)
    (stopped : motive (setMoved true s))
    (holding : motive (raiseCause .rosterMoved (.eye e) (setMoved true s))) :
    motive (noteMoved e s) := by
  by_cases hconv : s.conv.state = .stopped
  · cases hstate : s.halt.state with
    | running => rwa [noteMoved_moving e (Or.inr hstate)]
    | stopped => rwa [noteMoved_stopped e hconv hstate]
    | holding => rwa [noteMoved_holding e hconv hstate]
  · rwa [noteMoved_moving e (Or.inl hconv)]

/-- But for the moved flag, an eye change spares what a cause does. -/
theorem noteMoved_spares (e : Eye) (s : State) :
    ∃ b, Spares (setMoved b s) (noteMoved e s) :=
  noteMoved_cases (motive := fun t => ∃ b, Spares (setMoved b s) t) ⟨s.track.moved, .refl s⟩
    ⟨true, .refl _⟩ ⟨true, raiseCause_spares ..⟩

theorem noteMoved_offer (e : Eye) (s : State) :
    ∃ tm, (noteMoved e s).gate = { s.gate with offerTimer := tm } :=
  noteMoved_cases (motive := fun t => ∃ tm, t.gate = { s.gate with offerTimer := tm })
    ⟨s.gate.offerTimer, rfl⟩ ⟨s.gate.offerTimer, rfl⟩ (raiseCause_offer ..)

theorem noteMoved_causesFit (e : Eye) (hf : s.causesFit) : (noteMoved e s).causesFit :=
  noteMoved_cases hf hf
    (causesFit_of_stopped (raiseCause_stops (s := setMoved true s) hf rfl _))

/-- R110: at rest under HOLDING or STOPPED the moved flag is set and the tunnel stopped. -/
theorem noteMoved_rests (e : Eye) (hf : s.causesFit) (hconv : s.conv.state = .stopped)
    (h : s.halt.state ≠ .running) : (noteMoved e s).track.moved = true ∧
      (noteMoved e s).halt.state = .stopped ∧
      (s.halt.state = .holding → (noteMoved e s).hasCause .rosterMoved = true) := by
  cases hstate : s.halt.state with
  | running => exact absurd hstate h
  | stopped =>
    rw [noteMoved_stopped e hconv hstate]
    exact ⟨rfl, hstate, fun h => by simp at h⟩
  | holding =>
    rw [noteMoved_holding e hconv hstate]
    exact ⟨(raiseCause_spares ..).moved, raiseCause_stops (s := setMoved true s) hf rfl _,
      fun _ => (raiseCause_causes ..).1⟩

end Sys2Proof.Machine
end

section
/-! # Lanes, merge and gate: the offer timer, the tire switch and the load (R53 to R55) -/

namespace Sys2Proof.Machine

variable {s : State} {n : Nat}

theorem isRunning_iff {tm : Timer} : tm.isRunning = true ↔ ∃ left, tm = .running left := by
  cases tm <;> simp [Timer.isRunning]

/-! ## The offer timer and the roller (R53, R54) -/

theorem offerExpiry_running {left : Nat} (hoffer : s.gate.state = .offer)
    (hgate : s.gate.atGate = some n) (htimer : s.gate.offerTimer = .running left) :
    offerExpiry s = holdGate .offerExpired n
      { s with gate := { s.gate with offerTimer := .stopped } } := by
  simp [offerExpiry, hoffer, hgate, htimer, Timer.isRunning]

theorem offerExpiry_other (h : s.gate.state ≠ .offer ∨ ∀ left, s.gate.offerTimer ≠ .running left) :
    offerExpiry s = s := by
  refine if_neg fun ⟨hoffer, hruns⟩ => ?_
  obtain ⟨left, hleft⟩ := isRunning_iff.mp hruns
  rcases h with h | h
  · exact h hoffer
  · exact h left hleft

theorem testTire_loads (hoffer : s.gate.state = .offer) (hclosed : s.inputs.tireClosed = true)
    (hrun : s.halt.state = .running) : testTire s = { s with gate := { s.gate with
      state := .loading, offerTimer := .stopped, rollerTimer := .running 50000
      loadCount := 0 } } :=
  if_pos ⟨hoffer, hclosed, hrun⟩

theorem testTire_other (h : s.gate.state ≠ .offer ∨ s.halt.state ≠ .running) : testTire s = s := by
  refine if_neg fun ⟨hoffer, _, hrun⟩ => ?_
  rcases h with h | h
  · exact h hoffer
  · exact h hrun

/-! ## The load distance (R55) -/

theorem loadDue_iff : s.loadDue = true ↔
    s.gate.state = .loading ∧ s.settings.timing.loadDistance < s.gate.loadCount := by
  simp [State.loadDue]

/-- R53: the gate as it offers outside RUNNING, with the timer paused at its full time. -/
def pausedOffer (offerTime : Nat) (g : Gate) : Gate :=
  { g with state := .offer, offerTimer := .paused (offerTime * 100000) }

theorem enterOffer_paused (h : s.halt.state ≠ .running) :
    enterOffer s = { s with gate := pausedOffer s.settings.timing.offerTime s.gate } := by
  rw [enterOffer, if_neg h]
  exact testTire_other (Or.inr h)

theorem testLoadDistance_due (h : s.loadDue = true) (hgate : s.gate.atGate = some n) :
    testLoadDistance s = enterOffer (raiseCause .loadMiss (.ticket n) s) := by
  rw [testLoadDistance, if_pos h, hgate]

theorem testLoadDistance_other (h : s.loadDue = false) : testLoadDistance s = s := by
  simp [testLoadDistance, h]

/-- R55: a missed load stops the tunnel, and the ticket is offered again. -/
theorem testLoadDistance_missed (hf : s.causesFit) (h : s.loadDue = true)
    (hgate : s.gate.atGate = some n) : testLoadDistance s =
      { raiseCause .loadMiss (.ticket n) s with
        gate := pausedOffer s.settings.timing.offerTime s.gate } := by
  have hstopped := raiseCause_stops hf (c := .loadMiss) rfl (.ticket n)
  have hspares := raiseCause_spares .loadMiss (.ticket n) s
  have hstand : s.gate.state ≠ .offer := by simp [(loadDue_iff.mp h).1]
  have hoffer := enterOffer_paused (s := raiseCause .loadMiss (.ticket n) s) (by simp [hstopped])
  have hgate' : pausedOffer (raiseCause .loadMiss (.ticket n) s).settings.timing.offerTime
      (raiseCause .loadMiss (.ticket n) s).gate =
        pausedOffer s.settings.timing.offerTime s.gate := by
    rw [hspares.gate hstand, hspares.settings]
  rw [hgate'] at hoffer
  exact (testLoadDistance_due h hgate).trans hoffer

theorem exec_loadDistancePassed_missed (hf : s.causesFit) (h : s.loadDue = true)
    (hgate : s.gate.atGate = some n) : exec .loadDistancePassed s = done
      { raiseCause .loadMiss (.ticket n) s with
        gate := pausedOffer s.settings.timing.offerTime s.gate } := by
  show done (settleHalted s (testLoadDistance s)) = _
  rw [testLoadDistance_missed hf h hgate, settleHalted_standing]
  · simp [(loadDue_iff.mp h).1]
  · simp [pausedOffer]

theorem goLamp_dark (h : s.halt.state = .stopped) : (drive s).out.goLamp = false := by
  simp [outputsOf, State.goLamp, h]

/-- Settles O31: the expiries and the switch by the gate's state, and the missed load, whose cause
leaves the loading gate to the offer that follows it. -/
theorem offersExpireLoadOrMiss : Obligations.OffersExpireLoadOrMiss := by
  unfold Obligations.OffersExpireLoadOrMiss
  intro s
  refine ⟨fun n left hoffer hgate htimer => congrArg done (offerExpiry_running hoffer hgate htimer),
    fun h => congrArg done (offerExpiry_other h),
    ⟨fun hoffer hrun => congrArg done (testTire_loads hoffer rfl hrun),
      fun h => congrArg done (testTire_other h)⟩, rfl, fun left hleft => ?_,
    fun n hf hload hgate hpassed => ?_, fun h => ?_⟩
  · show done { s with gate := { s.gate with
      rollerTimer := if s.gate.rollerTimer.isRunning then .stopped else s.gate.rollerTimer } } = _
    rw [if_pos (isRunning_iff.mpr ⟨left, hleft⟩)]
  · have hstopped := raiseCause_stops hf (c := .loadMiss) rfl (.ticket n)
    have hexec := exec_loadDistancePassed_missed hf (loadDue_iff.mpr ⟨hload, hpassed⟩) hgate
    refine ⟨_, hexec, hstopped, (raiseCause_causes ..).1, rfl, hgate, rfl, goLamp_dark hstopped,
      fun hrun => raiseCause_opens hf hrun ..⟩
  · have hnot : s.loadDue = false := Bool.eq_false_iff.mpr fun e => by
      obtain ⟨hload, hpassed⟩ := loadDue_iff.mp e
      rcases h with h | h
      · exact h hload
      · omega
    show done (settleHalted s (testLoadDistance s)) = done s
    rw [testLoadDistance_other hnot, settleHalted_sameHalt rfl]

end Sys2Proof.Machine
end

section
/-! # Lanes, merge and gate: the entry eye (R56, R57, R59, R60, R92, R110) -/

namespace Sys2Proof.Machine

variable {s t : State} {n : Nat}

/-! ## The newest car -/

theorem updateNewest_roster {older : List Car} {c : Car} (h : s.track.roster = older ++ [c])
    (f : Car → Car) : (updateNewest f s).track.roster = older ++ [f c] := by
  simp [updateNewest, h]

/-- R60: what the height and width eyes add to a car's flags. -/
def addEyes (i : Inputs) (f : VehicleFlags) : VehicleFlags :=
  { f with tall := f.tall || i.heightEye, wide := f.wide || i.widthEye }

theorem captureFlags_roster {older : List Car} {c : Car} (h : s.track.roster = older ++ [c]) :
    (captureFlags s).track.roster = older ++ [{ c with flags := addEyes s.inputs c.flags }] :=
  updateNewest_roster h _

/-! ## A car that breaks the eye in LOADING (R56, R92) -/

/-- R56: the gate as it begins to measure. -/
def measuringGate (g : Gate) : Gate :=
  { g with state := .measuring, atGate := none, measCount := 0, restoreCount := 0, settleCount := 0
           tailgated := false }

/-- R92: the new car, with the flags of the eyes already broken. -/
def enteringCar (n : Nat) (i : Inputs) : Car :=
  { newCar n with flags := ⟨i.heightEye, i.widthEye, false⟩ }

/-- R56, R92: the ticket rides and its car is measured, before the roster's readers see it. -/
def entered (n : Nat) (s : State) : State :=
  captureFlags { setRoster (s.track.roster ++ [newCar n])
    (updateTicket n (fun t => { t with state := .riding }) s) with gate := measuringGate s.gate }

theorem beginMeasure_eq (n : Nat) (s : State) : beginMeasure n s = rosterChanged (entered n s) := rfl

theorem entered_roster (n : Nat) (s : State) :
    (entered n s).track.roster = s.track.roster ++ [enteringCar n s.inputs] := by
  refine (captureFlags_roster (older := s.track.roster) (c := newCar n) rfl).trans ?_
  simp [addEyes, newCar, enteringCar]

theorem entered_spares (n : Nat) (s : State) : Spares (entered n s) (beginMeasure n s) :=
  rosterChanged_spares (s := entered n s) (by simp [entered, captureFlags, updateNewest, measuringGate])
    (Or.inl (by simp [entered, captureFlags, updateNewest, measuringGate]))

theorem beginMeasure_cars (n : Nat) (s : State) : (beginMeasure n s).track.roster.map Car.sight =
    s.track.roster.map Car.sight ++ [(enteringCar n s.inputs).sight] := by
  rw [(entered_spares n s).cars, entered_roster, List.map_append]
  rfl

theorem beginMeasure_gate (n : Nat) (s : State) :
    (beginMeasure n s).gate = measuringGate s.gate :=
  (entered_spares n s).gate (by simp [entered, captureFlags, updateNewest, measuringGate])

theorem ticket?_beginMeasure (n m : Nat) (s : State) : (beginMeasure n s).ticket? m =
    (updateTicket n (fun t => { t with state := .riding }) s).ticket? m :=
  (entered_spares n s).ticket? m

theorem ticket?_drive (m : Nat) (s : State) : (drive s).ticket? m = s.ticket? m := rfl

/-! ## The measuring count (R57, R59) -/

theorem maxLenDue_iff : s.maxLenDue = true ↔ s.gate.state = .measuring ∧ s.gate.tailgated = false ∧
    s.settings.timing.maxLen + 1 ≤ s.gate.measCount := by
  simp [State.maxLenDue, and_assoc]

/-- R59: the gate of a car that is too long. -/
def tailgatedGate (maxLen : Nat) (g : Gate) : Gate :=
  { g with measCount := maxLen + 1, tailgated := true }

theorem testMaxLen_due (h : s.maxLenDue = true) : testMaxLen s =
    raiseCause .tailgate s.measuredSubject
      { s with gate := tailgatedGate s.settings.timing.maxLen s.gate } := if_pos h

theorem testMaxLen_other (h : s.maxLenDue = false) : testMaxLen s = s := if_neg (by simp [h])

theorem testMaxLen_due_gate (h : s.maxLenDue = true) :
    (testMaxLen s).gate = tailgatedGate s.settings.timing.maxLen s.gate := by
  rw [testMaxLen_due h]
  exact (raiseCause_spares ..).gate (by simp [tailgatedGate, (maxLenDue_iff.mp h).1])

theorem testMaxLen_state (s : State) : (testMaxLen s).gate.state = s.gate.state := by
  cases h : s.maxLenDue with
  | true => rw [testMaxLen_due_gate h]; rfl
  | false => rw [testMaxLen_other h]

/-- R59: TAILGATE stops the tunnel. -/
theorem testMaxLen_due_stops (hf : s.causesFit) (h : s.maxLenDue = true) :
    (testMaxLen s).halt.state = .stopped ∧ (testMaxLen s).hasCause .tailgate = true := by
  rw [testMaxLen_due h]
  exact ⟨raiseCause_stops (s := { s with gate := tailgatedGate s.settings.timing.maxLen s.gate })
    hf rfl _, (raiseCause_causes ..).1⟩

theorem testMaxLen_keepsStop (s : State) : KeepsStop s (testMaxLen s) := by
  cases h : s.maxLenDue with
  | true =>
    rw [testMaxLen_due h]
    refine KeepsStop.trans ?_ (raiseCause_keepsStop ..)
    exact keepsStop_of_halt rfl rfl
  | false =>
    rw [testMaxLen_other h]
    exact .refl s

/-! ## The capture of the flags (R60) -/

theorem testCapture_made (hm : s.gate.state = .measuring) (he : s.inputs.entryEye = true) :
    testCapture s = rosterChanged (captureFlags s) := if_pos ⟨hm, he⟩

theorem testCapture_none (h : s.gate.state ≠ .measuring ∨ s.inputs.entryEye = false) :
    testCapture s = s := by
  refine if_neg fun ⟨hm, he⟩ => ?_
  rcases h with h | h
  · exact h hm
  · simp [h] at he

theorem captureFlags_spares (hm : s.gate.state = .measuring) :
    Spares (captureFlags s) (rosterChanged (captureFlags s)) := by
  have hgate : (captureFlags s).gate.state = .measuring := hm
  exact rosterChanged_spares (by simp [hgate]) (Or.inl (by simp [hgate]))

theorem testCapture_gate (hm : s.gate.state = .measuring) : (testCapture s).gate = s.gate := by
  by_cases he : s.inputs.entryEye = true
  · have hgate : (captureFlags s).gate = s.gate := rfl
    rw [testCapture_made hm he, (captureFlags_spares hm).gate (by simp [hgate, hm]), hgate]
  · rw [testCapture_none (Or.inr (Bool.eq_false_iff.mpr he))]

theorem testCapture_inputs (s : State) : (testCapture s).inputs = s.inputs :=
  congrArg (fun x => x.2.2.2.2.2.1) (reacts_outer (testCapture_reacts s))

theorem testCapture_keepsStop (s : State) : KeepsStop s (testCapture s) := by
  unfold testCapture
  split
  · refine KeepsStop.trans ?_ (rosterChanged_keepsStop _)
    exact keepsStop_of_halt rfl rfl
  · exact .refl s

/-! ## The break of the entry eye, by the gate's state (R56) -/

/-- The entry eye's level is written. -/
def setEntryEye (b : Bool) (s : State) : State :=
  { s with inputs := { s.inputs with entryEye := b } }

/-- R110: the part once the eye's change has been judged for a moved car. -/
def eyeNoted (b : Bool) (s : State) : State := noteMoved .entry (setEntryEye b s)

theorem exec_entryEyeBreak (s : State) :
    exec .entryEyeBreak s = done (settleHalted s (gateEntryBreak (eyeNoted true s))) := rfl

theorem exec_entryEyeRestore (s : State) :
    exec .entryEyeRestore s = done (settleHalted s (gateEntryRestore (eyeNoted false s))) := rfl

theorem eyeNoted_spares (b : Bool) (s : State) :
    ∃ m, Spares (setMoved m (setEntryEye b s)) (eyeNoted b s) := noteMoved_spares ..

theorem eyeNoted_gate (b : Bool) (h : s.gate.state ≠ .offer) : (eyeNoted b s).gate = s.gate := by
  obtain ⟨m, hspares⟩ := eyeNoted_spares b s
  exact hspares.gate h

theorem eyeNoted_causesFit (b : Bool) (hf : s.causesFit) : (eyeNoted b s).causesFit :=
  noteMoved_causesFit (s := setEntryEye b s) .entry hf

theorem gateEntryBreak_loading (h : s.gate.state = .loading) (hn : s.gate.atGate = some n) :
    gateEntryBreak s = beginMeasure n s := by
  simp [gateEntryBreak, h, hn]

theorem gateEntryBreak_measuring (h : s.gate.state = .measuring) :
    gateEntryBreak s = resumeMeasure s := by
  simp [gateEntryBreak, h]

/-- R56: the states in which nothing is awaited at the entry eye. -/
abbrev GateState.Shut (g : GateState) : Prop :=
  g = .idle ∨ g = .offer ∨ g = .spacing ∨ ∃ r, g = .held r

theorem gateEntryBreak_shut (h : s.gate.state.Shut) :
    gateEntryBreak s = raiseCause .entryIntrusion (.eye .entry) s := by
  rcases h with h | h | h | ⟨r, h⟩ <;> simp [gateEntryBreak, h]

theorem gateEntryBreak_keepsStop (s : State) : KeepsStop s (gateEntryBreak s) := by
  unfold gateEntryBreak
  split
  · split
    · rw [beginMeasure_eq]
      refine KeepsStop.trans ?_ (rosterChanged_keepsStop _)
      exact keepsStop_of_halt rfl rfl
    · exact .refl s
  · refine KeepsStop.trans (KeepsStop.trans ?_ (testMaxLen_keepsStop _)) (testCapture_keepsStop _)
    exact keepsStop_of_halt rfl rfl
  all_goals exact raiseCause_keepsStop ..

/-! ## The break in MEASURING (R57, R59) -/

/-- R57: the gate once the restored stretch belongs to the car; after a TAILGATE it joins nothing. -/
def resumedGate (g : Gate) : Gate :=
  { g with
    measCount := if g.tailgated then g.measCount else g.measCount + g.settleCount
    settleCount := 0 }

theorem exec_entryEyeBreak_measuring (hm : s.gate.state = .measuring) : ∃ w,
    exec .entryEyeBreak s = done (testCapture (testMaxLen w)) ∧ w.gate = resumedGate s.gate ∧
      w.settings = s.settings ∧ w.inputs.entryEye = true ∧ (s.causesFit → w.causesFit) := by
  have hgate : (eyeNoted true s).gate = s.gate := eyeNoted_gate true (by simp [hm])
  obtain ⟨m, hspares⟩ := eyeNoted_spares true s
  refine ⟨{ eyeNoted true s with gate := resumedGate s.gate }, ?_, rfl, hspares.settings,
    congrArg Inputs.entryEye hspares.inputs, eyeNoted_causesFit true⟩
  have hresume : gateEntryBreak (eyeNoted true s) =
      testCapture (testMaxLen { eyeNoted true s with gate := resumedGate s.gate }) := by
    rw [gateEntryBreak_measuring (by rw [hgate, hm]), ← hgate]
    rfl
  have hstate : (testMaxLen { eyeNoted true s with gate := resumedGate s.gate }).gate.state =
      .measuring := (testMaxLen_state _).trans hm
  rw [exec_entryEyeBreak, hresume, settleHalted_standing (by simp [hm])]
  rw [testCapture_gate hstate, hstate]
  simp

section
variable (hm : s.gate.state = .measuring)
include hm

/-- R59: a break that leaves the measuring count within MaxLen, or comes after a TAILGATE. -/
theorem entryEyeBreak_resumes (h : s.gate.tailgated = true ∨
    s.gate.measCount + s.gate.settleCount ≤ s.settings.timing.maxLen) :
    ∃ t, exec .entryEyeBreak s = .next t ∧ t.gate = resumedGate s.gate ∧
      t.inputs.entryEye = true := by
  obtain ⟨w, hexec, hgate, hsettings, heye, -⟩ := exec_entryEyeBreak_measuring hm
  have hdue : w.maxLenDue = false := Bool.eq_false_iff.mpr fun e => by
    obtain ⟨-, htail, hlong⟩ := maxLenDue_iff.mp e
    rw [hgate, hsettings] at hlong
    rw [hgate] at htail
    have htail' : s.gate.tailgated = false := htail
    simp only [resumedGate, htail', Bool.false_eq_true, if_false, false_or] at hlong h
    omega
  have hwm : w.gate.state = .measuring := by rw [hgate]; exact hm
  rw [testMaxLen_other hdue] at hexec
  refine ⟨_, hexec, ?_, ?_⟩
  · rw [drive_gate, testCapture_gate hwm, hgate]
  · rw [drive_inputs, testCapture_inputs, heye]

/-- R57, R59: a break that brings the measuring count past MaxLen stops the tunnel. -/
theorem entryEyeBreak_tailgates (hf : s.causesFit) (htail : s.gate.tailgated = false)
    (h : s.settings.timing.maxLen < s.gate.measCount + s.gate.settleCount) :
    ∃ t, exec .entryEyeBreak s = .next t ∧ t.halt.state = .stopped ∧
      t.hasCause .tailgate = true ∧
      t.gate = tailgatedGate s.settings.timing.maxLen (resumedGate s.gate) := by
  obtain ⟨w, hexec, hgate, hsettings, -, hfit⟩ := exec_entryEyeBreak_measuring hm
  have hwm : w.gate.state = .measuring := by rw [hgate]; exact hm
  have hdue : w.maxLenDue = true := by
    refine maxLenDue_iff.mpr ⟨hwm, by rw [hgate]; exact htail, ?_⟩
    rw [hgate, hsettings]
    simpa [resumedGate, htail] using h
  obtain ⟨hstopped, hcause⟩ := testMaxLen_due_stops (hfit hf) hdue
  have hkeeps := testCapture_keepsStop (testMaxLen w)
  refine ⟨_, hexec, hkeeps.stopped hstopped, hkeeps.causes _ hcause, ?_⟩
  rw [drive_gate, testCapture_gate (by rw [testMaxLen_state, hwm]), testMaxLen_due_gate hdue, hgate,
    hsettings]

end

/-! ## The break in the other states (R56, R110) -/

/-- R56, R92: in LOADING the ticket AT_GATE rides, and the gate measures its car. -/
theorem entryEyeBreak_loading {tk : Ticket} (h : s.gate.state = .loading)
    (hn : s.gate.atGate = some n) (htk : s.ticket? n = some tk) :
    ∃ t, exec .entryEyeBreak s = .next t ∧ t.inputs.entryEye = true ∧
      t.track.roster.map Car.sight =
        s.track.roster.map Car.sight ++ [(enteringCar n s.inputs).sight] ∧
      t.ticket? n = some { tk with state := .riding } ∧
      (∀ m, m ≠ n → t.ticket? m = s.ticket? m) ∧ t.gate = measuringGate s.gate := by
  have hgate : (eyeNoted true s).gate = s.gate := eyeNoted_gate true (by simp [h])
  obtain ⟨m, hspares⟩ := eyeNoted_spares true s
  have hinputs : (eyeNoted true s).inputs = { s.inputs with entryEye := true } := hspares.inputs
  have hcars : (eyeNoted true s).track.roster.map Car.sight = s.track.roster.map Car.sight :=
    hspares.cars
  have htickets : ∀ m, (eyeNoted true s).ticket? m = s.ticket? m := hspares.ticket?
  have hexec : exec .entryEyeBreak s = done (beginMeasure n (eyeNoted true s)) := by
    rw [exec_entryEyeBreak, gateEntryBreak_loading (by rw [hgate, h]) (by rw [hgate, hn]),
      settleHalted_standing (by simp [h])]
    rw [beginMeasure_gate]
    simp [measuringGate]
  have hride : ∀ k : Ticket, k.number = n → ({ k with state := .riding } : Ticket).number = n :=
    fun _ hk => hk
  refine ⟨_, hexec, ?_, ?_, ?_, fun m hne => ?_, ?_⟩
  · rw [drive_inputs, (entered_spares ..).inputs]
    exact congrArg Inputs.entryEye hinputs
  · rw [drive_track, beginMeasure_cars, hcars, hinputs]
    rfl
  · rw [ticket?_drive, ticket?_beginMeasure, ticket?_updateTicket_same hride, htickets, htk]
    rfl
  · rw [ticket?_drive, ticket?_beginMeasure, ticket?_updateTicket_other hride hne, htickets]
  · rw [drive_gate, beginMeasure_gate, hgate]

/-- R56: a break that nothing awaits, before what the event ends with. -/
theorem entryEyeBreak_intrudes (hf : s.causesFit) (h : s.gate.state.Shut) : ∃ u,
    exec .entryEyeBreak s = done (settleHalted s u) ∧ u.halt.state = .stopped ∧
      u.hasCause .entryIntrusion = true ∧ (∃ tm, u.gate = { s.gate with offerTimer := tm }) ∧
      (s.gate.state ≠ .offer → u.gate = s.gate) ∧ ∀ m, u.ticket? m = s.ticket? m := by
  obtain ⟨tm, htm⟩ := noteMoved_offer .entry (setEntryEye true s)
  have hgate : (eyeNoted true s).gate = { s.gate with offerTimer := tm } := htm
  obtain ⟨m, hspares⟩ := eyeNoted_spares true s
  have hraise := raiseCause_spares .entryIntrusion (.eye .entry) (eyeNoted true s)
  obtain ⟨tm', htm'⟩ := raiseCause_offer .entryIntrusion (.eye .entry) (eyeNoted true s)
  refine ⟨raiseCause .entryIntrusion (.eye .entry) (eyeNoted true s), ?_,
    raiseCause_stops (eyeNoted_causesFit true hf) rfl _, (raiseCause_causes ..).1,
    ⟨tm', by rw [htm', hgate]⟩, fun hno => ?_, fun m => ?_⟩
  · rw [exec_entryEyeBreak, gateEntryBreak_shut (by rw [hgate]; exact h)]
  · rw [hraise.gate (by rw [hgate]; exact hno), eyeNoted_gate true hno]
  · rw [hraise.ticket?, hspares.ticket?]
    rfl

/-- R52: outside RUNNING an IDLE gate with no flag and no UNPAID head waits. -/
theorem testIdle_waits (hhalt : s.halt.state ≠ .running) (hcheck : s.gate.mergeCheck = false)
    (hpaid : ∀ n rest, s.gate.merge = n :: rest → ¬ s.Unpaid n) : testIdle s = s := by
  by_cases hidle : s.gate.state = .idle
  · exact testIdle_of_once
      (testIdleOnce_unwanted hidle hcheck (fun hw => hhalt hw.2.1) hpaid) (Or.inl rfl)
  · exact testIdle_standing hidle

theorem settleHalted_gate {u : State} (h : testIdle u = u) (b : State) :
    (settleHalted b u).gate = u.gate := by
  unfold settleHalted
  split
  · rfl
  · exact settle_gate h b

theorem settleHalted_inputs (b s : State) : (settleHalted b s).inputs = s.inputs :=
  congrArg (fun x => x.2.2.2.2.2.1) (reacts_outer (settleHalted_reacts b s))

/-! ## The restore (R57, R110) -/

/-- R57: GATE notes the measuring count, and the settle count starts. -/
def restoredGate (g : Gate) : Gate :=
  if g.state = .measuring then { g with restoreCount := g.measCount, settleCount := 0 } else g

theorem gateEntryRestore_eq (s : State) :
    gateEntryRestore s = { s with gate := restoredGate s.gate } := by
  unfold gateEntryRestore restoredGate
  split <;> rfl

/-- R110: unless the restore is a move under HOLDING, it does no more than note the counts. -/
theorem exec_entryEyeRestore_calm (h : s.conv.state ≠ .stopped ∨ s.halt.state ≠ .holding) :
    exec .entryEyeRestore s = done { s with
      inputs := { s.inputs with entryEye := false }
      track := { s.track with moved :=
        if s.conv.state = .stopped ∧ s.halt.state = .stopped then true else s.track.moved }
      gate := restoredGate s.gate } := by
  rw [exec_entryEyeRestore, gateEntryRestore_eq]
  by_cases hrest : s.conv.state = .stopped ∧ s.halt.state = .stopped
  · obtain ⟨hconv, hhalt⟩ := id hrest
    have hnoted : eyeNoted false s = setMoved true (setEntryEye false s) :=
      noteMoved_stopped .entry hconv hhalt
    rw [hnoted, if_pos hrest]
    exact congrArg done (settleHalted_sameHalt rfl)
  · have hmoving : s.conv.state ≠ .stopped ∨ s.halt.state = .running := by
      cases hhalt : s.halt.state with
      | running => exact Or.inr rfl
      | holding => simpa [hhalt] using h
      | stopped => exact Or.inl fun hconv => hrest ⟨hconv, hhalt⟩
    have hnoted : eyeNoted false s = setEntryEye false s :=
      noteMoved_moving (s := setEntryEye false s) .entry hmoving
    rw [hnoted, if_neg hrest]
    exact congrArg done (settleHalted_sameHalt rfl)

/-- Settles O32: the eye's change is first judged for a moved car, which spares the gate; then the
gate's state decides what the break is. -/
theorem entryEyeMeasuresTheCar : Obligations.EntryEyeMeasuresTheCar := by
  unfold Obligations.EntryEyeMeasuresTheCar
  intro s resting
  refine ⟨fun n tk h hn htk => entryEyeBreak_loading h hn htk, fun hm htail hle => ?_,
    fun hf hm htail hlt => ?_, fun hm htail => ?_, fun hf hshut => ?_, fun hf hidle => ?_,
    fun h => exec_entryEyeRestore_calm h, fun hrest hf => ⟨?_, ?_⟩⟩
  · have hgate : resumedGate s.gate = { s.gate with
        measCount := s.gate.measCount + s.gate.settleCount, settleCount := 0 } := by
      simp [resumedGate, htail]
    rw [← hgate]
    exact entryEyeBreak_resumes hm (Or.inr hle)
  · have hgate : tailgatedGate s.settings.timing.maxLen (resumedGate s.gate) = { s.gate with
        measCount := s.settings.timing.maxLen + 1, settleCount := 0, tailgated := true } := rfl
    rw [← hgate]
    exact entryEyeBreak_tailgates hm hf htail hlt
  · have hgate : resumedGate s.gate = { s.gate with settleCount := 0 } := by
      simp [resumedGate, htail]
    obtain ⟨t, hexec, ht, -⟩ := entryEyeBreak_resumes hm (Or.inl htail)
    exact ⟨t, hexec, ht.trans hgate⟩
  · have hstand : s.gate.state ≠ .idle := by
      rcases hshut with h | h | ⟨r, h⟩ <;> simp [h]
    obtain ⟨u, hexec, hstopped, hcause, ⟨tm, hgate⟩, -, -⟩ := entryEyeBreak_intrudes hf (Or.inr hshut)
    rw [settleHalted_standing hstand (by rw [hgate]; exact hstand)] at hexec
    refine ⟨_, hexec, hstopped, hcause, ?_, ?_, ?_⟩ <;> rw [drive_gate, hgate]
  · obtain ⟨u, hexec, hstopped, hcause, -, hsame, htickets⟩ :=
      entryEyeBreak_intrudes hf (Or.inl hidle)
    have hgate : u.gate = s.gate := hsame (by simp [hidle])
    have hkeeps := settleHalted_keepsStop s u
    refine ⟨_, hexec, hkeeps.stopped hstopped, hkeeps.causes _ hcause, fun hcheck hpaid => ?_⟩
    rw [drive_gate, settleHalted_gate (testIdle_waits (by simp [hstopped]) (by rw [hgate, hcheck]) ?_),
      hgate]
    rintro n rest hmerge ⟨tk, htk, hkind⟩
    exact hpaid n rest tk (hgate ▸ hmerge) ((htickets n).symm.trans htk) hkind
  · obtain ⟨hmoved, hstopped, hcause⟩ := noteMoved_rests (s := setEntryEye true s) .entry hf
      hrest.1 hrest.2
    have hkeeps := (gateEntryBreak_keepsStop (eyeNoted true s)).trans (settleHalted_keepsStop s _)
    exact ⟨_, exec_entryEyeBreak s, hkeeps.moved.trans hmoved, hkeeps.stopped hstopped,
      fun hholding => hkeeps.causes _ (hcause hholding)⟩
  · obtain ⟨hmoved, hstopped, hcause⟩ := noteMoved_rests (s := setEntryEye false s) .entry hf
      hrest.1 hrest.2
    have hrestore : KeepsStop (eyeNoted false s) (gateEntryRestore (eyeNoted false s)) := by
      rw [gateEntryRestore_eq]
      exact keepsStop_of_halt rfl rfl
    have hkeeps := hrestore.trans (settleHalted_keepsStop s _)
    obtain ⟨m, hspares⟩ := eyeNoted_spares false s
    refine ⟨_, exec_entryEyeRestore s, ?_, hkeeps.moved.trans hmoved, hkeeps.stopped hstopped,
      fun hholding => hkeeps.causes _ (hcause hholding), fun hm => ?_⟩
    · rw [drive_inputs, settleHalted_inputs, gateEntryRestore_eq]
      exact congrArg Inputs.entryEye hspares.inputs
    · have hgate : (gateEntryRestore (eyeNoted false s)).gate = restoredGate s.gate := by
        rw [gateEntryRestore_eq, eyeNoted_gate false (by simp [hm])]
      have hmeasures : restoredGate s.gate =
          { s.gate with restoreCount := s.gate.measCount, settleCount := 0 } := if_pos hm
      rw [hmeasures] at hgate
      rw [drive_gate, settleHalted_standing (by simp [hm]) (by simp [hgate, hm]), hgate]

end Sys2Proof.Machine
end

section
/-! # Lanes, merge and gate: lengths, flags and the gap (R57 to R60, R62) -/

namespace Sys2Proof.Machine

variable {s t u : State} {older : List Car} {c : Car} {len : Nat} {short : Bool}

/-! ## What a statement reads of a car -/

/-- A car's ticket, front, length and flags. -/
def Car.view (c : Car) : Nat × Nat × Option Nat × VehicleFlags :=
  (c.ticket, c.front, c.length, c.flags)

theorem Car.view_of_sight {c d : Car} (h : c.sight = d.sight) : c.view = d.view := by
  simp only [Car.sight, Prod.mk.injEq] at h
  obtain ⟨hticket, hfront, hlength, hflags, -⟩ := h
  simp only [Car.view, hticket, hfront, hlength, hflags]

theorem view_of_sights {l r : List Car} (h : l.map Car.sight = r.map Car.sight) :
    l.map Car.view = r.map Car.view := by
  have hview : Car.view = (fun x : Nat × Nat × Option Nat × VehicleFlags × Vector Bool 4 × Bool =>
      (x.1, x.2.1, x.2.2.1, x.2.2.2.1)) ∘ Car.sight := rfl
  rw [hview, ← List.map_map, ← List.map_map, h]

/-- The newest car of a spared roster. -/
theorem Spares.newest (h : Spares s t) (hs : s.track.roster = older ++ [c]) : ∃ older' c',
    t.track.roster = older' ++ [c'] ∧ older'.map Car.sight = older.map Car.sight ∧
      c'.sight = c.sight := by
  have hcars := h.cars
  rw [hs, List.map_append] at hcars
  obtain ⟨older', last, hroster, holder, hlast⟩ := List.map_eq_append_iff.mp hcars
  obtain ⟨c', rfl, hc'⟩ := List.map_eq_singleton_iff.mp hlast
  exact ⟨older', c', hroster, holder, hc'⟩

/-- R62: the gap, read from the newest car's front and length. -/
theorem gapOpen_newest {l : List (Nat × Nat × Option Nat)} {n f : Nat}
    (h : s.track.roster.map Car.shape = l ++ [(n, f, some len)]) :
    s.gapOpen = true ↔ (s.settings.timing.minGap : Int) ≤ (f : Int) - (len : Int) := by
  obtain ⟨older, last, hroster, -, hlast⟩ := List.map_eq_append_iff.mp h
  obtain ⟨c, rfl, hc⟩ := List.map_eq_singleton_iff.mp hlast
  simp only [Car.shape, Prod.mk.injEq] at hc
  obtain ⟨-, hfront, hlength⟩ := hc
  simp [State.gapOpen, State.newestCar, hroster, hlength, Car.rear, hfront]

/-! ## A fixed length (R58, R59) -/

/-- R58: the car with its length fixed. -/
def fixedCar (len : Nat) (short : Bool) (c : Car) : Car :=
  { c with length := some len, flags := { c.flags with short := c.flags.short || short } }

/-- R58: the length handed to TRACK, and the gate SPACING, before the roster's readers see it. -/
def lengthFixed (len : Nat) (short : Bool) (s : State) : State :=
  { updateNewest (fixedCar len short) s with
    gate := { s.gate with state := .spacing, tailgated := false } }

section
variable (hroster : s.track.roster = older ++ [c])
  (hgap : (c.front : Int) - (len : Int) < s.settings.timing.minGap)
include hroster hgap

theorem fixLength_spares : Spares (lengthFixed len short s) (fixLength len short s) := by
  have hshapes : (lengthFixed len short s).track.roster.map Car.shape =
      older.map Car.shape ++ [(c.ticket, c.front, some len)] := by
    rw [show (lengthFixed len short s).track.roster = older ++ [fixedCar len short c] from
      updateNewest_roster hroster _, List.map_append]
    rfl
  refine rosterChanged_spares (s := lengthFixed len short s) (by simp [lengthFixed]) (Or.inr ?_)
  refine Bool.eq_false_iff.mpr fun hopen => ?_
  have := (gapOpen_newest hshapes).mp hopen
  exact absurd hgap (Int.not_lt.mpr this)

/-- R58, R62: with the gap closed the gate waits in SPACING. -/
theorem fixLength_gate : (fixLength len short s).gate =
    { s.gate with state := .spacing, tailgated := false } :=
  (fixLength_spares hroster hgap).gate (by simp [lengthFixed])

theorem fixLength_view : (fixLength len short s).track.roster.map Car.view =
    older.map Car.view ++ [(fixedCar len short c).view] := by
  rw [view_of_sights (fixLength_spares hroster hgap).cars]
  rw [show (lengthFixed len short s).track.roster = older ++ [fixedCar len short c] from
    updateNewest_roster hroster _, List.map_append]
  rfl

end

/-! ## Settle and MaxLen (R57 to R59) -/

theorem settleDue_iff : s.settleDue = true ↔ s.gate.state = .measuring ∧
    s.gate.tailgated = false ∧ s.inputs.entryEye = false ∧
    s.settings.timing.settle ≤ s.gate.settleCount := by
  simp [State.settleDue, and_assoc]

/-- R58: a car is SHORT when its count at restore lies below MinLen. -/
def State.measuredShort (s : State) : Bool :=
  decide (s.gate.restoreCount < s.settings.timing.minLen)

/-- R58: the length that settle fixes. -/
def State.measuredLength (s : State) : Nat :=
  if s.measuredShort then s.settings.timing.minLen else s.gate.restoreCount

theorem testSettled_due (h : s.settleDue = true) :
    testSettled s = fixLength s.measuredLength s.measuredShort s := by
  by_cases hshort : s.gate.restoreCount < s.settings.timing.minLen
  · simp [testSettled, h, State.measuredLength, State.measuredShort, hshort, Nat.not_le.mpr hshort]
  · simp [testSettled, h, State.measuredLength, State.measuredShort, hshort, Nat.not_lt.mp hshort]

/-- R57, R58: the settle count at Settle. -/
theorem settleReached_fixes (hroster : s.track.roster = older ++ [c]) (h : s.settleDue = true)
    (hgap : (c.front : Int) - (s.measuredLength : Int) < s.settings.timing.minGap) :
    ∃ t, exec .settleReached s = .next t ∧ t.gate.state = .spacing ∧
      t.track.roster.map Car.view =
        older.map Car.view ++ [(fixedCar s.measuredLength s.measuredShort c).view] := by
  have hgate := fixLength_gate (short := s.measuredShort) hroster hgap
  have hexec : exec .settleReached s =
      done (settle s (fixLength s.measuredLength s.measuredShort s)) := by
    rw [← testSettled_due h]
    exact congrArg done (if_pos h)
  rw [settle_standing (by simp [(settleDue_iff.mp h).1]) (by simp [hgate])] at hexec
  refine ⟨_, hexec, by rw [drive_gate, hgate], ?_⟩
  rw [drive_track]
  exact fixLength_view hroster hgap

/-- R59: the measuring count past MaxLen. -/
theorem maxLenReached_tailgates (hf : s.causesFit) (h : s.maxLenDue = true) :
    ∃ t, exec .maxLenReached s = .next t ∧ t.halt.state = .stopped ∧
      t.hasCause .tailgate = true ∧ t.gate = tailgatedGate s.settings.timing.maxLen s.gate ∧
      (∀ older c, s.track.roster = older ++ [c] → s.halt.state = .running → ∃ ep rest,
        t.halt.history = ep :: rest ∧ ep.first = .tailgate ∧ ep.subject = .ticket c.ticket) := by
  have hm := (maxLenDue_iff.mp h).1
  obtain ⟨hstopped, hcause⟩ := testMaxLen_due_stops hf h
  have hgate := testMaxLen_due_gate h
  have hexec : exec .maxLenReached s = done (settleHalted s (testMaxLen s)) := rfl
  rw [settleHalted_standing (by simp [hm]) (by rw [testMaxLen_state]; simp [hm])] at hexec
  refine ⟨_, hexec, hstopped, hcause, hgate, fun older c hroster hrun => ?_⟩
  have hsubject : s.measuredSubject = .ticket c.ticket := by
    simp [State.measuredSubject, State.newestCar, hroster]
  rw [drive_halt, testMaxLen_due h, hsubject]
  obtain ⟨ep, rest, hhistory, hfirst, hsubj, -⟩ := raiseCause_opens
    (s := { s with gate := tailgatedGate s.settings.timing.maxLen s.gate }) hf hrun .tailgate
    (.ticket c.ticket)
  exact ⟨ep, rest, hhistory, hfirst, hsubj⟩

/-! ## The RESUME that ends a TAILGATE stop (R59, R150, R151) -/

theorem resumeRefusal_eq_none (hstop : s.halt.state = .stopped) (hmoved : s.track.moved = false)
    (hchain : s.inputs.chainClosed = true) (hdrive : s.inputs.driveFault = false)
    (hstuck : s.hasCause .armStuck = false) : s.resumeRefusal = none := by
  simp [State.resumeRefusal, hstop, hmoved, hchain, hdrive, hstuck]

theorem resumeRequest_carried (h : s.resumeRefusal = none) : resumeRequest s =
    (okWith (u8 s.episodeNumber ++ u8 s.resumeTo.code), carryOutResume s) := by
  simp [resumeRequest, h]

/-- R151: the part as a RESUME that is carried out leads it out of the stop, before the length of a
tailgated car is fixed. -/
def ledOut (s : State) : State :=
  setHalt s.resumeTo
    (if s.resumeTo = .running then
      closeEpisode .console { endJog s with halt := { s.halt with causes := s.heldCauses } }
    else { endJog s with halt := { s.halt with causes := s.heldCauses } })

theorem carryOutResume_eq (s : State) :
    carryOutResume s = settle s (fixTailgated (ledOut s)) := rfl

theorem ledOut_spares (s : State) : Spares s (ledOut s) := by
  have hcleared : Spares s { endJog s with halt := { s.halt with causes := s.heldCauses } } :=
    ⟨rfl, rfl, rfl, rfl, rfl, rfl, fun _ => rfl⟩
  unfold ledOut
  refine Spares.trans ?_ (setHalt_spares ..)
  split
  · exact hcleared.trans (closeEpisode_spares ..)
  · exact hcleared

/-- R59: a RESUME fixes the length of a tailgated car at MaxLen, without SHORT. -/
theorem carryOutResume_tailgated (hroster : s.track.roster = older ++ [c])
    (hm : s.gate.state = .measuring) (htail : s.gate.tailgated = true)
    (hgap : (c.front : Int) - (s.settings.timing.maxLen : Int) < s.settings.timing.minGap) :
    (carryOutResume s).gate = { s.gate with state := .spacing, tailgated := false } ∧
      (carryOutResume s).track.roster.map Car.view =
        older.map Car.view ++ [(fixedCar s.settings.timing.maxLen false c).view] := by
  have hspares := ledOut_spares s
  have hgate : (ledOut s).gate = s.gate := hspares.gate (by simp [hm])
  obtain ⟨older', c', hroster', holder, hc⟩ := hspares.newest hroster
  have hview := Car.view_of_sight hc
  simp only [Car.view, Prod.mk.injEq] at hview
  obtain ⟨hticket, hfront, -, hflags⟩ := hview
  have hgap' : (c'.front : Int) - (s.settings.timing.maxLen : Int) <
      (ledOut s).settings.timing.minGap := by
    rw [hfront, hspares.settings]
    exact hgap
  have hfix : fixTailgated (ledOut s) = fixLength s.settings.timing.maxLen false (ledOut s) := by
    rw [fixTailgated, if_pos (by rw [hgate]; exact ⟨hm, htail⟩), hspares.settings]
  have hfixed := fixLength_gate (short := false) hroster' hgap'
  rw [hgate] at hfixed
  rw [carryOutResume_eq, hfix, settle_standing (by simp [hm]) (by simp [hfixed])]
  refine ⟨hfixed, ?_⟩
  rw [fixLength_view hroster' hgap', view_of_sights holder]
  simp only [Car.view, fixedCar, hticket, hfront, hflags]

/-! ## A pulse in SPACING (R62) -/

/-- What GATE's test in SPACING reads of a part without an offer: the gate, the shapes of the cars,
and MinGap. -/
structure SameGap (s t : State) : Prop where
  gate : t.gate = s.gate
  shapes : t.track.roster.map Car.shape = s.track.roster.map Car.shape
  settings : t.settings = s.settings

theorem SameGap.trans (h : SameGap s t) (k : SameGap t u) : SameGap s u :=
  ⟨k.gate.trans h.gate, k.shapes.trans h.shapes, k.settings.trans h.settings⟩

theorem Spares.sameGap (h : Spares s t) (hoffer : s.gate.state ≠ .offer) : SameGap s t := by
  have hshape : Car.shape = (fun x : Nat × Nat × Option Nat × VehicleFlags × Vector Bool 4 × Bool =>
      (x.1, x.2.1, x.2.2.1)) ∘ Car.sight := rfl
  refine ⟨h.gate hoffer, ?_, h.settings⟩
  rw [hshape, ← List.map_map, ← List.map_map, h.cars]

/-- R103: the roster with the marks of the slipping cars written. -/
def slipsMarked (s : State) : State := setRoster (s.track.roster.map s.markSlips) s

/-- R103: once the marks are written, the slip test only raises causes. -/
theorem testSlip_spares (s : State) : Spares (slipsMarked s) (testSlip s) := by
  have hraises := Spares.foldl
    (f := fun (s' : State) (c : Car) => raiseCause .slip (.ticket c.ticket) s')
    (fun s' c => raiseCause_spares .slip (.ticket c.ticket) s') (s.track.roster.filter s.slips)
    (slipsMarked s)
  unfold testSlip
  exact hraises

theorem testSlip_sameGap (hoffer : s.gate.state ≠ .offer) : SameGap s (testSlip s) := by
  have hmarks : SameGap s (slipsMarked s) :=
    ⟨rfl, by simp [slipsMarked, Function.comp_def, markSlips_shape], rfl⟩
  exact hmarks.trans ((testSlip_spares s).sameGap hoffer)

/-- R94: every car but one at the position limit advances by one. -/
def advancedCar (c : Car) : Car :=
  if c.front < Config.frontMax then { c with front := c.front + 1 } else c

/-- R94: TRACK's part of a pulse, with no car at the position limit and the exit eye broken. -/
theorem trackPulse_sameGap (hoffer : s.gate.state ≠ .offer) (heye : s.inputs.exitEye = true)
    (hlimit : ∀ x ∈ s.track.roster, x.front < 16383) :
    SameGap (setRoster (s.track.roster.map advancedCar) s) (trackPulse s) := by
  have hnone : s.track.roster.filter (fun c => Config.frontMax ≤ c.front) = [] :=
    List.filter_eq_nil_iff.mpr fun x hx e =>
      absurd (hlimit x hx) (Nat.not_lt.mpr (of_decide_eq_true e))
  have hslip := testSlip_sameGap (s := setRoster (s.track.roster.map advancedCar) s) hoffer
  have heye' : (testSlip (setRoster (s.track.roster.map advancedCar) s)).inputs.exitEye = true  := by
    rw [(testSlip_spares _).inputs]
    exact heye
  have htrack : trackPulse s =
      testExitBlocked (testSlip (setRoster (s.track.roster.map advancedCar) s)) := by
    simp only [trackPulse, hnone, List.map_nil, List.foldl_nil]
    exact congrArg testExitBlocked (if_pos heye')
  rw [htrack]
  exact hslip.trans ((testExitBlocked_spares _).sameGap (by rw [hslip.gate]; exact hoffer))

theorem convPulse_leaves (s : State) : (convPulse s).gate = s.gate ∧
    (convPulse s).track = s.track ∧ (convPulse s).settings = s.settings ∧
    (convPulse s).inputs = s.inputs := by
  unfold convPulse recordPulse
  dsimp only
  split <;> (try split) <;> exact ⟨rfl, rfl, rfl, rfl⟩

/-- The part as a pulse brings it to the gate. -/
def pulseAtGate (elapsed : Nat) (s : State) : State :=
  evaluate (trackPulse (convPulse (advance elapsed s)))

theorem exec_encoderPulse (elapsed : Nat) (s : State) :
    exec (.encoderPulse elapsed) s = done (settle s (gatePulse (pulseAtGate elapsed s))) := rfl

section
variable (hspacing : s.gate.state = .spacing) (heye : s.inputs.exitEye = true)
  (hlimit : ∀ x ∈ s.track.roster, x.front < 16383) (elapsed : Nat)
include hspacing heye hlimit

theorem pulseAtGate_spacing : (pulseAtGate elapsed s).gate = (advance elapsed s).gate ∧
    (pulseAtGate elapsed s).track.roster.map Car.shape =
      (s.track.roster.map advancedCar).map Car.shape ∧
    (pulseAtGate elapsed s).settings = s.settings := by
  obtain ⟨hgate, htrack, hsettings, hinputs⟩ := convPulse_leaves (advance elapsed s)
  have hoffer : (convPulse (advance elapsed s)).gate.state ≠ .offer := by
    rw [hgate]
    simp [advance, hspacing]
  have hpulse := trackPulse_sameGap hoffer (by rw [hinputs]; exact heye)
    (by rw [htrack]; exact hlimit)
  have hoffer' : (trackPulse (convPulse (advance elapsed s))).gate.state ≠ .offer := by
    rw [hpulse.gate]
    exact hoffer
  have heval := (evaluate_washes (trackPulse (convPulse (advance elapsed s)))).spares
  have hall := hpulse.trans (heval.sameGap hoffer')
  unfold pulseAtGate
  refine ⟨?_, ?_, ?_⟩
  · rw [hall.gate, setRoster_gate, hgate]
  · rw [hall.shapes, setRoster_roster, htrack]
    rfl
  · rw [hall.settings, setRoster_settings, hsettings]
    rfl

/-- R62: on a pulse the gate tests the gap that the advanced newest car leaves. -/
theorem gapOpen_pulse (hroster : s.track.roster = older ++ [c]) (hlen : c.length = some len) :
    (pulseAtGate elapsed s).gapOpen = true ↔
      (s.settings.timing.minGap : Int) ≤ (c.front : Int) + 1 - (len : Int) := by
  obtain ⟨-, hshapes, hsettings⟩ := pulseAtGate_spacing hspacing heye hlimit elapsed
  have hfront : c.front < Config.frontMax := hlimit c (by simp [hroster])
  have hlast : (advancedCar c).shape = (c.ticket, c.front + 1, some len) := by
    simp [advancedCar, hfront, Car.shape, hlen]
  have hnewest : (pulseAtGate elapsed s).track.roster.map Car.shape =
      (older.map advancedCar).map Car.shape ++ [(c.ticket, c.front + 1, some len)] := by
    rw [hshapes, hroster, List.map_append, List.map_append, ← hlast]
    rfl
  rw [gapOpen_newest hnewest, hsettings]
  omega

end

theorem retestDemand_gate (s : State) : (retestDemand s).gate = s.gate :=
  congrArg (fun x => x.2.1) (retestDemand_dealings s)

theorem testTire_state (s : State) :
    (testTire s).gate.state = s.gate.state ∨ (testTire s).gate.state = .loading := by
  unfold testTire
  split
  · exact Or.inr rfl
  · exact Or.inl rfl

theorem enterOffer_not_spacing (s : State) : (enterOffer s).gate.state ≠ .spacing := by
  rw [enterOffer]
  rcases testTire_state { s with gate := { s.gate with
    state := .offer
    offerTimer := if s.halt.state = .running then Timer.seconds s.settings.timing.offerTime
      else (Timer.seconds s.settings.timing.offerTime).pause } } with h | h <;> rw [h] <;> simp

/-- R51, R52: the tests in IDLE lead to no SPACING. -/
theorem testIdleOnce_not_spacing (h : s.gate.state ≠ .spacing) :
    (testIdleOnce s).gate.state ≠ .spacing := by
  unfold testIdleOnce
  split
  · exact h
  · split
    · simp [holdGate]
    · split
      · exact h
      · split
        · simp [holdGate]
        · split
          · split
            · exact enterOffer_not_spacing _
            · split
              · rw [retestDemand_gate]
                exact h
              · exact h
          · exact h

theorem settle_not_spacing (h : u.gate.state ≠ .spacing) (b : State) :
    (settle b u).gate.state ≠ .spacing := by
  rw [settle, (settleDrain_leaves b _).2.1]
  exact testIdleOnce_not_spacing (testIdleOnce_not_spacing h)

/-- R62: a pulse in SPACING. -/
theorem encoderPulse_spacing (elapsed : Nat) (hspacing : s.gate.state = .spacing)
    (hroster : s.track.roster = older ++ [c]) (hlen : c.length = some len)
    (heye : s.inputs.exitEye = true) (hlimit : ∀ x ∈ s.track.roster, x.front < 16383) :
    ∃ t, exec (.encoderPulse elapsed) s = .next t ∧
      ((c.front : Int) + 1 - (len : Int) < s.settings.timing.minGap → t.gate.state = .spacing) ∧
      ((s.settings.timing.minGap : Int) ≤ (c.front : Int) + 1 - (len : Int) →
        t.gate.state ≠ .spacing ∧
        (s.gate.merge = [] → s.gate.mergeCheck = false → t.gate.state = .idle)) := by
  obtain ⟨hgate, -, -⟩ := pulseAtGate_spacing hspacing heye hlimit elapsed
  have hgap := gapOpen_pulse hspacing heye hlimit elapsed hroster hlen
  have hstate : (pulseAtGate elapsed s).gate.state = .spacing := by
    rw [hgate]
    exact hspacing
  have htest : gatePulse (pulseAtGate elapsed s) = testSpacing (pulseAtGate elapsed s) := by
    simp [gatePulse, hstate]
  refine ⟨_, exec_encoderPulse elapsed s, fun hclosed => ?_, fun hopen => ?_⟩
  · have hshut : (pulseAtGate elapsed s).gapOpen = false :=
      Bool.eq_false_iff.mpr fun e => absurd (hgap.mp e) (Int.not_le.mpr hclosed)
    rw [drive_gate, htest, testSpacing_standing (Or.inr hshut),
      settle_standing (by simp [hspacing]) (by simp [hstate]), hstate]
  · have hidle : testSpacing (pulseAtGate elapsed s) = { pulseAtGate elapsed s with
        gate := { (pulseAtGate elapsed s).gate with state := .idle } } :=
      if_pos ⟨hstate, hgap.mpr hopen⟩
    rw [drive_gate, htest, hidle]
    refine ⟨settle_not_spacing (by simp) s, fun hmerge hcheck => ?_⟩
    rw [settle_gate]
    refine testIdle_of_once (testIdleOnce_unwanted rfl ?_ ?_ ?_) (Or.inl rfl)
    · rw [hgate]
      exact hcheck
    · rintro ⟨-, -, -, ⟨n, rest, hm, -⟩, -⟩
      rw [hgate] at hm
      simp [advance, hmerge] at hm
    · intro n rest hm
      rw [hgate] at hm
      simp [advance, hmerge] at hm

/-! ## The height and width eyes (R60) -/

/-- R60: the capture at a level change, while the gate measures with the entry eye broken. -/
theorem capture_view (i : Inputs) (hroster : s.track.roster = older ++ [c])
    (hm : s.gate.state = .measuring) (hentry : i.entryEye = true) :
    ∃ t, done (settleHalted s (testCapture { s with inputs := i })) = .next t ∧ t.inputs = i ∧
      t.track.roster.map Car.view =
        older.map Car.view ++ [(c.ticket, c.front, c.length, addEyes i c.flags)] := by
  have hgate := testCapture_gate (s := { s with inputs := i }) hm
  have hcars := (captureFlags_spares (s := { s with inputs := i }) hm).cars
  rw [settleHalted_standing (by simp [hm]) (by rw [hgate]; simp [hm])]
  refine ⟨_, rfl, testCapture_inputs _, ?_⟩
  rw [drive_track, testCapture_made (s := { s with inputs := i }) hm hentry, view_of_sights hcars,
    captureFlags_roster (s := { s with inputs := i }) hroster, List.map_append]
  rfl

/-- R60: otherwise only the level changes. -/
theorem capture_none (i : Inputs) (h : s.gate.state ≠ .measuring ∨ i.entryEye = false) :
    settleHalted s (testCapture { s with inputs := i }) = { s with inputs := i } := by
  rw [testCapture_none (s := { s with inputs := i }) h]
  exact settleHalted_sameHalt rfl

/-- Settles O33: settle, MaxLen and RESUME fix a length and leave the gate SPACING with the gap
closed; a pulse there tests the gap; and a capture spares everything but the newest car's flags. -/
theorem measuringFixesLengthAndFlags : Obligations.MeasuringFixesLengthAndFlags := by
  unfold Obligations.MeasuringFixesLengthAndFlags
  intro s view
  refine ⟨fun older c hroster hm htail hentry hsettle hgap => ?_,
    fun hf hm htail hlong => maxLenReached_tailgates hf (maxLenDue_iff.mpr ⟨hm, htail, hlong⟩),
    fun tag older c htakes hmode hstop hmoved hchain hdrive hstuck hroster hm htail hgap => ?_,
    fun elapsed older c l hspacing hroster hlen heye hlimit => ?_,
    fun older c hroster hm hentry => ⟨?_, ?_⟩,
    fun h => ⟨congrArg done (capture_none _ h), congrArg done (capture_none _ h)⟩, rfl, rfl⟩
  · exact settleReached_fixes hroster (settleDue_iff.mpr ⟨hm, htail, hentry, hsettle⟩) hgap
  · obtain ⟨hgate, hview⟩ := carryOutResume_tailgated (s := hunt .console s) hroster hm htail hgap
    have hcarried := resumeRequest_carried (s := hunt .console s)
      (resumeRefusal_eq_none hstop hmoved hchain hdrive hstuck)
    have hexec := request_ok (k := .resume) (tag := tag) (body := []) htakes rfl rfl (Or.inl hmode) hcarried
    refine ⟨_, hexec, ?_, ?_, ?_⟩
    · rw [drive_gate, setRequest_gate, hgate]
    · rw [drive_gate, setRequest_gate, hgate]
    · rw [drive_track, setRequest_track]
      refine Eq.trans hview ?_
      simp [fixedCar, Car.view, view]
  · cases hlength : c.length with
    | none => simp [hlength] at hlen
    | some n =>
      obtain rfl : (n : Int) = l := by simpa [hlength] using hlen
      exact encoderPulse_spacing elapsed hspacing hroster hlength heye hlimit
  · obtain ⟨t, hexec, hinputs, hflags⟩ := capture_view
      { s.inputs with heightEye := true } hroster hm hentry
    refine ⟨t, hexec, by rw [hinputs], hflags.trans ?_⟩
    simp [addEyes, view, Car.view]
  · obtain ⟨t, hexec, hinputs, hflags⟩ := capture_view
      { s.inputs with widthEye := true } hroster hm hentry
    refine ⟨t, hexec, by rw [hinputs], hflags.trans ?_⟩
    simp [addEyes, view, Car.view]

end Sys2Proof.Machine
end

section
/-! # Lanes, merge and gate: PLACE and GATE DECIDE (R48, R63 to R67) -/

namespace Sys2Proof.Machine

variable {s u : State} {n m : Nat} {b : List Byte}

/-! ## PLACE (R48) -/

/-- R43, R47: a ticket leaves its lane queue for the tail of the merge queue. -/
def placed (n : Nat) (s : State) : State :=
  { updateTicket n (fun t => { t with state := .merged }) s with gate := { s.gate with
    laneQueues := s.gate.laneQueues.map (fun q => q.filter (fun x => x ≠ n))
    merge := s.gate.merge ++ [n] } }

section
variable {tk : Ticket} (hn : wordAt b 0 = n) (htk : s.ticket? n = some tk)
  (hqueued : tk.state = .laneQueued)
include hn htk hqueued

theorem placeRequest_full (hfull : s.mergeFull = true) :
    placeRequest b s = (refuse .full, s) := by
  simp [placeRequest, hn, htk, hqueued, hfull]

theorem placeRequest_ok (hroom : s.mergeFull = false) :
    placeRequest b s = (okWith (u16 n), settle s (placed n s)) := by
  simp [placeRequest, hn, htk, hqueued, hroom, vmap_eq_map, placed, joinMergeTail, updateTicket]

end

theorem placeRequest_notFound (hn : wordAt b 0 = n)
    (h : ∀ t, s.ticket? n = some t → t.state ≠ .laneQueued) :
    placeRequest b s = (refuse .notFound, s) := by
  cases htk : s.ticket? n with
  | none => simp [placeRequest, hn, htk]
  | some tk => simp [placeRequest, hn, htk, h tk htk]

/-- R48: PLACE at a console port that takes its frame. -/
theorem exec_place {tag : Byte} (hn : n < 65536) (ht : s.takes .console) (hm : s.mode ≠ .lockout) :
    (∀ t, s.ticket? n = some t → t.state = .laneQueued →
      (s.mergeFull = true → exec (.place .console tag (u16 n)) s =
        answered .console 0x25 tag .full [] (hunt .console s)) ∧
      (s.mergeFull = false → exec (.place .console tag (u16 n)) s =
        answered .console 0x25 tag .ok (u16 n)
          (settle (hunt .console s) (placed n (hunt .console s))))) ∧
    ((∀ t, s.ticket? n = some t → t.state ≠ .laneQueued) →
      exec (.place .console tag (u16 n)) s =
        answered .console 0x25 tag .notFound [] (hunt .console s)) := by
  have hword : wordAt (u16 n) 0 = n := wordAt_code hn
  refine ⟨fun t htk hq => ⟨fun hfull => ?_, fun hroom => ?_⟩, fun h => ?_⟩
  · exact request_refused (k := .place) ht rfl rfl (Or.inl hm)
      (placeRequest_full (s := hunt .console s) hword htk hq hfull)
  · exact request_ok (k := .place) ht rfl rfl (Or.inl hm)
      (placeRequest_ok (s := hunt .console s) hword htk hq hroom)
  · exact request_refused (k := .place) ht rfl rfl (Or.inl hm)
      (placeRequest_notFound (s := hunt .console s) hword h)

/-! ## GATE DECIDE as a request (R63, R189) -/

section
variable {tag d row : Byte} (ht : s.takes .console) (hm : s.mode ≠ .lockout)
include ht hm

theorem gateDecide_refused {st : Status}
    (h : gateDecideRequest [d, row] (hunt .console s) = (refuse st, hunt .console s)) :
    request .gateDecide .console tag [d, row] s =
      answered .console 0x24 tag st [] (hunt .console s) :=
  request_refused (k := .gateDecide) ht rfl rfl (Or.inl hm) h

/-- R63: a decision that is carried out leaves the gate IDLE, where its tests apply. -/
theorem gateDecide_decided {results : List Byte}
    (h : gateDecideRequest [d, row] (hunt .console s) =
      decided (hunt .console s) (okWith results) u) :
    request .gateDecide .console tag [d, row] s = answered .console 0x24 tag .ok results
      (settle (hunt .console s) { u with gate := { u.gate with state := .idle } }) :=
  request_ok (k := .gateDecide) ht rfl rfl (Or.inl hm) h

end

theorem gateDecideRequest_outOfRange (h : 3 < byteAt b 0) :
    gateDecideRequest b s = (refuse .outOfRange, s) := by
  unfold gateDecideRequest
  match byteAt b 0, h with
  | _ + 4, _ => rfl

/-! ## RETRY, WAVE and REMOVE (R64, R65, R67) -/

section
variable (hg : s.gate.state = .held .offerExpired) (ha : s.gate.atGate = some n)
include hg ha

theorem decideRetry_expired :
    decideRetry s = decided s (okWith (u16 n)) (returnToMergeHead n s) := by
  simp [decideRetry, hg, ha]

end

theorem decideRetry_mergeCheck (hg : s.gate.state = .held .mergeCheck) : decideRetry s =
    decided s (okWith (u16 (s.gate.merge.headD 0))) (clearMergeCheck s) := by
  simp [decideRetry, hg]

theorem decideRetry_wrong (h : s.gate.state ≠ .held .offerExpired)
    (h' : s.gate.state ≠ .held .mergeCheck) : decideRetry s = (refuse .wrongState, s) := by
  unfold decideRetry
  split
  · next e => exact absurd e h
  · next e => exact absurd e h'
  all_goals rfl

/-- R65: what a placeholder becomes when it is waved through as a free ticket of row w. -/
def wavedTicket (w : Row) (r : CatRow) (t : Ticket) : Ticket :=
  { t with kind := .waved, state := .merged, baseRow := some w, features := r.features
           cap := r.cap, price := 0 }

/-- Two rewritings of one ticket that keep its number are one. -/
theorem updateTicket_updateTicket {f g : Ticket → Ticket} (hf : ∀ t, (f t).number = t.number)
    (s : State) : updateTicket n g (updateTicket n f s) = updateTicket n (fun t => g (f t)) s := by
  unfold updateTicket
  simp only [vmap_eq_map, Vector.map_map, Function.comp_def, Option.map_map]
  congr 3
  funext o
  congr 1
  funext t
  by_cases h : t.number = n <;> simp [h, hf]

/-- R65: a ticket rewritten and then returned to the merge head is rewritten once, as MERGED. -/
theorem returnToMergeHead_updateTicket {f : Ticket → Ticket} (hf : ∀ t, (f t).number = t.number)
    (n : Nat) (s : State) : returnToMergeHead n (updateTicket n f s) =
      { updateTicket n (fun t => { f t with state := .merged }) s with
        gate := { s.gate with merge := n :: s.gate.merge, atGate := none } } :=
  congrArg (fun u : State => { u with
    gate := { s.gate with merge := n :: s.gate.merge, atGate := none } })
    (updateTicket_updateTicket (g := fun t => { t with state := .merged }) hf s)

/-- R65: the same ticket before it is returned. -/
def freedTicket (w : Row) (r : CatRow) (t : Ticket) : Ticket :=
  { t with kind := .waved, baseRow := some w, features := r.features, cap := r.cap, price := 0 }

theorem decideWave_unpaid (hg : s.gate.state = .held .unpaid) (ha : s.gate.atGate = some n) :
    decideWave s = decided s (okWith (u16 n))
      { updateTicket n (wavedTicket s.settings.timing.waveRow (s.row s.settings.timing.waveRow)) s with
        gate := { s.gate with merge := n :: s.gate.merge, atGate := none } } := by
  have hwave : decideWave s = decided s (okWith (u16 n)) (returnToMergeHead n (updateTicket n
      (freedTicket s.settings.timing.waveRow (s.row s.settings.timing.waveRow)) s)) := by
    simp only [decideWave, hg, ha]
    rfl
  exact hwave.trans (congrArg (decided s (okWith (u16 n)))
    (returnToMergeHead_updateTicket
      (f := freedTicket s.settings.timing.waveRow (s.row s.settings.timing.waveRow))
      (fun _ => rfl) n s))

theorem decideWave_wrong (h : s.gate.state ≠ .held .unpaid) :
    decideWave s = (refuse .wrongState, s) := by
  unfold decideWave
  split
  · next e => exact absurd e h
  all_goals rfl

theorem decideRemove_atGate (hg : s.gate.state = .held .unpaid ∨ s.gate.state = .held .offerExpired)
    (ha : s.gate.atGate = some n) : decideRemove s = decided s (okWith (u16 n))
      (retireTicket n .removed { s with gate := { s.gate with atGate := none } }) := by
  rcases hg with hg | hg <;> simp [decideRemove, hg, ha]

theorem decideRemove_mergeHead {rest : List Nat} (hg : s.gate.state = .held .mergeCheck)
    (hmerge : s.gate.merge = n :: rest) : decideRemove s = decided s (okWith (u16 n))
      (retireTicket n .removed { s with gate := { s.gate with
        merge := rest, mergeCheck := false } }) := by
  simp [decideRemove, hg, hmerge]

theorem decideRemove_noHead (hg : s.gate.state = .held .mergeCheck) (hmerge : s.gate.merge = []) :
    decideRemove s = (refuse .notFound, s) := by
  simp [decideRemove, hg, hmerge]

theorem decideRemove_wrong (h : ∀ r, s.gate.state ≠ .held r) :
    decideRemove s = (refuse .wrongState, s) := by
  unfold decideRemove
  split
  · next e => exact absurd e (h _)
  · next e => exact absurd e (h _)
  · next e => exact absurd e (h _)
  all_goals rfl

/-! ## SELL (R66) -/

theorem decideSell_wrong {x : Nat} (h : s.gate.state ≠ .held .unpaid) :
    decideSell x s = (refuse .wrongState, s) := by
  unfold decideSell
  split
  · next e => exact absurd e h
  all_goals rfl

section
variable {r : Row} (hg : s.gate.state = .held .unpaid)
include hg

theorem decideSell_outOfRange {x : Nat} (h : 31 < x) :
    decideSell x s = (refuse .outOfRange, s) := by
  simp [decideSell, hg, fin?_eq_none.mpr h]

theorem decideSell_notSellable (h : (s.row r).active = false ∨ (s.row r).kind ≠ .plan) :
    decideSell r.val s = (refuse .notSellable, s) := by
  rcases h with h | h <;> simp [decideSell, hg, h]

/-- R66: a SELL that is carried out, as the model writes it. -/
theorem decideSell_sells (ha : s.gate.atGate = some n) (hactive : (s.row r).active = true)
    (hplan : (s.row r).kind = .plan) {pr : Priced} (hpr : priceOf (s.row r) [] s.discount = pr) :
    decideSell r.val s =
      decided s (okWith (u16 (soldNumber n s) ++ u16 pr.total ++ u8 pr.percent))
        (returnToMergeHead (soldNumber n s) (countRow r (pr.lines.headD 0)
          (replaceTicket n (soldTicket r pr (soldNumber n s))
            { s with sales := { s.sales with lastNumber := soldNumber n s } }))) := by
  simp [decideSell, hg, ha, hactive, hplan, hpr]

end

/-- R11, R66: no other live ticket has the number that a sold one takes. -/
theorem soldNumber_new (hc : s.creditsFit) {t : Ticket} (ht : t ∈ s.tickets) (hn : t.number ≠ n) :
    t.number ≠ soldNumber n s := by
  have hfree : t ∈ (freeTicket n s).tickets := by
    rw [tickets_freeTicket]
    exact List.mem_filter.mpr ⟨ht, by simpa using hn⟩
  exact (nextNumber_unheld (s := freeTicket n s) hc).1 t hfree

/-- R66: the slots after a sale hold the sold ticket, MERGED already, where the placeholder stood. -/
theorem merged_sold_slots (hc : s.creditsFit) {sold : Ticket} (hm : sold.number = soldNumber n s)
    (hstate : sold.state = .merged) :
    vmap (fun o => o.map (fun t : Ticket =>
        if t.number = soldNumber n s then { t with state := .merged } else t))
      (vmap (fun o => o.map (fun t => if t.number = n then sold else t)) s.sales.slots) =
    s.sales.slots.map (fun o => o.map (fun t => if t.number = n then sold else t)) := by
  have hsold : (if sold.number = soldNumber n s then { sold with state := .merged } else sold) =
      sold := by rw [if_pos hm, ← hstate]
  rw [vmap_eq_map, vmap_eq_map, Vector.map_map]
  refine Vector.map_congr_left fun o ho => ?_
  cases o with
  | none => rfl
  | some t =>
    by_cases hn : t.number = n
    · simp only [Function.comp_apply, Option.map_some, if_pos hn, hsold]
    · have ht : t ∈ s.tickets := by
        simpa [State.tickets] using ho
      simp [hn, soldNumber_new hc ht hn]

/-- R66: the same with the sold ticket written once. -/
theorem sold_eq (hc : s.creditsFit) (r : Row) (pr : Priced) (amount : Nat) :
    returnToMergeHead (soldNumber n s) (countRow r amount
      (replaceTicket n (soldTicket r pr (soldNumber n s))
        { s with sales := { s.sales with lastNumber := soldNumber n s } })) =
    { s with
      gate := { s.gate with merge := soldNumber n s :: s.gate.merge, atGate := none }
      sales := { s.sales with
        lastNumber := soldNumber n s
        slots := s.sales.slots.map (fun o => o.map (fun x =>
          if x.number = n then soldTicket r pr (soldNumber n s) else x))
        totals := (countRow r amount s).sales.totals } } := by
  have hslots := merged_sold_slots (n := n) hc (sold := soldTicket r pr (soldNumber n s)) rfl rfl
  rw [← hslots]
  rfl

/-- Settles O34: each decision by the reason of the hold. -/
theorem theConsoleDecides : Obligations.TheConsoleDecides := by
  unfold Obligations.TheConsoleDecides
  intro tag row s ht hm h reply wrong atHead
  have decides : ∀ (d : Byte) {results : List Byte} {u : State},
      gateDecideRequest [d, row] h = decided h (okWith results) u →
        request .gateDecide .console tag [d, row] s = reply results u :=
    fun d _ _ => gateDecide_decided ht hm
  have refuses : ∀ (d : Byte) {st : Status}, gateDecideRequest [d, row] h = (refuse st, h) →
      request .gateDecide .console tag [d, row] s = answered .console 0x24 tag st [] h :=
    fun d _ => gateDecide_refused ht hm
  refine ⟨fun n hn => ?_, fun n hg ha => ⟨?_, ?_, ?_, ?_⟩, fun hg => ⟨?_, ?_, ?_, ?_, ?_⟩,
    fun n hg ha => ⟨?_, ?_, fun hrow => ?_, fun r hr => ⟨fun hno => ?_, fun hactive hplan hc => ?_⟩,
      ?_⟩, fun hno => ⟨?_, ?_, ?_, ?_⟩, fun d hd => ?_⟩
  · obtain ⟨hqueued, hother⟩ := exec_place (tag := tag) hn ht hm
    refine ⟨fun t htk hq => ⟨fun hfull => (hqueued t htk hq).1 (mergeFull_iff.mpr hfull),
      fun hroom => (hqueued t htk hq).2 (Bool.eq_false_iff.mpr fun e => ?_)⟩, hother⟩
    exact absurd hroom (Nat.not_lt.mpr (mergeFull_iff.mp e))
  · exact decides 0 (decideRetry_expired (s := h) hg ha)
  · exact refuses 1 (decideWave_wrong (s := h) (by simp [h, hg]))
  · exact refuses 2 (decideSell_wrong (s := h) (by simp [h, hg]))
  · exact decides 3 (decideRemove_atGate (s := h) (Or.inr hg) ha)
  · exact decides 0 (decideRetry_mergeCheck (s := h) hg)
  · exact refuses 1 (decideWave_wrong (s := h) (by simp [h, hg]))
  · exact refuses 2 (decideSell_wrong (s := h) (by simp [h, hg]))
  · exact fun n rest hmerge => decides 3 (decideRemove_mergeHead (s := h) hg hmerge)
  · exact fun hmerge => refuses 3 (decideRemove_noHead (s := h) hg hmerge)
  · exact refuses 0 (decideRetry_wrong (s := h) (by simp [h, hg]) (by simp [h, hg]))
  · exact decides 1 (decideWave_unpaid (s := h) hg ha)
  · exact refuses 2 (decideSell_outOfRange (s := h) hg hrow)
  · have hsell := decideSell_notSellable (s := h) (r := r) hg hno
    rw [hr] at hsell
    exact refuses 2 hsell
  · have hsell := decideSell_sells (s := h) (r := r) hg ha hactive hplan rfl
    rw [sold_eq (s := h) hc, hr] at hsell
    exact decides 2 hsell
  · exact decides 3 (decideRemove_atGate (s := h) (Or.inl hg) ha)
  · exact refuses 0 (decideRetry_wrong (s := h) (hno _) (hno _))
  · exact refuses 1 (decideWave_wrong (s := h) (hno _))
  · exact refuses 2 (decideSell_wrong (s := h) (hno _))
  · exact refuses 3 (decideRemove_wrong (s := h) hno)
  · exact refuses d (gateDecideRequest_outOfRange hd)

end Sys2Proof.Machine
end

section
/-! # Conveyor and pace: the lines, and the conveyor that runs on demand alone (R71, R74)

Every command ends by writing the lines; time that passes moves none of them. Run demand is tested
wherever one of its terms can fall, so that a conveyor that warns or runs has it. -/

namespace Sys2Proof.Machine

variable {s t u : State}

/-! ## The lines (log entries 2 and 17) -/

theorem drive_linesFollow (u : State) : (drive u).linesFollow := rfl

/-- Every command answers a state whose lines were written at its end. -/
theorem exec_linesFollow {c : Instr} (h : exec c s = .next t) : t.linesFollow := by
  obtain ⟨u, hu, -⟩ := exec_does c s
  obtain rfl : drive u = t := by simpa using hu.symm.trans h
  exact drive_linesFollow u

theorem isRunning_elapse (n : Nat) (tm : Timer) : (tm.elapse n).isRunning = tm.isRunning := by
  cases tm <;> rfl

theorem rollerUp_advance (n : Nat) (s : State) : (advance n s).rollerUp = s.rollerUp := by
  unfold State.rollerUp
  have htimer : (advance n s).gate.rollerTimer = s.gate.rollerTimer.elapse n := rfl
  rw [htimer, isRunning_elapse]
  rfl

theorem arm_advance (n : Nat) (s : State) (j : StationIx) :
    ((advance n s).machine j).arm = (s.machine j).arm := by
  simp [advance, State.machine, vmap_getElem]

theorem jogged_advance (n : Nat) (s : State) (j : StationIx) :
    (advance n s).jogged j = s.jogged j := by
  unfold State.jogged
  have hjog : (advance n s).stn.jog =
      s.stn.jog.map fun g => { g with timer := g.timer.elapse n } := rfl
  rw [hjog]
  cases s.stn.jog <;> rfl

theorem trackFirst_advance (n : Nat) (s : State) (j : StationIx) :
    (advance n s).trackFirst j = s.trackFirst j := by
  unfold State.trackFirst
  rw [arm_advance]
  rfl

theorem trackSecond_advance (n : Nat) (s : State) (j : StationIx) :
    (advance n s).trackSecond j = s.trackSecond j := by
  unfold State.trackSecond
  rw [arm_advance]
  rfl

theorem lineOn_advance (n : Nat) (s : State) (l : Line) : (advance n s).lineOn l = s.lineOn l := by
  have hfirst : ∀ j, (advance n s).firstLineOn j = s.firstLineOn j := fun j => by
    unfold State.firstLineOn
    rw [jogged_advance, trackFirst_advance]
    rfl
  have hsecond : ∀ j, (advance n s).secondLineOn j = s.secondLineOn j := fun j => by
    unfold State.secondLineOn
    rw [jogged_advance, trackSecond_advance]
    rfl
  unfold State.lineOn
  simp only [hfirst, hsecond]
  rfl

theorem attention_advance (n : Nat) (s : State) :
    vmap (fun pt => !pt.unmasked.isEmpty) (advance n s).ports =
      vmap (fun pt => !pt.unmasked.isEmpty) s.ports := by
  apply Vector.ext
  intro i hi
  simp [advance, vmap_getElem, PortState.unmasked]

/-- Log entry 2: no line and no published register shows what a timer has left. -/
theorem outputsOf_advance (n : Nat) (s : State) : outputsOf (advance n s) = outputsOf s := by
  have hlines : (advance n s).lineOn = s.lineOn := funext (lineOn_advance n s)
  unfold outputsOf
  rw [rollerUp_advance, hlines, attention_advance]
  rfl

/-- R164, R185: the lines follow the records after every step. -/
theorem step_linesFollow (h : s.linesFollow) (hstep : step s = .next t) : t.linesFollow := by
  unfold step at hstep
  split at hstep
  · obtain rfl : advance 1 s = t := by simpa using hstep
    exact h.trans (outputsOf_advance 1 s).symm
  · exact exec_linesFollow hstep

/-! ## Run demand (R71) -/

/-- R71: the four terms of run demand. -/
theorem runDemand_iff : s.runDemand = true ↔ (s.mode = .openMode ∨ s.mode = .draining) ∧
    s.halt.state = .running ∧ s.inputs.chainClosed = true ∧ s.conv.parked = false := by
  simp only [State.runDemand, ← trading_iff, Bool.and_eq_true, beq_iff_eq, Bool.not_eq_true',
    and_assoc]

/-- The records that run demand and its test in the conveyor read. -/
def State.drives (s : State) :=
  (s.conv.state, s.conv.parked, s.mode, s.halt.state, s.inputs.chainClosed)

theorem runDemand_congr (h : t.drives = s.drives) : t.runDemand = s.runDemand := by
  simp only [State.drives, Prod.mk.injEq] at h
  obtain ⟨-, hparked, hmode, hhalt, hchain⟩ := h
  simp only [State.runDemand, State.trading, hparked, hmode, hhalt, hchain]

theorem runsOnDemand_congr (h : t.drives = s.drives) (hs : s.runsOnDemand) : t.runsOnDemand := by
  have hconv : t.conv.state = s.conv.state := congrArg Prod.fst h
  rw [State.runsOnDemand, hconv, runDemand_congr h]
  exact hs

theorem drives_of_frame (h : t.frame = s.frame) : t.drives = s.drives := by
  simp only [State.frame, Prod.mk.injEq] at h
  obtain ⟨hhalt, hmode, hstate, hparked, -, hinputs, -⟩ := h
  simp only [State.drives, hhalt, hmode, hstate, hparked, hinputs]

/-- A conveyor at rest or coasting asks for no demand. -/
theorem runsOnDemand_idle (h : s.conv.state = .stopped ∨ s.conv.state = .stopping) :
    s.runsOnDemand := by
  rcases h with h | h <;> simp [State.runsOnDemand, h]

theorem testDemand_runDemand (s : State) : (testDemand s).runDemand = s.runDemand := by
  unfold testDemand startWarning
  repeat' split
  all_goals rfl

/-- R71 to R74: the test of run demand leaves no conveyor warning or running without it, whatever it
found. -/
theorem testDemand_runsOnDemand (s : State) : (testDemand s).runsOnDemand := by
  cases hdemand : s.runDemand with
  | true => exact fun _ => (testDemand_runDemand s).trans hdemand
  | false =>
    refine runsOnDemand_idle ?_
    cases hstate : s.conv.state <;>
      simp [testDemand, hdemand, hstate, enterRest, startStopping]

/-! ## Every step keeps it -/

/-- R141: a change of the halt state tests run demand. -/
theorem setHalt_runsOnDemand (new : HaltState) (s : State) : (setHalt new s).runsOnDemand := by
  have hframe : (setHalt new s).frame = (testDemand (moveHalt new s)).frame :=
    (gateHaltChange_frame _).trans (stationsHaltChange_frame ..)
  exact runsOnDemand_congr (drives_of_frame hframe) (testDemand_runsOnDemand _)

theorem joinEpisode_drives (c : Cause) (s : State) : (joinEpisode c s).drives = s.drives := by
  unfold joinEpisode
  repeat' split
  all_goals rfl

theorem raiseCause_runsOnDemand (c : Cause) (subj : Subject) (h : s.runsOnDemand) :
    (raiseCause c subj s).runsOnDemand :=
  raiseCause_cases (fun _ => h) (fun _ => setHalt_runsOnDemand _ _)
    (fun _ _ => setHalt_runsOnDemand _ _) fun _ _ =>
      runsOnDemand_congr ((joinEpisode_drives ..).trans rfl) h

theorem clearCause_runsOnDemand (c : Cause) (h : s.runsOnDemand) :
    (clearCause c s).runsOnDemand := by
  unfold clearCause
  dsimp only
  split
  · split
    · exact setHalt_runsOnDemand _ _
    · exact h
  · exact h

/-- R78: the parked flag only ever takes run demand away. -/
theorem unpark_runsOnDemand (h : s.runsOnDemand) :
    State.runsOnDemand { s with conv := { s.conv with parked := false } } := fun hstate => by
  obtain ⟨hmode, hhalt, hchain, -⟩ := runDemand_iff.mp (h hstate)
  exact runDemand_iff.mpr ⟨hmode, hhalt, hchain, rfl⟩

theorem Reacts.runsOnDemand (h : Reacts s t) : s.runsOnDemand → t.runsOnDemand := by
  induction h with
  | quiet h => exact runsOnDemand_congr (drives_of_frame h)
  | trans _ _ h k => exact k ∘ h
  | notice p n s => exact id
  | demand s => exact fun _ => testDemand_runsOnDemand s
  | unpark s => exact unpark_runsOnDemand
  | drained s _ => exact fun _ => testDemand_runsOnDemand _
  | cause c subj s => exact raiseCause_runsOnDemand c subj
  | clear c s => exact clearCause_runsOnDemand c

/-- R167: the part starts with its conveyor at rest. -/
theorem resetRecords_runsOnDemand (s : State) : (resetRecords s).runsOnDemand := by
  have hconv : (resetRecords s).conv = Conveyor.start := by
    unfold resetRecords
    dsimp only
    split <;> rfl
  exact runsOnDemand_idle (Or.inl (by rw [hconv]; rfl))

theorem startCauses_reacts (s : State) : Reacts s (startCauses s) := by
  have hdrive : ∀ u : State,
      Reacts u (if u.inputs.driveFault then raiseCause .driveFault .none u else u) := fun u => by
    split
    · exact .cause ..
    · exact .refl u
  unfold startCauses
  dsimp only
  refine Reacts.trans ?_ (hdrive _)
  split
  · exact .refl s
  · exact .cause ..

theorem testMismatch_drives (s : State) : (testMismatch s).drives = s.drives := by
  unfold testMismatch
  repeat' split
  all_goals rfl

theorem deviceReset_runsOnDemand (s : State) : (deviceReset s).runsOnDemand := by
  have hstart := (startCauses_reacts (resetRecords (abandonSave s))).trans
    (Reacts.foldl (fun s j => startMachine_reacts j s) stationIxs _)
  have hmismatch := runsOnDemand_congr (testMismatch_drives _)
    (hstart.runsOnDemand (resetRecords_runsOnDemand _))
  exact (raiseAll_reacts (.halt .powerUp 1) _).runsOnDemand hmismatch

theorem Does.runsOnDemand (h : Does s t) : s.runsOnDemand → t.runsOnDemand := by
  induction h with
  | reacts h => exact h.runsOnDemand
  | trans _ _ h k => exact k ∘ h
  | levels i s hchain => exact runsOnDemand_congr (by simp [State.drives, hchain])
  | chain b s => exact fun _ => testDemand_runsOnDemand _
  | opens s _ => exact fun _ => testDemand_runsOnDemand _
  | lockout s => exact fun _ => testDemand_runsOnDemand _
  | parks s => exact fun _ => testDemand_runsOnDemand _
  | resumes s _ => exact fun _ => setHalt_runsOnDemand _ _
  | resets s => exact fun _ => deviceReset_runsOnDemand s
  | rested s _ => exact fun _ => runsOnDemand_idle (Or.inl rfl)
  | warned s hwarning => exact fun h _ => h (Or.inl hwarning)
  | drains s hmode =>
    intro h hstate
    obtain ⟨-, hrest⟩ := runDemand_iff.mp (h hstate)
    exact runDemand_iff.mpr ⟨Or.inr rfl, hrest⟩
  | ready s hmode =>
    intro h hstate
    obtain ⟨hopen, -⟩ := runDemand_iff.mp (h hstate)
    simp [hmode] at hopen
  | _ => exact id

/-- R74: where the lines follow the records, the run output shows a RUNNING conveyor. -/
theorem running_of_conveyorRun (h : s.linesFollow) (hrun : s.out.conveyorRun = true) :
    s.conv.state = .running := by
  rw [h] at hrun
  simp only [outputsOf, Bool.and_eq_true, beq_iff_eq] at hrun
  exact hrun.1

/-- R71 to R74: every step keeps the conveyor from warning or running without run demand. -/
theorem step_runsOnDemand (h : s.runsOnDemand) (hstep : step s = .next t) : t.runsOnDemand := by
  unfold step at hstep
  split at hstep
  · obtain rfl : advance 1 s = t := by simpa using hstep
    exact (Does.time 1 s).runsOnDemand h
  · next c rest _ =>
    obtain ⟨u, hexec, hdoes⟩ := exec_does c { s with pending := rest }
    obtain rfl : drive u = t := by simpa using hexec.symm.trans hstep
    exact hdoes.runsOnDemand h

/-- Settles O58: both invariants over what a command is made of; a run output that is on then shows
a RUNNING conveyor, which has run demand. -/
theorem theConveyorRunsOnDemandAlone : Obligations.TheConveyorRunsOnDemandAlone := by
  unfold Obligations.TheConveyorRunsOnDemandAlone
  intro s t hdemand hlines hstep
  have hdemand' := step_runsOnDemand hdemand hstep
  have hlines' := step_linesFollow hlines hstep
  refine ⟨hdemand', hlines', fun hrun => ?_⟩
  have hrunning := running_of_conveyorRun hlines' hrun
  obtain ⟨hmode, hhalt, hchain, hparked⟩ := runDemand_iff.mp (hdemand' (Or.inr hrunning))
  exact ⟨hchain, hmode, hhalt, hrunning, hparked⟩

end Sys2Proof.Machine
end

section
/-! # Conveyor and pace: the published pace (R70, R81, R83, R84) -/

namespace Sys2Proof.Machine

variable {s : State}

/-! ## The averaged period and the depth (R81, R83) -/

theorem avgPeriod_noSamples (h : s.conv.samples = []) :
    s.avgPeriod = s.settings.timing.nominalPeriod := by
  simp [State.avgPeriod, h]

theorem avgPeriod_samples (h : s.conv.samples ≠ []) :
    s.avgPeriod = s.conv.samples.sum / s.conv.samples.length := by
  unfold State.avgPeriod
  split
  · next hnone => exact absurd hnone h
  · rfl

theorem depth_eq (s : State) : s.depth = s.gate.merge.length + (s.laneQueue 0).length +
    (s.laneQueue 1).length + (s.laneQueue 2).length := by
  simp only [State.depth, lanes, List.map_cons, List.map_nil, List.sum_cons, List.sum_nil]
  omega

/-- R83: the step by the thresholds, which are tested in rising order. -/
theorem stepOf_cases (st : SpeedSteps) (d : Nat) :
    (d < st.t1 → (stepOf st d).val = 0) ∧
    (st.t1 ≤ d → d < st.t2 → (stepOf st d).val = 1) ∧
    (st.t1 ≤ d → st.t2 ≤ d → d < st.t3 → (stepOf st d).val = 2) ∧
    (st.t1 ≤ d → st.t2 ≤ d → st.t3 ≤ d → (stepOf st d).val = 3) := by
  unfold stepOf
  refine ⟨fun h1 => ?_, fun h1 h2 => ?_, fun h1 h2 h3 => ?_, fun h1 h2 h3 => ?_⟩
  · rw [if_pos h1]
    rfl
  · rw [if_neg (Nat.not_lt.mpr h1), if_pos h2]
    rfl
  · rw [if_neg (Nat.not_lt.mpr h1), if_neg (Nat.not_lt.mpr h2), if_pos h3]
    rfl
  · rw [if_neg (Nat.not_lt.mpr h1), if_neg (Nat.not_lt.mpr h2), if_neg (Nat.not_lt.mpr h3)]
    rfl

/-! ## The speed reference (R84) -/

/-- R84: the lowest cap is 1,000 or a cap that counts, and none that counts is below it. -/
theorem lowestCap_least (s : State) :
    let caps := (s.pacedTickets.filterMap s.ticket?).map (fun t => t.cap)
    (s.lowestCap = 1000 ∨ s.lowestCap ∈ caps) ∧ s.lowestCap ≤ 1000 ∧
      ∀ x ∈ caps, s.lowestCap ≤ x := by
  intro caps
  have hmem : s.lowestCap ∈ 1000 :: caps := List.min_mem (List.cons_ne_nil 1000 caps)
  have hle : ∀ x ∈ 1000 :: caps, s.lowestCap ≤ x := fun _ hx => List.min_le_of_mem hx
  exact ⟨List.mem_cons.mp hmem, hle 1000 List.mem_cons_self,
    fun x hx => hle x (List.mem_cons_of_mem 1000 hx)⟩

theorem speedReference_running (hrun : s.conv.state = .running) (hmode : s.mode ≠ .lockout) :
    s.speedReference =
      max 100 (min 1000 (min s.settings.steps.speeds[s.speedStep] s.lowestCap)) :=
  if_pos ⟨hrun, hmode⟩

theorem speedReference_notRunning (h : s.conv.state ≠ .running) : s.speedReference = 0 :=
  if_neg fun ⟨hrun, _⟩ => h hrun

/-! ## The run output and the horn (R70) -/

theorem outputsOf_conveyorRun (hmode : s.mode ≠ .lockout) :
    (outputsOf s).conveyorRun = (s.conv.state == .running) := by
  simp [outputsOf, hmode]

theorem outputsOf_horn (hmode : s.mode ≠ .lockout) :
    (outputsOf s).horn = (s.conv.state == .warning) := by
  simp [outputsOf, hmode]

/-- Settles O42: the lines follow the records after every command, and the records give the
pace. -/
theorem paceFollowsTheRecords : Obligations.PaceFollowsTheRecords := by
  unfold Obligations.PaceFollowsTheRecords
  intro c s t hexec hmode caps st depth
  have hdepth : t.depth = depth := depth_eq t
  obtain ⟨hstep0, hstep1, hstep2, hstep3⟩ := stepOf_cases st depth
  rw [exec_linesFollow hexec]
  have hstep : (outputsOf t).step = (stepOf st depth).val :=
    congrArg (fun d => (stepOf st d).val) hdepth
  rw [hstep]
  refine ⟨avgPeriod_noSamples, avgPeriod_samples, hdepth, hstep0, hstep1, hstep2, hstep3,
    speedReference_notRunning, fun hrun => ?_, outputsOf_conveyorRun hmode, outputsOf_horn hmode⟩
  obtain ⟨hmem, hbound, hleast⟩ := lowestCap_least t
  exact ⟨t.speedStep, t.lowestCap, hstep, hmem, hbound, hleast, speedReference_running hrun hmode⟩

end Sys2Proof.Machine
end

section
/-! # Conveyor and pace: what an event ends with leaves the conveyor (R52, R71 to R78, R162)

An event ends with the gate's tests in IDLE, the test of the drain and that of the park timer. Of
the conveyor they move only the park timer, unless the gate asks a parked conveyor to start or a drain
ends under a conveyor with run demand. -/

namespace Sys2Proof.Machine

variable {s t u b : State}

/-! ## The test of run demand, by the conveyor's state (R71 to R74) -/

/-- R71, R78: a parked conveyor has no run demand. -/
theorem runDemand_parked (h : s.conv.parked = true) : s.runDemand = false := by
  simp [State.runDemand, h]

theorem testDemand_keeps (hd : s.runDemand = true) (h : s.conv.state ≠ .stopped) :
    testDemand s = s := by
  cases hstate : s.conv.state <;> simp [testDemand, hd, hstate] at h ⊢

theorem testDemand_cancels (hd : s.runDemand = false) (h : s.conv.state = .warning) :
    testDemand s = enterRest s := by
  simp [testDemand, hd, h]

theorem testDemand_coasts (hd : s.runDemand = false) (h : s.conv.state = .running) :
    testDemand s = startStopping s := by
  simp [testDemand, hd, h]

/-- A conveyor at rest or coasting stays so without demand. -/
theorem testDemand_idle (hd : s.runDemand = false)
    (h : s.conv.state = .stopped ∨ s.conv.state = .stopping) : testDemand s = s :=
  h.elim (testDemand_rests hd) testDemand_stopping

/-- R118: a test of run demand that leaves the averaged period is no evaluation. -/
theorem retestDemand_samePace (h : (testDemand s).conv.samples = s.conv.samples) :
    retestDemand s = testDemand s := by
  have hsettings : (testDemand s).settings = s.settings := (testDemand_spares s).settings
  exact if_pos (by simp only [State.avgPeriod, h, hsettings])

/-! ## What an evaluation leaves (R118) -/

theorem Washes.conv (h : Washes s t) : t.conv = s.conv := by
  obtain ⟨r, m, rfl, -⟩ := h
  rfl

theorem Washes.drives (h : Washes s t) : t.drives = s.drives := by
  obtain ⟨r, m, rfl, -⟩ := h
  rfl

/-- R52: statuses and machines are no condition of an offer. -/
theorem Washes.offerWanted (h : Washes s t) : t.offerWanted = s.offerWanted := by
  have hlength : t.track.roster.length = s.track.roster.length := by
    simpa using congrArg List.length h.spares.cars
  have hhead : t.headUnpaid = s.headUnpaid := by
    obtain ⟨r, m, rfl, -⟩ := h
    rfl
  have htrading : t.trading = s.trading := by rw [State.trading, h.spares.mode, State.trading]
  simp only [State.offerWanted, htrading, h.halt, hlength, h.gate, hhead, h.spares.gapOpen]

theorem evalIfPaceMoved_washes (b s : State) : Washes s (evalIfPaceMoved b s) := by
  unfold evalIfPaceMoved
  split
  · exact .refl s
  · exact evaluate_washes s

theorem machine_updateMachine_other {i j : StationIx} (h : i ≠ j)
    (f : StationMachine → StationMachine) (s : State) :
    (updateMachine i f s).machine j = s.machine j := by
  have hval : i.val ≠ j.val := fun e => h (Fin.ext e)
  simp [updateMachine, setMachine, State.machine, vset_getElem, hval]

/-- R123, R124: the end of a service moves an arm that is out. -/
theorem endStep_machine (i j : StationIx) (s : State) :
    (endStep i s).machine j = s.machine j ∨
      i = j ∧ ((s.machine j).arm = .advancing ∨ (s.machine j).arm = .engaged) := by
  have hwithdraw : ∀ u : State, i ≠ j → (withdrawArm i u).machine j = u.machine j :=
    fun u h => machine_updateMachine_other h _ u
  by_cases hij : i = j
  · subst hij
    unfold endStep
    dsimp only
    split
    · exact Or.inl rfl
    · split
      · next h => exact Or.inr ⟨rfl, Or.inl h⟩
      · next h => exact Or.inr ⟨rfl, Or.inr h⟩
      all_goals exact Or.inl rfl
  · left
    unfold endStep
    dsimp only
    split
    · rfl
    · split
      · split
        · rfl
        · exact hwithdraw _ hij
      · split
        · rfl
        · split
          · rfl
          · exact hwithdraw _ hij
      all_goals rfl

/-- R122: a service starts from a STOWED arm. -/
theorem startStep_machine (i j : StationIx) (s : State) :
    (startStep i s).machine j = s.machine j ∨ i = j ∧ (s.machine j).arm = .stowed := by
  unfold startStep
  split
  · exact Or.inl rfl
  · split
    · next h =>
      by_cases hij : i = j
      · exact Or.inr ⟨hij, hij ▸ h.1⟩
      · exact Or.inl (machine_updateMachine_other hij _ _)
    · exact Or.inl rfl

/-- R126, R128: an arm in WITHDRAWING or FAULT. -/
def State.armBack (s : State) (j : StationIx) : Prop :=
  (s.machine j).arm = .withdrawing ∨ (s.machine j).arm = .fault

/-- R118: an evaluation leaves an arm in WITHDRAWING or FAULT. -/
theorem evalStation_armBack (i j : StationIx) (h : s.armBack j) : (evalStation i s).armBack j := by
  have hend : (endStep i (qualifyStep i s)).machine j = s.machine j := by
    rcases endStep_machine i j (qualifyStep i s) with hsame | ⟨-, hout⟩
    · exact hsame
    · rcases h with h | h <;> rcases hout with hout | hout <;>
        exact absurd (h.symm.trans hout) (by decide)
  have hstart : (startStep i (missStep i (endStep i (qualifyStep i s)))).machine j =
      s.machine j := by
    rcases startStep_machine i j (missStep i (endStep i (qualifyStep i s))) with
      hsame | ⟨-, hstowed⟩
    · exact hsame.trans hend
    · have hstowed' : (s.machine j).arm = .stowed := hend ▸ hstowed
      rcases h with h | h <;> exact absurd (h.symm.trans hstowed') (by decide)
  unfold evalStation
  split
  · rw [State.armBack, hstart]
    exact h
  · exact h
  · exact h

theorem evaluate_armBack {j : StationIx} (h : s.armBack j) : (evaluate s).armBack j :=
  List.foldlRecOn (motive := fun u : State => u.armBack j) stationIxs _ h
    fun _ hu i _ => evalStation_armBack i j hu

theorem evalIfPaceMoved_armBack {j : StationIx} (b : State) (h : s.armBack j) :
    (evalIfPaceMoved b s).armBack j := by
  unfold evalIfPaceMoved
  split
  · exact h
  · exact evaluate_armBack h

/-! ## The end of a drain (R162) -/

/-- R162: a drain is at its end. -/
def State.drained (s : State) : Prop :=
  s.mode = .draining ∧ s.drainConditions.all id = true

theorem mem_stationIxs (j : StationIx) : j ∈ stationIxs := by
  revert j
  decide

theorem drained_iff : s.drained ↔ s.mode = .draining ∧
    (∀ i, s.saleSlot i = .empty) ∧ (∀ i, s.laneQueue i = []) ∧ s.gate.merge = [] ∧
    s.gate.state = .idle ∧ s.track.roster = [] ∧
    ∀ j, s.isArm j = true → (s.machine j).arm = .stowed := by
  simp [State.drained, State.drainConditions, mem_lanes, mem_stationIxs,
    ← Bool.not_eq_true, imp_iff_not_or]

theorem testDrain_notDrained (h : ¬ s.drained) : testDrain s = s := if_neg h

/-- A drain's end moves no conveyor at rest or coasting. -/
theorem testDrain_conv
    (h : (s.conv.state = .stopped ∨ s.conv.state = .stopping) ∨ ¬ s.drained) :
    (testDrain s).conv = s.conv := by
  by_cases hdrained : s.drained
  · have hidle := h.resolve_right (not_not_intro hdrained)
    have hd : State.runDemand (raiseTo .site .closeDone { s with mode := .closed }) = false := rfl
    have htest := testDemand_idle hd hidle
    have hdrain : testDrain s =
        retestDemand (raiseTo .site .closeDone { s with mode := .closed }) := if_pos hdrained
    rw [hdrain, retestDemand_samePace (by rw [htest]), htest]
    rfl
  · rw [testDrain_notDrained hdrained]

/-! ## The park timer (R77) -/

theorem testPark_starts (hs : s.parkHolds = true) (hb : b.parkHolds = false) : testPark b s =
    if s.settings.timing.parkTime = 0 then s
    else { s with conv := { s.conv with
      parkTimer := .running (s.settings.timing.parkTime * 100000) } } :=
  (if_neg (by simp [hs, hb])).trans (if_pos hs)

theorem testPark_stops (hs : s.parkHolds = false) (hb : b.parkHolds = true) :
    testPark b s = { s with conv := { s.conv with parkTimer := .stopped } } :=
  (if_neg (by simp [hs, hb])).trans (if_neg (by simp [hs]))

theorem testPark_conv (b s : State) :
    ∃ tm, (testPark b s).conv = { s.conv with parkTimer := tm } := by
  unfold testPark
  repeat' split
  · exact ⟨s.conv.parkTimer, rfl⟩
  · exact ⟨s.conv.parkTimer, rfl⟩
  · exact ⟨_, rfl⟩
  · exact ⟨_, rfl⟩

/-! ## The gate's tests in IDLE (R51, R52, R78) -/

/-- R52, R78: the gate asks a parked conveyor to start. -/
def State.asksUnpark (s : State) : Prop :=
  s.gate.state = .idle ∧ s.gate.mergeCheck = false ∧ s.offerWanted = true ∧ s.conv.parked = true

/-- R78: the conveyor's flag cleared. -/
def unparked (s : State) : State := { s with conv := { s.conv with parked := false } }

/-- R51, R52: the tests in IDLE find nothing to do, or take the gate out of IDLE, or unpark. -/
theorem testIdleOnce_cases {motive : State → Prop} (nothing : motive s)
    (leaves : ∀ u, u.gate.state ≠ .idle → u.conv = s.conv → motive u)
    (unparks : s.asksUnpark → s.conv.state ≠ .running → motive (retestDemand (unparked s))) :
    motive (testIdleOnce s) := by
  by_cases hidle : s.gate.state = .idle
  case neg => rwa [testIdleOnce_standing hidle]
  cases hcheck : s.gate.mergeCheck
  case true =>
    rw [testIdleOnce_mergeCheck hidle hcheck]
    exact leaves _ (by simp [holdGate]) rfl
  by_cases hw : s.OfferWanted
  · obtain ⟨-, hhalt, -, ⟨n, rest, hm, -⟩, -⟩ := id hw
    rw [testIdleOnce_wanted hidle hcheck hm hw]
    split
    · rw [enterOffer_takeHead n rest hhalt]
      exact leaves _ (offeringGate_standing n rest s) rfl
    · next hstate =>
      split
      · next hparked => exact unparks ⟨hidle, hcheck, offerWanted_iff.mpr hw, hparked⟩ hstate
      · exact nothing
  · by_cases hpaid : ∀ n rest, s.gate.merge = n :: rest → ¬ s.Unpaid n
    · rwa [testIdleOnce_unwanted hidle hcheck hw hpaid]
    · push Not at hpaid
      obtain ⟨n, rest, hm, hn⟩ := hpaid
      rw [testIdleOnce_unpaid hidle hcheck hm hn]
      exact leaves _ (by simp [holdGate]) rfl

/-- R51, R52: where the gate asks for no unpark its tests leave the conveyor, and leave everything
or take the gate out of IDLE; made again they find nothing more to do. -/
theorem testIdle_noUnpark (h : ¬ s.asksUnpark) :
    testIdle s = testIdleOnce s ∧ (testIdle s).conv = s.conv ∧
      (testIdle s = s ∨ (testIdle s).gate.state ≠ .idle) := by
  have honce : (testIdleOnce s).conv = s.conv ∧
      (testIdleOnce s = s ∨ (testIdleOnce s).gate.state ≠ .idle) :=
    testIdleOnce_cases (motive := fun u => u.conv = s.conv ∧ (u = s ∨ u.gate.state ≠ .idle))
      ⟨rfl, Or.inl rfl⟩ (fun _ hgate hconv => ⟨hconv, Or.inr hgate⟩) fun hask => absurd hask h
  have hsame := testIdle_of_once rfl honce.2
  rw [hsame]
  exact ⟨rfl, honce⟩

/-! ## What every event ends with -/

/-- Where the gate asks for no unpark, and no drain ends under a conveyor that warns or runs, the
end of an event moves the park timer alone. -/
theorem settle_conv (hask : ¬ s.asksUnpark)
    (h : (s.conv.state = .stopped ∨ s.conv.state = .stopping) ∨ ¬ s.drained) :
    ∃ tm, (settle b s).conv = { s.conv with parkTimer := tm } := by
  obtain ⟨-, hconv, hgate⟩ := testIdle_noUnpark hask
  have hdrain : (testDrain (testIdle s)).conv = s.conv := by
    rw [testDrain_conv, hconv]
    rw [hconv]
    refine h.imp_right fun hnot hdrained => ?_
    rcases hgate with hsame | hleft
    · exact hnot (hsame ▸ hdrained)
    · obtain ⟨-, -, -, -, hidle, -⟩ := drained_iff.mp hdrained
      exact hleft hidle
  have hpark := testPark_conv b (testDrain (testIdle s))
  rw [hdrain] at hpark
  exact hpark

/-- R72: from rest the test of run demand leaves the samples and the parked flag. -/
theorem testDemand_fromRest (h : s.conv.state = .stopped) :
    (testDemand s).conv.samples = s.conv.samples ∧ (testDemand s).conv.parked = s.conv.parked := by
  cases hd : s.runDemand with
  | false => rw [testDemand_rests hd h]; exact ⟨rfl, rfl⟩
  | true =>
    rw [testDemand_warns hd h]
    unfold startWarning
    split <;> exact ⟨rfl, rfl⟩

/-- R78: from rest the conveyor is unparked and takes run demand, and the event ends as it would
have with the parked flag clear from the start. -/
theorem settle_unparks (hask : s.asksUnpark) (hstate : s.conv.state = .stopped) :
    settle b s = settle b (testDemand (unparked s)) := by
  obtain ⟨hidle, hcheck, hw, hparked⟩ := id hask
  obtain ⟨-, -, -, ⟨n, rest, hm, -⟩, -⟩ := offerWanted_iff.mp hw
  obtain ⟨hsamples, hfree⟩ := testDemand_fromRest (s := unparked s) hstate
  have hfirst : testIdleOnce s = testDemand (unparked s) := by
    rw [testIdleOnce_wanted hidle hcheck hm (offerWanted_iff.mp hw), if_neg (by simp [hstate]),
      if_pos hparked]
    exact retestDemand_samePace (s := unparked s) hsamples
  have hask' : ¬ (testDemand (unparked s)).asksUnpark :=
    fun ⟨_, _, _, h⟩ => Bool.false_ne_true (hfree.symm.trans h)
  rw [settle, testIdle, hfirst, ← (testIdle_noUnpark hask').1, ← settle]

end Sys2Proof.Machine
end

section
/-! # Conveyor and pace: the warn, at-rest, stall and park timers (R71 to R78) -/

namespace Sys2Proof.Machine

variable {s t u : State} {left : Nat}

/-! ## The lines of a conveyor that runs on demand -/

/-- R89: the horn and the run output are those of the state, since LOCKOUT takes run demand away. -/
theorem lines_of_runsOnDemand (h : s.runsOnDemand) :
    (outputsOf s).horn = (s.conv.state == .warning) ∧
      (outputsOf s).conveyorRun = (s.conv.state == .running) := by
  by_cases hmode : s.mode = .lockout
  · have hdemand : ¬ s.runDemand = true := fun hd => by
      obtain ⟨htrading, -⟩ := runDemand_iff.mp hd
      simp [hmode] at htrading
    have hwarning : s.conv.state ≠ .warning := fun e => hdemand (h (Or.inl e))
    have hrunning : s.conv.state ≠ .running := fun e => hdemand (h (Or.inr e))
    simp [outputsOf, hmode, hwarning, hrunning]
  · exact ⟨outputsOf_horn hmode, outputsOf_conveyorRun hmode⟩

theorem settle_runsOnDemand (b : State) (h : s.runsOnDemand) : (settle b s).runsOnDemand :=
  (settle_reacts b s).runsOnDemand h

/-! ## A start (R72, R73) -/

/-- R72, R73: by the timing settings x the conveyor warns, or runs at once with the horn silent. -/
def StartedBy (x : Timing) (t : State) : Prop :=
  (x.warnTime ≠ 0 → t.conv.state = .warning ∧ t.out.horn = true ∧ t.out.conveyorRun = false ∧
    t.conv.warnTimer = .running (x.warnTime * 100000)) ∧
  (x.warnTime = 0 → t.conv.state = .running ∧ t.out.horn = false ∧ t.out.conveyorRun = true ∧
    t.conv.warnTimer = .stopped ∧ t.conv.stallTimer = .running (x.stallTime * 100))

/-- A start shows once the lines are written, whatever the park timer holds. -/
theorem startedBy_drive {tm : Timer} (hd : u.runsOnDemand)
    (hconv : u.conv = { (startWarning s).conv with parkTimer := tm }) :
    StartedBy s.settings.timing (drive u) := by
  obtain ⟨hhorn, hrun⟩ := lines_of_runsOnDemand hd
  unfold startWarning at hconv
  refine ⟨fun hwarn => ?_, fun hwarn => ?_⟩
  · rw [if_neg hwarn] at hconv
    rw [drive_conv, drive_out, hhorn, hrun, hconv]
    exact ⟨rfl, rfl, rfl, rfl⟩
  · rw [if_pos hwarn] at hconv
    rw [drive_conv, drive_out, hhorn, hrun, hconv]
    exact ⟨rfl, rfl, rfl, rfl, rfl⟩

theorem startWarning_keeps (s : State) :
    (startWarning s).conv.samples = s.conv.samples ∧ (startWarning s).conv.mark = s.conv.mark ∧
      (startWarning s).conv.parked = s.conv.parked := by
  unfold startWarning
  split <;> exact ⟨rfl, rfl, rfl⟩

theorem startWarning_drained (s : State) : (startWarning s).drained ↔ s.drained := by
  unfold startWarning
  split <;> exact Iff.rfl

/-- R72: an event that ends with a start, of a drain that is not at its end, shows the start. -/
theorem settle_startWarning (b : State) (hd : s.runDemand = true) (hstate : s.conv.state = .stopped)
    (hdrain : ¬ s.drained) :
    StartedBy s.settings.timing (drive (settle b (startWarning s))) ∧
      (settle b (startWarning s)).conv.samples = s.conv.samples ∧
      (settle b (startWarning s)).conv.mark = s.conv.mark ∧
      (settle b (startWarning s)).conv.parked = false := by
  obtain ⟨-, -, -, hfree⟩ := runDemand_iff.mp hd
  obtain ⟨hsamples, hmark, hparked⟩ := startWarning_keeps s
  have hask : ¬ (startWarning s).asksUnpark :=
    fun ⟨_, _, _, h⟩ => Bool.false_ne_true (hfree.symm.trans (hparked.symm.trans h))
  obtain ⟨tm, hconv⟩ := settle_conv (b := b) hask (Or.inr (mt (startWarning_drained s).mp hdrain))
  have hdemand := testDemand_runsOnDemand s
  rw [testDemand_warns hd hstate] at hdemand
  refine ⟨startedBy_drive (settle_runsOnDemand b hdemand) hconv, ?_, ?_, ?_⟩
  · rw [hconv]
    exact hsamples
  · rw [hconv]
    exact hmark
  · rw [hconv]
    exact hparked.trans hfree

/-! ## The warn timer (R73) -/

theorem exec_warnTimerExpiry (hstate : s.conv.state = .warning)
    (htimer : s.conv.warnTimer = .running left) :
    exec .warnTimerExpiry s = done (settle s (startRunning s)) := by
  have hexpiry : warnExpiry s = settle s (startRunning s) := if_pos ⟨hstate, by rw [htimer]; rfl⟩
  exact congrArg done hexpiry

/-- R77: with nothing to offer, a start in OPEN is where the park timer's conditions first hold. -/
theorem settle_startRunning (hstate : s.conv.state = .warning) (hmode : s.mode = .openMode)
    (hroster : s.track.roster = []) (hidle : s.gate.state = .idle) (hmerge : s.gate.merge = [])
    (hcheck : s.gate.mergeCheck = false) :
    (settle s (startRunning s)).conv = { (startRunning s).conv with
      parkTimer := if s.settings.timing.parkTime = 0 then s.conv.parkTimer
        else .running (s.settings.timing.parkTime * 100000) } := by
  have hnone : testIdleOnce (startRunning s) = startRunning s := by
    simp [testIdleOnce, startRunning, hidle, hcheck, hmerge]
  have hdrain : ¬ (startRunning s).drained := fun ⟨hdraining, _⟩ => by
    simp [startRunning, hmode] at hdraining
  have hbefore : s.parkHolds = false := parkHolds_notRunning (by simp [hstate])
  have hafter : (startRunning s).parkHolds = true := parkHolds_iff.mpr ⟨rfl, hroster, hidle⟩
  rw [settle, testIdle_of_once hnone (Or.inl rfl), settleDrain, testDrain_notDrained hdrain,
    testPark_starts hafter hbefore]
  by_cases hpark : s.settings.timing.parkTime = 0
  · rw [if_pos hpark, if_pos (show (startRunning s).settings.timing.parkTime = 0 from hpark)]
    rfl
  · rw [if_neg hpark, if_neg (show ¬ (startRunning s).settings.timing.parkTime = 0 from hpark)]
    rfl

/-! ## The at-rest timer (R72, R75, R80) -/

/-- R75, R80: the conveyor at rest, with the evaluation that the cleared samples make. -/
def atRest (s : State) : State := evalIfPaceMoved s (enterRest s)

theorem atRest_washes (s : State) : Washes (enterRest s) (atRest s) := evalIfPaceMoved_washes s _

theorem atRest_conv (s : State) : (atRest s).conv = (enterRest s).conv := (atRest_washes s).conv

theorem atRest_stopped (s : State) : (atRest s).conv.state = .stopped := by
  rw [atRest_conv]
  rfl

/-- Coming to rest changes no term of run demand and no condition of an offer. -/
theorem atRest_runDemand (s : State) : (atRest s).runDemand = s.runDemand :=
  runDemand_congr (s := enterRest s) (atRest_washes s).drives

theorem atRest_asksUnpark (s : State) : (atRest s).asksUnpark ↔ s.asksUnpark := by
  rw [State.asksUnpark, (atRest_washes s).gate, (atRest_washes s).offerWanted, atRest_conv]
  exact Iff.rfl

theorem atRest_settings (s : State) : (atRest s).settings = s.settings :=
  (atRest_washes s).spares.settings

theorem exec_atRestTimerExpiry (hstate : s.conv.state = .stopping)
    (htimer : s.conv.restTimer = .running left) :
    exec .atRestTimerExpiry s = done (settle s (testDemand (atRest s))) := by
  have hexpiry : restExpiry s = settle s (testDemand (atRest s)) :=
    if_pos ⟨hstate, by rw [htimer]; rfl⟩
  exact congrArg done hexpiry

/-- R75: without run demand, and with no unpark asked for, the conveyor stays at rest. -/
theorem exec_atRestTimerExpiry_rests (hstate : s.conv.state = .stopping)
    (htimer : s.conv.restTimer = .running left) (hd : s.runDemand = false)
    (hask : ¬ s.asksUnpark) :
    ∃ t tm, exec .atRestTimerExpiry s = .next t ∧
      t.conv = { (enterRest s).conv with parkTimer := tm } ∧ t.out.horn = false := by
  have hrest := atRest_stopped s
  have htest := testDemand_rests ((atRest_runDemand s).trans hd) hrest
  obtain ⟨tm, hconv⟩ := settle_conv (b := s) (mt (atRest_asksUnpark s).mp hask)
    (Or.inl (Or.inl hrest))
  obtain ⟨hhorn, -⟩ := lines_of_runsOnDemand
    (settle_runsOnDemand s (runsOnDemand_idle (s := atRest s) (Or.inl hrest)))
  rw [atRest_conv] at hconv
  rw [hconv] at hhorn
  refine ⟨_, tm, exec_atRestTimerExpiry hstate htimer, ?_⟩
  rw [htest]
  exact ⟨hconv, hhorn⟩

/-- R78: a parked conveyor that the gate asks for is unparked as it comes to rest. -/
theorem exec_atRestTimerExpiry_unparks (hstate : s.conv.state = .stopping)
    (htimer : s.conv.restTimer = .running left) (hask : s.asksUnpark) :
    exec .atRestTimerExpiry s = done (settle s (testDemand (unparked (atRest s)))) := by
  have hask' := (atRest_asksUnpark s).mpr hask
  obtain ⟨-, -, -, hparked⟩ := id hask'
  have hd := runDemand_parked hparked
  rw [exec_atRestTimerExpiry hstate htimer, testDemand_rests hd (atRest_stopped s),
    settle_unparks hask' (atRest_stopped s)]

/-- R71, R78: the unparked conveyor at rest has run demand with the chain closed. -/
theorem unparkedAtRest_runDemand (hask : s.asksUnpark) :
    (unparked (atRest s)).runDemand = s.inputs.chainClosed := by
  obtain ⟨-, -, hw, -⟩ := (atRest_asksUnpark s).mpr hask
  obtain ⟨hmode, hhalt, -⟩ := offerWanted_iff.mp hw
  have hinputs : (atRest s).inputs = s.inputs := (atRest_washes s).spares.inputs
  rw [unparked, runDemand_unparked hmode hhalt, hinputs]

/-- R71: with the chain open the unparked conveyor stays at rest. -/
theorem exec_atRestTimerExpiry_unparks_open (hstate : s.conv.state = .stopping)
    (htimer : s.conv.restTimer = .running left) (hask : s.asksUnpark)
    (hchain : s.inputs.chainClosed = false) :
    ∃ t, exec .atRestTimerExpiry s = .next t ∧ t.conv.parked = false ∧ t.conv.samples = [] ∧
      t.conv.state = .stopped ∧ t.out.horn = false := by
  have hrest : (unparked (atRest s)).conv.state = .stopped := atRest_stopped s
  have htest := testDemand_rests ((unparkedAtRest_runDemand hask).trans hchain) hrest
  have hask' : ¬ (unparked (atRest s)).asksUnpark := fun ⟨_, _, _, h⟩ => Bool.false_ne_true h
  obtain ⟨tm, hconv⟩ := settle_conv (b := s) hask' (Or.inl (Or.inl hrest))
  obtain ⟨hhorn, -⟩ := lines_of_runsOnDemand
    (settle_runsOnDemand s (runsOnDemand_idle (Or.inl hrest)))
  have hsamples : (unparked (atRest s)).conv.samples = [] :=
    congrArg Conveyor.samples (atRest_conv s)
  refine ⟨_, exec_atRestTimerExpiry_unparks hstate htimer hask, ?_⟩
  rw [htest, drive_conv, drive_out, hhorn, hconv]
  exact ⟨rfl, hsamples, hrest, by simp [hrest]⟩

/-- R52 to R54: with the conveyor RUNNING the end of an event makes a wanted offer. -/
theorem settle_offers (b : State) (hidle : s.gate.state = .idle)
    (hcheck : s.gate.mergeCheck = false) (hw : s.offerWanted = true) (hrun : s.conv.state = .running) :
    (settle b s).gate.atGate = s.gate.merge.head? ∧
      (settle b s).gate.state = if s.inputs.tireClosed = true then .loading else .offer := by
  obtain ⟨-, hhalt, -, ⟨n, rest, hm, -⟩, -⟩ := offerWanted_iff.mp hw
  have honce := testIdleOnce_wanted hidle hcheck hm (offerWanted_iff.mp hw)
  rw [if_pos hrun, enterOffer_takeHead n rest hhalt] at honce
  have hidled := testIdle_of_once honce (Or.inr (offeringGate_standing n rest s))
  obtain ⟨-, hgate, -⟩ := settleDrain_leaves b (testIdle s)
  rw [settle, hgate, hidled, hm]
  unfold offeringGate
  split <;> exact ⟨rfl, rfl⟩

/-- R72, R78: with the chain closed the unparked conveyor starts, and with WarnTime 0 the offer is
made at once. -/
theorem exec_atRestTimerExpiry_unparks_closed (hstate : s.conv.state = .stopping)
    (htimer : s.conv.restTimer = .running left) (hask : s.asksUnpark)
    (hchain : s.inputs.chainClosed = true) :
    ∃ t, exec .atRestTimerExpiry s = .next t ∧ t.conv.parked = false ∧ t.conv.samples = [] ∧
      StartedBy s.settings.timing t ∧ (s.settings.timing.warnTime = 0 →
        t.gate.atGate = s.gate.merge.head? ∧
        t.gate.state = if s.inputs.tireClosed = true then .loading else .offer) := by
  have hrest : (unparked (atRest s)).conv.state = .stopped := atRest_stopped s
  have hd := (unparkedAtRest_runDemand hask).trans hchain
  obtain ⟨hidle, hcheck, hw, -⟩ := (atRest_asksUnpark s).mpr hask
  obtain ⟨-, -, -, ⟨n, rest, hm, -⟩, -⟩ := offerWanted_iff.mp hw
  have hdrain : ¬ (unparked (atRest s)).drained := fun hdrained => by
    obtain ⟨-, -, -, hmerge, -⟩ := drained_iff.mp hdrained
    exact absurd (hm.symm.trans hmerge) (by simp)
  obtain ⟨hstarted, hsamples, -, hparked⟩ := settle_startWarning s hd hrest hdrain
  have hempty : (unparked (atRest s)).conv.samples = [] := congrArg Conveyor.samples (atRest_conv s)
  have hsettings : (unparked (atRest s)).settings = s.settings := atRest_settings s
  rw [hsettings] at hstarted
  refine ⟨_, exec_atRestTimerExpiry_unparks hstate htimer hask, ?_⟩
  rw [testDemand_warns hd hrest]
  refine ⟨hparked, hsamples.trans hempty, hstarted, fun hwarn => ?_⟩
  have hruns : startWarning (unparked (atRest s)) = startRunning (unparked (atRest s)) :=
    if_pos (by rw [hsettings]; exact hwarn)
  have hoffers := settle_offers (s := startRunning (unparked (atRest s))) s hidle hcheck hw rfl
  have hgate : (startRunning (unparked (atRest s))).gate = s.gate := (atRest_washes s).gate
  have hinputs : (startRunning (unparked (atRest s))).inputs = s.inputs :=
    (atRest_washes s).spares.inputs
  rw [hgate, hinputs] at hoffers
  rw [hruns]
  exact hoffers

/-- R162: a drain condition that does not hold, of those that last through an evaluation. -/
abbrev State.Undrained (s : State) : Prop :=
  (∃ i : Lane, s.saleSlot i ≠ .empty ∨ s.laneQueue i ≠ []) ∨ s.gate.merge ≠ [] ∨
    s.gate.state ≠ .idle ∨ s.track.roster ≠ [] ∨
    ∃ j : StationIx, s.isArm j = true ∧
      ((s.machine j).arm = .withdrawing ∨ (s.machine j).arm = .fault)

theorem atRest_notDrained (h : s.mode = .draining → s.Undrained) : ¬ (atRest s).drained := by
  intro hdrained
  obtain ⟨hmode, hslots, hqueues, hmerge, hidle, hroster, harms⟩ := drained_iff.mp hdrained
  have hspares := (atRest_washes s).spares
  have hgate : (atRest s).gate = s.gate := (atRest_washes s).gate
  rcases h (hspares.mode.symm.trans hmode) with
    ⟨i, hslot | hqueue⟩ | hm | hg | hr | ⟨j, harm, hback⟩
  · exact hslot ((congrArg (fun x : Sales => x.saleSlots[i]) hspares.sales).symm.trans (hslots i))
  · exact hqueue ((congrArg (fun x : Gate => x.laneQueues[i]) hgate).symm.trans (hqueues i))
  · exact hm (hgate ▸ hmerge)
  · exact hg (hgate ▸ hidle)
  · have hcars := hspares.cars
    rw [hroster] at hcars
    exact hr (List.map_eq_nil_iff.mp hcars.symm)
  · have hisArm : (atRest s).isArm j = true := by
      rw [State.isArm, State.station, atRest_settings]
      exact harm
    have hback' : (atRest s).armBack j := evalIfPaceMoved_armBack s (s := enterRest s) hback
    rcases hback' with hback' | hback' <;>
      exact absurd (hback'.symm.trans (harms j hisArm)) (by decide)

/-- R72: with run demand present the conveyor starts from rest in the same event. -/
theorem exec_atRestTimerExpiry_starts (hstate : s.conv.state = .stopping)
    (htimer : s.conv.restTimer = .running left) (hd : s.runDemand = true)
    (hdrain : s.mode = .draining → s.Undrained) :
    ∃ t, exec .atRestTimerExpiry s = .next t ∧ t.conv.samples = [] ∧ t.conv.mark = none ∧
      StartedBy s.settings.timing t := by
  have hd' := (atRest_runDemand s).trans hd
  obtain ⟨hstarted, hsamples, hmark, -⟩ :=
    settle_startWarning s hd' (atRest_stopped s) (atRest_notDrained hdrain)
  rw [atRest_settings] at hstarted
  rw [atRest_conv] at hsamples hmark
  refine ⟨_, exec_atRestTimerExpiry hstate htimer, ?_⟩
  rw [testDemand_warns hd' (atRest_stopped s)]
  exact ⟨hsamples, hmark, hstarted⟩

/-! ## The stall timer (R76) -/

theorem joinEpisode_conv (c : Cause) (s : State) : (joinEpisode c s).conv = s.conv := by
  unfold joinEpisode
  repeat' split
  all_goals rfl

theorem gateHaltChange_conv (s : State) : (gateHaltChange s).conv = s.conv := by
  unfold gateHaltChange testTire
  repeat' split
  all_goals rfl

/-- R74, R141: a stop takes run demand from a RUNNING conveyor, which goes to STOPPING. -/
theorem setHalt_stopped_conv (h : s.conv.state = .running) :
    (setHalt .stopped s).conv = (startStopping s).conv := by
  have hd : (moveHalt .stopped s).runDemand = false := by simp [State.runDemand, moveHalt]
  rw [setHalt_eq, gateHaltChange_conv, haltTaken, (stationsHaltChange_washes ..).conv,
    testDemand_coasts hd h]
  rfl

/-- R76: a STOP cause that stops the tunnel sends a RUNNING conveyor to STOPPING. -/
theorem raiseCause_stopping {c : Cause} (hf : s.causesFit) (hstop : c.isStop = true)
    (subj : Subject) (hhalt : s.halt.state ≠ .stopped) (h : s.conv.state = .running) :
    (raiseCause c subj s).conv = (startStopping s).conv := by
  refine raiseCause_cases (motive := fun t => t.conv = (startStopping s).conv)
    (fun hpresent => absurd (stopped_of_hasCause hf hstop hpresent) hhalt) (fun _ => ?_)
    (fun _ _ => ?_) (fun hmoving hholding => ?_)
  · rw [if_pos hstop]
    exact setHalt_stopped_conv (s := openEpisode c subj (withCause c s)) h
  · have hjoin : (joinEpisode c (withCause c s)).conv = s.conv := joinEpisode_conv ..
    rw [setHalt_stopped_conv (hjoin ▸ h)]
    simp only [startStopping, hjoin]
  · cases hstate : s.halt.state with
    | stopped => exact absurd hstate hhalt
    | running => exact absurd hstate hmoving
    | holding => exact absurd (hholding hstate) (by simp [hstop])

/-- R76: the stall timer stops, before the cause is raised. -/
def stalled (s : State) : State := { s with conv := { s.conv with stallTimer := .stopped } }

theorem exec_stallTimerExpiry (hstate : s.conv.state = .running)
    (htimer : s.conv.stallTimer = .running left) :
    exec .stallTimerExpiry s =
      done (settleHalted s (raiseCause .conveyorStall .none (stalled s))) := by
  have hexpiry : stallExpiry s = settleHalted s (raiseCause .conveyorStall .none (stalled s)) :=
    if_pos ⟨hstate, by rw [htimer]; rfl⟩
  exact congrArg done hexpiry

/-- R52: a stopped tunnel wants no offer. -/
theorem not_asksUnpark_of_stopped (h : s.halt.state = .stopped) : ¬ s.asksUnpark :=
  fun ⟨_, _, hw, _⟩ => by
    obtain ⟨-, hrun, -⟩ := offerWanted_iff.mp hw
    simp [h] at hrun

/-- R76: the stall stops the tunnel and the conveyor. -/
theorem exec_stallTimerExpiry_stops (hstate : s.conv.state = .running)
    (htimer : s.conv.stallTimer = .running left) (hf : s.causesFit)
    (hhalt : s.halt.state ≠ .stopped) :
    ∃ t, exec .stallTimerExpiry s = .next t ∧ t.halt.state = .stopped ∧
      t.hasCause .conveyorStall = true ∧ t.conv.state = .stopping ∧ t.conv.stallTimer = .stopped ∧
      t.out.conveyorRun = false := by
  have hf' : (stalled s).causesFit := hf
  have hexec := exec_stallTimerExpiry hstate htimer
  have hstopped := raiseCause_stops hf' (c := .conveyorStall) rfl .none
  obtain ⟨hraised, -⟩ := raiseCause_causes .conveyorStall .none (stalled s)
  have hstopping := raiseCause_stopping hf' (c := .conveyorStall) rfl .none hhalt hstate
  generalize raiseCause .conveyorStall .none (stalled s) = u at hexec hstopped hraised hstopping
  have hconvState : u.conv.state = .stopping := by
    rw [hstopping]
    rfl
  have hsettle : settleHalted s u = settle s u :=
    if_neg (by rw [hstopped]; exact Ne.symm hhalt)
  have hkeeps := settle_keepsStop s u
  obtain ⟨tm, hconv⟩ := settle_conv (b := s) (not_asksUnpark_of_stopped hstopped)
    (Or.inl (Or.inr hconvState))
  obtain ⟨-, hrun⟩ := lines_of_runsOnDemand
    (settle_runsOnDemand s (runsOnDemand_idle (Or.inr hconvState)))
  rw [hsettle] at hexec
  refine ⟨_, hexec, hkeeps.stopped hstopped, hkeeps.causes _ hraised, ?_⟩
  rw [drive_conv, drive_out, hrun, hconv, hstopping]
  exact ⟨rfl, rfl, rfl⟩

/-! ## The park timer's expiry (R78) -/

/-- R78: a RUNNING conveyor as its park timer expires, before its run demand is tested. -/
def parking (s : State) : State :=
  { s with conv := { s.conv with parkTimer := .stopped, parked := true } }

theorem exec_parkTimerExpiry (htimer : s.conv.parkTimer = .running left) :
    exec .parkTimerExpiry s = done (settle s (retestDemand (parking s))) := by
  have hexpiry : parkExpiry s = settle s (retestDemand (parking s)) := if_pos (by rw [htimer]; rfl)
  exact congrArg done hexpiry

/-- R78: with no offer wanted the parked conveyor goes to STOPPING. -/
theorem exec_parkTimerExpiry_parks (hstate : s.conv.state = .running)
    (htimer : s.conv.parkTimer = .running left) (hw : s.offerWanted = false) :
    ∃ t, exec .parkTimerExpiry s = .next t ∧ t.conv.parked = true ∧ t.conv.state = .stopping ∧
      t.conv.restTimer = .running 100000 ∧ t.out.conveyorRun = false ∧
      t.out.speedReference = 0 := by
  have hd : (parking s).runDemand = false := runDemand_parked rfl
  have htest := testDemand_coasts (s := parking s) hd hstate
  have hretest : retestDemand (parking s) = startStopping (parking s) :=
    (retestDemand_samePace (by rw [htest]; rfl)).trans htest
  have hask : ¬ (startStopping (parking s)).asksUnpark :=
    fun ⟨_, _, hwanted, _⟩ => Bool.false_ne_true (hw.symm.trans hwanted)
  obtain ⟨tm, hconv⟩ := settle_conv (b := s) hask (Or.inl (Or.inr rfl))
  have hstopping : (settle s (startStopping (parking s))).conv.state = .stopping := by
    rw [hconv]
    rfl
  obtain ⟨-, hrun⟩ := lines_of_runsOnDemand (runsOnDemand_idle (Or.inr hstopping))
  have hspeed := speedReference_notRunning (s := settle s (startStopping (parking s)))
    (by simp [hstopping])
  refine ⟨_, exec_parkTimerExpiry htimer, ?_⟩
  rw [hretest, drive_conv, drive_out, hrun, hconv]
  exact ⟨rfl, rfl, rfl, rfl, hspeed⟩

/-! ## The statement -/

/-- Settles O41: run demand by its test, and each timer's expiry by what the conveyor becomes and
what the event then ends with. -/
theorem conveyorTimersExpire : Obligations.ConveyorTimersExpire := by
  unfold Obligations.ConveyorTimersExpire
  refine ⟨fun s => ⟨runDemand_iff, offerWanted_iff⟩, fun s => ⟨fun hd => ?_, fun hd => ?_⟩,
    fun left s => ?_, fun before s => ?_⟩
  · exact ⟨testDemand_keeps hd, fun h hwarn => (testDemand_warns hd h).trans (if_neg hwarn),
      fun h hwarn => (testDemand_warns hd h).trans (if_pos hwarn)⟩
  · exact ⟨testDemand_idle hd, testDemand_cancels hd, testDemand_coasts hd⟩
  · intro started undrained
    refine ⟨exec_warnTimerExpiry, fun hstate htimer hd hfree => ?_,
      fun hstate htimer hparked hnone => ?_, fun hstate htimer hparked hidle hcheck hw => ?_,
      exec_atRestTimerExpiry_starts, exec_stallTimerExpiry_stops, exec_parkTimerExpiry_parks,
      fun hstate htimer hmode hroster hidle hmerge hcheck => ?_⟩
    · have hask : ¬ s.asksUnpark := fun ⟨_, _, _, h⟩ => Bool.false_ne_true (hfree.symm.trans h)
      obtain ⟨t, tm, hexec, hconv, hhorn⟩ := exec_atRestTimerExpiry_rests hstate htimer hd hask
      refine ⟨t, hexec, ?_⟩
      rw [hconv]
      exact ⟨rfl, rfl, rfl, rfl, hhorn⟩
    · have hd := runDemand_parked hparked
      have hask : ¬ s.asksUnpark := fun ⟨hidle, hcheck, hw, _⟩ => by
        simp [hidle, hcheck, hw] at hnone
      obtain ⟨t, tm, hexec, hconv, hhorn⟩ := exec_atRestTimerExpiry_rests hstate htimer hd hask
      refine ⟨t, hexec, ?_⟩
      rw [hconv]
      exact ⟨rfl, hparked, rfl, rfl, hhorn⟩
    · have hask : s.asksUnpark := ⟨hidle, hcheck, hw, hparked⟩
      cases hchain : s.inputs.chainClosed with
      | false =>
        obtain ⟨t, hexec, hfree, hsamples, hrests⟩ :=
          exec_atRestTimerExpiry_unparks_open hstate htimer hask hchain
        exact ⟨t, hexec, hfree, hsamples, fun _ => hrests, nofun, nofun⟩
      | true =>
        obtain ⟨t, hexec, hfree, hsamples, hstarted, hoffers⟩ :=
          exec_atRestTimerExpiry_unparks_closed hstate htimer hask hchain
        exact ⟨t, hexec, hfree, hsamples, nofun, fun _ => hstarted, fun _ => hoffers⟩
    · have hconv := settle_startRunning hstate hmode hroster hidle hmerge hcheck
      refine ⟨_, exec_warnTimerExpiry hstate htimer, ?_⟩
      rw [drive_conv, hconv]
      exact ⟨rfl, rfl⟩
  · intro holds
    have hyes : ∀ {x : State}, holds x → x.parkHolds = true := parkHolds_iff.mpr
    have hno : ∀ {x : State}, ¬ holds x → x.parkHolds = false :=
      fun h => Bool.eq_false_iff.mpr fun e => h (parkHolds_iff.mp e)
    exact ⟨fun hs hb => testPark_same ((hyes hs).trans (hyes hb).symm),
      fun hs hb hpark => (testPark_starts (hyes hs) (hno hb)).trans (if_pos hpark),
      fun hs hb hpark => (testPark_starts (hyes hs) (hno hb)).trans (if_neg hpark),
      fun hs hb => testPark_stops (hno hs) (hyes hb),
      fun hs hb => testPark_same ((hno hs).trans (hno hb).symm), rfl, rfl⟩

end Sys2Proof.Machine
end

section
/-! # The roster: CONFIRM ROSTER (R111, R182) -/

namespace Sys2Proof.Machine

/-- R182: in LOCKOUT a request that it does not answer is answered LOCKED, with no other effect. -/
theorem request_locked {p : Port} {k : RequestKind} {tag : Byte} {body : List Byte} {s : State}
    (ht : s.takes p) (hp : k.permitted p.cls = true) (hl : k.lengthOk body.length = true)
    (hm : s.mode = .lockout) (hk : k.lockoutAnswers = false) :
    request k p tag body s = answered p k.code tag .locked [] (hunt p s) := by
  have hjudge : judge p ⟨k.code, tag, body⟩ (hunt p s) = (refuse .locked, hunt p s) := by
    simp [judge, hp, hl, hm, hk]
  have hfits : (Frame.mk k.code tag body).body.length ≤ Config.bodyMax := lengthOk_fits hl
  rw [request, receiveFrame_taken ht hfits, takeFrame, hjudge, replyTo_refuse]
  simp [answered]

theorem confirmRosterRequest_stopped {s : State} (h : s.halt.state = .stopped) :
    confirmRosterRequest s = (okWith [], setMoved false s) := if_pos h

theorem confirmRosterRequest_wrongState {s : State} (h : s.halt.state ≠ .stopped) :
    confirmRosterRequest s = (refuse .wrongState, s) := if_neg h

/-- Settles O38: what the request does in each halt state, and the answer of LOCKOUT. -/
theorem confirmRosterClearsTheMovedFlag : Obligations.ConfirmRosterClearsTheMovedFlag := by
  unfold Obligations.ConfirmRosterClearsTheMovedFlag
  refine fun tag s ht => ⟨fun hm hstop => ?_, fun hm hmoving => ?_, fun hm => ?_⟩
  · exact request_ok (k := .confirmRoster) ht rfl rfl (Or.inl hm)
      (confirmRosterRequest_stopped (s := hunt .console s) hstop)
  · exact request_refused (k := .confirmRoster) ht rfl rfl (Or.inl hm)
      (confirmRosterRequest_wrongState (s := hunt .console s) hmoving)
  · exact request_locked (k := .confirmRoster) ht rfl rfl hm rfl

end Sys2Proof.Machine
end

section
/-! # The roster: SET GEOMETRY, SET TIMING and SET SPEED STEPS (R68, R86, R87, R96, R97) -/

namespace Sys2Proof.Machine

variable {s : State} {b : List Byte}

/-! ## The body of SET GEOMETRY (R96, R189) -/

/-- The pairs of a SET GEOMETRY body. -/
def checkpointBytes (l : List CheckpointCfg) : List Byte :=
  l.flatMap (fun c => u16 c.position ++ u8 c.tolerance)

theorem checkpointBytes_length : ∀ l : List CheckpointCfg, (checkpointBytes l).length = 3 * l.length
  | [] => rfl
  | c :: l => by
    have ih := checkpointBytes_length l
    have hcons : checkpointBytes (c :: l) = u16 c.position ++ u8 c.tolerance ++ checkpointBytes l :=
      rfl
    simp only [hcons, List.length_append, ih, u16, u8, List.length_cons, List.length_nil]
    omega

theorem parseCheckpoints_checkpointBytes : ∀ {l : List CheckpointCfg},
    (∀ x ∈ l, x.position < 65536 ∧ x.tolerance < 256) → parseCheckpoints (checkpointBytes l) = l
  | [], _ => rfl
  | c :: l, h => by
    obtain ⟨hposition, htolerance⟩ := h c List.mem_cons_self
    have ih := parseCheckpoints_checkpointBytes fun x hx => h x (List.mem_cons_of_mem c hx)
    have hword : c.position / 256 % 256 * 256 + c.position % 256 = c.position := by omega
    have hcons : parseCheckpoints (checkpointBytes (c :: l)) =
        ⟨c.position / 256 % 256 * 256 + c.position % 256, c.tolerance % 256⟩ ::
          parseCheckpoints (checkpointBytes l) := rfl
    rw [hcons, ih, hword, Nat.mod_eq_of_lt htolerance]

/-- A body of m pairs gives m checkpoints. -/
theorem parseCheckpoints_length : ∀ {m : Nat} {l : List Byte}, l.length = 3 * m →
    (parseCheckpoints l).length = m
  | 0, l, h => by rw [List.length_eq_zero_iff.mp h]; rfl
  | m + 1, x :: y :: z :: l, h => by
    have ih := parseCheckpoints_length (m := m) (l := l) (by simp only [List.length_cons] at h; omega)
    simp [parseCheckpoints, ih]
  | m + 1, [], h => by simp at h
  | m + 1, [_], h => by simp at h; omega
  | m + 1, [_, _], h => by simp at h; omega

theorem rising_iff : ∀ {l : List CheckpointCfg},
    rising l = true ↔ l.Pairwise (fun a b => a.position < b.position)
  | [] => by simp [rising]
  | [x] => by simp [rising]
  | x :: y :: l => by
    have ih := rising_iff (l := y :: l)
    simp only [rising, Bool.and_eq_true, decide_eq_true_eq, ih]
    rw [List.pairwise_cons (l := y :: l)]
    refine and_congr_left fun hrest => ⟨fun h z hz => ?_, fun h => h y List.mem_cons_self⟩
    rcases List.mem_cons.mp hz with rfl | hz
    · exact h
    · exact h.trans ((List.pairwise_cons.mp hrest).1 z hz)

/-- R96, R97: the values of a geometry in their ranges, in agreement with one another, with MaxLen and
with every station. -/
abbrev State.GeometryFits (s : State) (g : Geometry) : Prop :=
  200 ≤ g.exitPos ∧ g.exitPos ≤ 8000 ∧ 2 ≤ g.exitTol ∧ g.exitTol ≤ 50 ∧
    10 ≤ g.exitGuard ∧ g.exitGuard ≤ 500 ∧
    (∀ x ∈ g.checkpoints, 2 ≤ x.tolerance ∧ x.tolerance ≤ 50 ∧
      s.settings.timing.maxLen + x.tolerance < x.position ∧
      x.position + x.tolerance + g.exitTol < g.exitPos) ∧
    g.checkpoints.Pairwise (fun a b => a.position < b.position) ∧
    (∀ j : StationIx, (s.station j).offset + (s.station j).post ≤ g.exitPos)

/-- The rows of the station table are the stations' settings. -/
theorem mem_stations_iff {p : StationCfg → Prop} :
    (∀ x ∈ s.settings.stations.toList, p x) ↔ ∀ j : StationIx, p (s.station j) := by
  constructor
  · exact fun h j => h _ (Vector.mem_toList_iff.mpr (Vector.getElem_mem j.isLt))
  · intro h x hx
    obtain ⟨i, hi, rfl⟩ := Vector.getElem_of_mem (Vector.mem_toList_iff.mp hx)
    exact h ⟨i, hi⟩

section
variable {g : Geometry} (hn : g.checkpoints.length ≤ 4) (hx : g.exitPos < 65536)
  (ht : g.exitTol < 256) (hg : g.exitGuard < 65536)
  (hc : ∀ x ∈ g.checkpoints, x.position < 65536 ∧ x.tolerance < 256)
include hn hx ht hg hc

/-- What the body of a geometry reads as. -/
theorem parseGeometry_geometryBody (s : State) :
    (s.GeometryFits g → parseGeometry (geometryBody g) s = some g) ∧
      (¬ s.GeometryFits g → parseGeometry (geometryBody g) s = none) := by
  have hlength : g.checkpoints.length < 256 := by omega
  have hexit : wordAt (geometryBody g) 0 = g.exitPos := by simp [geometryBody, u16, hx]
  have htol : byteAt (geometryBody g) 2 = g.exitTol := by
    simp [geometryBody, u8, u16, Nat.mod_eq_of_lt ht]
  have hguard : wordAt (geometryBody g) 3 = g.exitGuard := by simp [geometryBody, u8, u16, hg]
  have hcount : byteAt (geometryBody g) 5 = g.checkpoints.length := by
    simp [geometryBody, u8, u16, Nat.mod_eq_of_lt hlength]
  have hpairs : parseCheckpoints ((geometryBody g).drop 6) = g.checkpoints :=
    parseCheckpoints_checkpointBytes hc
  have hread : parseGeometry (geometryBody g) s = if s.GeometryFits g then some g else none := by
    simp only [parseGeometry, hexit, htol, hguard, hcount, hpairs, mem_stations_iff, rising_iff,
      inRange_iff, CheckpointCfg.clearOf, Bool.and_eq_true, List.all_eq_true, decide_eq_true_eq,
      beq_self_eq_true, hn, and_true, and_assoc]
  rw [hread]
  exact ⟨fun h => if_pos h, fun h => if_neg h⟩

end

theorem geometryBody_lengthOk {g : Geometry} (hn : g.checkpoints.length ≤ 4) :
    RequestKind.setGeometry.lengthOk (geometryBody g).length = true := by
  have hlength : (geometryBody g).length = 6 + (checkpointBytes g.checkpoints).length := by
    have hbody : geometryBody g = u16 g.exitPos ++ u8 g.exitTol ++ u16 g.exitGuard ++
        u8 g.checkpoints.length ++ checkpointBytes g.checkpoints := rfl
    rw [hbody]
    simp only [List.length_append, u16, u8, List.length_cons, List.length_nil]
  rw [hlength, checkpointBytes_length]
  generalize g.checkpoints.length = n at hn
  interval_cases n <;> rfl

/-! ## SET GEOMETRY (R96) -/

/-- R96: a count that is not that of the pairs. -/
theorem parseGeometry_badCount {m : Nat} (hb : b.length = 6 + 3 * m) (h : byteAt b 5 ≠ m) :
    parseGeometry b s = none := by
  have hpairs : (parseCheckpoints (b.drop 6)).length = m :=
    parseCheckpoints_length (by simp only [List.length_drop]; omega)
  have hcount : ((parseCheckpoints (b.drop 6)).length == byteAt b 5) = false := by
    simpa [hpairs] using Ne.symm h
  simp [parseGeometry, hcount]

theorem settable_iff : s.settable = true ↔ s.mode = .setup ∨ s.mode = .closed := by
  simp [State.settable]

theorem setGeometryRequest_wrongState (h : s.mode = .openMode ∨ s.mode = .draining) :
    setGeometryRequest b s = (refuse .wrongState, s) := by
  rcases h with h | h <;> simp [setGeometryRequest, State.settable, h]

section
variable (hm : s.mode = .setup ∨ s.mode = .closed)
include hm

theorem setGeometryRequest_outOfRange (h : parseGeometry b s = none) :
    setGeometryRequest b s = (refuse .outOfRange, s) := by
  simp [setGeometryRequest, settable_iff.mpr hm, h]

theorem setGeometryRequest_busy {g : Geometry} (h : parseGeometry b s = some g)
    (hs : s.store.save ≠ none) : setGeometryRequest b s = (refuse .busy, s) := by
  simp [setGeometryRequest, settable_iff.mpr hm, h, saving_eq_true hs]

theorem setGeometryRequest_ok {g : Geometry} (h : parseGeometry b s = some g)
    (hs : s.store.save = none) : setGeometryRequest b s =
      (okWith [], { s with settings := { s.settings with geometry := g } }) := by
  simp [setGeometryRequest, settable_iff.mpr hm, h, saving_eq_false hs]

end

/-! ## The body of SET TIMING (R68, R87, R97, R189) -/

/-- R68, R87, R97, R197: the timing settings in their ranges, in agreement with one another and with
every checkpoint. -/
abbrev State.TimingFits (s : State) (x : Timing) : Prop :=
  30 ≤ x.pendingTime ∧ x.pendingTime ≤ 600 ∧ x.memberInterval ≤ 1440 ∧
    1 ≤ x.lookupTime ∧ x.lookupTime ≤ 30 ∧ 10 ≤ x.offerTime ∧ x.offerTime ≤ 300 ∧
    10 ≤ x.loadDistance ∧ x.loadDistance ≤ 200 ∧ 1 ≤ x.settle ∧ x.settle ≤ 32 ∧
    50 ≤ x.minLen ∧ x.minLen ≤ 300 ∧ 150 ≤ x.maxLen ∧ x.maxLen ≤ 600 ∧ 10 ≤ x.minGap ∧
    x.minGap ≤ 500 ∧ x.warnTime ≤ 10 ∧ 500 ≤ x.stallTime ∧ x.stallTime ≤ 5000 ∧
    x.parkTime ≤ 600 ∧ 500 ≤ x.nominalPeriod ∧ 5 ≤ x.pitch ∧ x.pitch ≤ 100 ∧
    x.minLen ≤ x.maxLen ∧
    (∀ g ∈ s.settings.geometry.checkpoints, x.maxLen + g.tolerance < g.position)

/-- Every value of a timing body has the size that R189 gives it. -/
structure Timing.Sized (x : Timing) : Prop where
  pendingTime : x.pendingTime < 65536
  memberInterval : x.memberInterval < 65536
  lookupTime : x.lookupTime < 256
  offerTime : x.offerTime < 65536
  loadDistance : x.loadDistance < 256
  settle : x.settle < 256
  minLen : x.minLen < 65536
  maxLen : x.maxLen < 65536
  minGap : x.minGap < 65536
  warnTime : x.warnTime < 256
  stallTime : x.stallTime < 65536
  parkTime : x.parkTime < 65536
  nominalPeriod : x.nominalPeriod < 65536
  pitch : x.pitch < 256

theorem timingOf_timingBody {x : Timing} (h : x.Sized) : timingOf (timingBody x) x.waveRow = x := by
  simp [timingOf, timingBody, u8, u16, h.pendingTime, h.memberInterval, Nat.mod_eq_of_lt h.lookupTime,
    h.offerTime, Nat.mod_eq_of_lt h.loadDistance, Nat.mod_eq_of_lt h.settle, h.minLen, h.maxLen,
    h.minGap, Nat.mod_eq_of_lt h.warnTime, h.stallTime, h.parkTime, h.nominalPeriod,
    Nat.mod_eq_of_lt h.pitch]

theorem timingBody_length (x : Timing) : (timingBody x).length = 24 := by
  simp [timingBody, u8, u16]

/-- What the body of the timing settings reads as. -/
theorem parseTiming_timingBody {x : Timing} (h : x.Sized) (s : State) :
    (s.TimingFits x →
        parseTiming (timingBody x) s.settings.geometry.checkpoints = some x) ∧
      (¬ s.TimingFits x →
        parseTiming (timingBody x) s.settings.geometry.checkpoints = none) := by
  have hwave : x.waveRow.val < 256 := by omega
  have hrow : fin? 32 (byteAt (timingBody x) 15) = some x.waveRow := by
    refine fin?_eq_some.mpr ?_
    simp [timingBody, u8, u16, Nat.mod_eq_of_lt hwave]
  have hperiod : x.nominalPeriod ≤ 65535 := Nat.le_of_lt_succ h.nominalPeriod
  have hread : parseTiming (timingBody x) s.settings.geometry.checkpoints =
      if s.TimingFits x then some x else none := by
    simp only [parseTiming, hrow, timingOf_timingBody h, Timing.valid, inRange_iff,
      CheckpointCfg.clearOf, Bool.and_eq_true, List.all_eq_true, decide_eq_true_eq, Nat.zero_le,
      true_and, hperiod, and_true, and_assoc]
  rw [hread]
  exact ⟨fun h => if_pos h, fun h => if_neg h⟩

/-! ## SET TIMING (R68, R81, R87, R97, R118) -/

theorem parseTiming_badRow (h : 31 < byteAt b 15) (cps : List CheckpointCfg) :
    parseTiming b cps = none := by
  simp [parseTiming, fin?_eq_none.mpr (Nat.succ_le_of_lt h)]

theorem setTimingRequest_outOfRange (h : parseTiming b s.settings.geometry.checkpoints = none) :
    setTimingRequest b s = (refuse .outOfRange, s) := by
  simp [setTimingRequest, h]

/-- The part with new timing settings. -/
def withTiming (x : Timing) (s : State) : State :=
  { s with settings := { s.settings with timing := x } }

section
variable {x : Timing} (h : parseTiming b s.settings.geometry.checkpoints = some x)
include h

theorem setTimingRequest_busy (hs : s.store.save ≠ none) :
    setTimingRequest b s = (refuse .busy, s) := by
  simp [setTimingRequest, h, saving_eq_true hs]

theorem setTimingRequest_samePace (hs : s.store.save = none)
    (hpace : (withTiming x s).avgPeriod = s.avgPeriod) :
    setTimingRequest b s = (okWith [], withTiming x s) := by
  simp only [withTiming] at hpace
  simp [setTimingRequest, h, saving_eq_false hs, hpace, withTiming]

theorem setTimingRequest_newPace (hs : s.store.save = none)
    (hpace : (withTiming x s).avgPeriod ≠ s.avgPeriod) :
    setTimingRequest b s = (okWith [], settleDrain s (evaluate (withTiming x s))) := by
  simp only [withTiming] at hpace
  simp [setTimingRequest, h, saving_eq_false hs, hpace, evalIfPaceMoved, withTiming]

end

/-- R81: NominalPeriod is the averaged period only where no sample is held. -/
theorem avgPeriod_withTiming {x : Timing} (h : s.conv.samples ≠ [] ∨
    x.nominalPeriod = s.settings.timing.nominalPeriod) :
    (withTiming x s).avgPeriod = s.avgPeriod := by
  by_cases hsamples : s.conv.samples = []
  · rw [avgPeriod_noSamples (s := withTiming x s) hsamples, avgPeriod_noSamples hsamples]
    exact h.resolve_left (not_not_intro hsamples)
  · rw [avgPeriod_samples (s := withTiming x s) hsamples, avgPeriod_samples hsamples]
    rfl

/-- R68, R87, R97: SET TIMING, in every mode but LOCKOUT. -/
theorem exec_setTiming (tag : Byte) (ht : s.takes .site) (hm : s.mode ≠ .lockout)
    (hb : b.length = 24) :
    (parseTiming b s.settings.geometry.checkpoints = none → exec (.setTiming .site tag b) s =
      answered .site 0x44 tag .outOfRange [] (hunt .site s)) ∧
    ∀ x, parseTiming b s.settings.geometry.checkpoints = some x →
      (s.store.save ≠ none → exec (.setTiming .site tag b) s =
        answered .site 0x44 tag .busy [] (hunt .site s)) ∧
      (s.store.save = none → (s.conv.samples ≠ [] ∨
          x.nominalPeriod = s.settings.timing.nominalPeriod) →
        exec (.setTiming .site tag b) s =
          answered .site 0x44 tag .ok [] (withTiming x (hunt .site s))) ∧
      (s.store.save = none → s.conv.samples = [] →
        x.nominalPeriod ≠ s.settings.timing.nominalPeriod →
        exec (.setTiming .site tag b) s = answered .site 0x44 tag .ok []
          (settleDrain (hunt .site s) (evaluate (withTiming x (hunt .site s))))) := by
  have hlen : RequestKind.setTiming.lengthOk b.length = true := by simp [RequestKind.lengthOk, hb]
  refine ⟨fun hp => ?_, fun x hp => ⟨fun hs => ?_, fun hs hpace => ?_, fun hs hnone hperiod => ?_⟩⟩
  · exact request_refused (k := .setTiming) ht rfl hlen (Or.inl hm)
      (setTimingRequest_outOfRange (s := hunt .site s) hp)
  · exact request_refused (k := .setTiming) ht rfl hlen (Or.inl hm)
      (setTimingRequest_busy (s := hunt .site s) hp hs)
  · exact request_ok (k := .setTiming) ht rfl hlen (Or.inl hm)
      (setTimingRequest_samePace (s := hunt .site s) hp hs
        (avgPeriod_withTiming (s := hunt .site s) hpace))
  · refine request_ok (k := .setTiming) ht rfl hlen (Or.inl hm)
      (setTimingRequest_newPace (s := hunt .site s) hp hs ?_)
    rw [avgPeriod_noSamples (s := withTiming x (hunt .site s)) hnone,
      avgPeriod_noSamples (s := hunt .site s) hnone]
    exact hperiod

/-! ## SET SPEED STEPS (R86) -/

/-- R86: the thresholds rise in their range, and the speeds lie in theirs. -/
abbrev SpeedSteps.Fits (x : SpeedSteps) : Prop :=
  1 ≤ x.t1 ∧ x.t1 < x.t2 ∧ x.t2 < x.t3 ∧ x.t3 ≤ 24 ∧
    ∀ k : Fin 4, 100 ≤ x.speeds[k] ∧ x.speeds[k] ≤ 1000

/-- What the body of the speed steps reads as. -/
theorem parseSteps_stepsBody {x : SpeedSteps} (h1 : x.t1 < 256) (h2 : x.t2 < 256) (h3 : x.t3 < 256)
    (hv : ∀ k : Fin 4, x.speeds[k] < 65536) :
    (x.Fits → parseSteps (stepsBody x) = some x) ∧
      (¬ x.Fits → parseSteps (stepsBody x) = none) := by
  have hread1 : byteAt (stepsBody x) 0 = x.t1 := by
    simp [stepsBody, u8, Nat.mod_eq_of_lt h1]
  have hread2 : byteAt (stepsBody x) 1 = x.t2 := by
    simp [stepsBody, u8, Nat.mod_eq_of_lt h2]
  have hread3 : byteAt (stepsBody x) 2 = x.t3 := by
    simp [stepsBody, u8, Nat.mod_eq_of_lt h3]
  have hwords : wordAt (stepsBody x) 3 = x.speeds[0] ∧ wordAt (stepsBody x) 5 = x.speeds[1] ∧
      wordAt (stepsBody x) 7 = x.speeds[2] ∧ wordAt (stepsBody x) 9 = x.speeds[3] := by
    have hv0 : x.speeds[0] < 65536 := hv 0
    have hv1 : x.speeds[1] < 65536 := hv 1
    have hv2 : x.speeds[2] < 65536 := hv 2
    have hv3 : x.speeds[3] < 65536 := hv 3
    simp [stepsBody, u8, u16, hv0, hv1, hv2, hv3]
  obtain ⟨hword0, hword1, hword2, hword3⟩ := hwords
  have hspeeds : #v[x.speeds[0], x.speeds[1], x.speeds[2], x.speeds[3]] = x.speeds := by
    ext i hi
    interval_cases i <;> rfl
  have hread : parseSteps (stepsBody x) = if x.Fits then some x else none := by
    simp only [parseSteps, hread1, hread2, hread3, hword0, hword1, hword2, hword3, hspeeds, inRange_iff,
      Bool.and_eq_true, decide_eq_true_eq]
    refine if_congr ?_ rfl rfl
    simp only [SpeedSteps.Fits, Fin.forall_fin_succ]
    simp
    omega
  rw [hread]
  exact ⟨fun h => if_pos h, fun h => if_neg h⟩

theorem setSpeedStepsRequest_outOfRange (h : parseSteps b = none) :
    setSpeedStepsRequest b s = (refuse .outOfRange, s) := by
  simp [setSpeedStepsRequest, h]

theorem setSpeedStepsRequest_busy {x : SpeedSteps} (h : parseSteps b = some x)
    (hs : s.store.save ≠ none) : setSpeedStepsRequest b s = (refuse .busy, s) := by
  simp [setSpeedStepsRequest, h, saving_eq_true hs]

theorem setSpeedStepsRequest_ok {x : SpeedSteps} (h : parseSteps b = some x)
    (hs : s.store.save = none) : setSpeedStepsRequest b s =
      (okWith [], { s with settings := { s.settings with steps := x } }) := by
  simp [setSpeedStepsRequest, h, saving_eq_false hs]

/-- Settles O40: what each body reads as, with what the three requests do with it. -/
theorem geometryTimingAndStepsAreWritten : Obligations.GeometryTimingAndStepsAreWritten := by
  unfold Obligations.GeometryTimingAndStepsAreWritten
  refine ⟨fun tag g s ht hn hx htol hg hc => ?_, fun tag b m s ht hm hcount hb h => ?_,
    fun tag s ht hmode => ⟨fun b hb hrow => ?_, ?_, ?_⟩⟩
  · have hlen := geometryBody_lengthOk hn
    obtain ⟨hfits, hunfit⟩ := parseGeometry_geometryBody hn hx htol hg hc (hunt .site s)
    refine ⟨fun hopen => ?_, fun hm => ⟨fun hf => ?_, fun hf hs => ?_, fun hf hs => ?_⟩⟩
    · exact request_refused (k := .setGeometry) ht rfl hlen
        (Or.inl (by rcases hopen with h | h <;> simp [h]))
        (setGeometryRequest_wrongState (s := hunt .site s) hopen)
    · exact request_refused (k := .setGeometry) ht rfl hlen
        (Or.inl (by rcases hm with h | h <;> simp [h]))
        (setGeometryRequest_outOfRange (s := hunt .site s) hm (hunfit hf))
    · exact request_refused (k := .setGeometry) ht rfl hlen
        (Or.inl (by rcases hm with h | h <;> simp [h]))
        (setGeometryRequest_busy (s := hunt .site s) hm (hfits hf) hs)
    · exact request_ok (k := .setGeometry) ht rfl hlen
        (Or.inl (by rcases hm with h | h <;> simp [h]))
        (setGeometryRequest_ok (s := hunt .site s) hm (hfits hf) hs)
  · have hlen : RequestKind.setGeometry.lengthOk b.length = true := by
      rw [hb]
      interval_cases m <;> rfl
    exact request_refused (k := .setGeometry) ht rfl hlen
      (Or.inl (by rcases hm with h | h <;> simp [h]))
      (setGeometryRequest_outOfRange (s := hunt .site s) hm (parseGeometry_badCount hb h))
  · obtain ⟨hout, -⟩ := exec_setTiming tag ht hmode hb
    exact hout (parseTiming_badRow hrow _)
  · intro x h1 h2 h3 h4 h5 h6 h7 h8 h9 h10 h11 h12 h13 h14 fits c u
    obtain ⟨hfits, hunfit⟩ :=
      parseTiming_timingBody ⟨h1, h2, h3, h4, h5, h6, h7, h8, h9, h10, h11, h12, h13, h14⟩ s
    obtain ⟨hout, hread⟩ := exec_setTiming tag ht hmode (timingBody_length x)
    refine ⟨fun hf => hout (hunfit hf), fun hf => ?_, fun hf => ?_, fun hf => ?_⟩ <;>
      obtain ⟨hbusy, hsame, hnew⟩ := hread x (hfits hf)
    · exact hbusy
    · exact hsame
    · exact hnew
  · intro x h1 h2 h3 hv fits c
    obtain ⟨hfits, hunfit⟩ := parseSteps_stepsBody h1 h2 h3 hv
    refine ⟨fun hf => ?_, fun hf hs => ?_, fun hf hs => ?_⟩
    · exact request_refused (k := .setSpeedSteps) ht rfl rfl (Or.inl hmode)
        (setSpeedStepsRequest_outOfRange (hunfit hf))
    · exact request_refused (k := .setSpeedSteps) ht rfl rfl (Or.inl hmode)
        (setSpeedStepsRequest_busy (s := hunt .site s) (hfits hf) hs)
    · exact request_ok (k := .setSpeedSteps) ht rfl rfl (Or.inl hmode)
        (setSpeedStepsRequest_ok (s := hunt .site s) (hfits hf) hs)

end Sys2Proof.Machine
end

section
/-! # The roster: a car that leaves (R61, R106, R107)

What a removal does to the other records, and what leaves the cars, the tickets and the books (the
credits, the finished lists and the member table) alone: no cause, no move of the halt state and none
of the tests that end an event writes a book or moves a car. -/

namespace Sys2Proof.Machine

variable {s t u : State} {n m : Nat} {r : Result}

/-! ## The books (R20, R38, R40) -/

/-- The records that a retirement alone writes. -/
def books (s : State) := (s.credits, s.sales.finished, s.memb)

theorem Washes.books (h : Washes s t) : books t = books s := by
  obtain ⟨r, m, rfl, -⟩ := h
  rfl

theorem testDemand_books (s : State) : books (testDemand s) = books s := by
  unfold testDemand startWarning
  repeat' split
  all_goals rfl

theorem gateHaltChange_books (s : State) : books (gateHaltChange s) = books s := by
  unfold gateHaltChange testTire
  repeat' split
  all_goals rfl

theorem setHalt_books (new : HaltState) (s : State) : books (setHalt new s) = books s := by
  rw [setHalt_eq, gateHaltChange_books, haltTaken, (stationsHaltChange_washes ..).books,
    testDemand_books]
  rfl

theorem joinEpisode_books (c : Cause) (s : State) : books (joinEpisode c s) = books s := by
  unfold joinEpisode
  repeat' split
  all_goals rfl

theorem closeEpisode_books (b : EndedBy) (s : State) : books (closeEpisode b s) = books s := by
  unfold closeEpisode
  repeat' split
  all_goals rfl

theorem raiseCause_books (c : Cause) (subj : Subject) (s : State) :
    books (raiseCause c subj s) = books s := by
  refine raiseCause_cases (motive := fun t => books t = books s) (fun _ => rfl) (fun _ => ?_)
    (fun _ _ => ?_) (fun _ _ => ?_)
  · rw [setHalt_books]
    rfl
  · rw [setHalt_books, joinEpisode_books]
    rfl
  · rw [joinEpisode_books]
    rfl

theorem clearCause_books (c : Cause) (s : State) : books (clearCause c s) = books s := by
  unfold clearCause
  dsimp only
  repeat' split
  · rw [setHalt_books, closeEpisode_books]
    rfl
  · rfl
  · rfl

theorem testExitBlocked_books (s : State) : books (testExitBlocked s) = books s := by
  unfold testExitBlocked
  split
  · exact raiseCause_books ..
  · rfl

theorem testSpacing_books (s : State) : books (testSpacing s) = books s := by
  unfold testSpacing
  split <;> rfl

theorem rosterChanged_books (s : State) : books (rosterChanged s) = books s := by
  rw [rosterChanged, testSpacing_books, (evaluate_washes _).books, testExitBlocked_books]

theorem retestDemand_books (s : State) : books (retestDemand s) = books s :=
  ((evalIfPaceMoved_washes s _).books).trans (testDemand_books s)

theorem testTire_books (s : State) : books (testTire s) = books s := by
  unfold testTire
  split <;> rfl

theorem testIdleOnce_books (s : State) : books (testIdleOnce s) = books s := by
  unfold testIdleOnce
  repeat' split
  all_goals first
    | rfl
    | exact (testTire_books _).trans rfl
    | exact (retestDemand_books _).trans rfl

theorem testDrain_books (s : State) : books (testDrain s) = books s := by
  unfold testDrain
  split
  · rw [retestDemand_books]
    rfl
  · rfl

theorem testPark_books (b s : State) : books (testPark b s) = books s := by
  unfold testPark
  repeat' split
  all_goals rfl

/-- What an event ends with writes no book. -/
theorem settle_books (b s : State) : books (settle b s) = books s := by
  rw [settle, settleDrain, testPark_books, testDrain_books, testIdle, testIdleOnce_books,
    testIdleOnce_books]

/-! ## A retirement (R22) -/

/-- A retirement writes the sales, the member table, the credits and the ports. -/
theorem retireTicket_writes (n : Nat) (r : Result) (s : State) : ∃ a m c p,
    retireTicket n r s = { s with sales := a, memb := m, credits := c, ports := p } := by
  unfold retireTicket issueCredit dropOldestCredit
  dsimp only
  repeat' split
  all_goals exact ⟨_, _, _, _, rfl⟩

/-- What a retirement reads. -/
def ledger (s : State) := (s.sales, s.credits, s.memb)

theorem issueCredit_ledger (h : ledger u = ledger s) (k : Ticket) (r : Result) :
    ledger (issueCredit k r u) = ledger (issueCredit k r s) := by
  simp only [ledger, Prod.mk.injEq] at h
  obtain ⟨hsales, hcredits, hmemb⟩ := h
  unfold issueCredit dropOldestCredit State.stamp
  simp only [hcredits, hsales]
  split
  · split <;> simp [ledger, raiseTo, hcredits, hsales, hmemb]
  · simp [ledger, hsales, hcredits, hmemb]

theorem unstamped_ledger (h : ledger u = ledger s) (k : Ticket) (r : Result) :
    ledger (unstamped k r u) = ledger (unstamped k r s) := by
  simp only [ledger, Prod.mk.injEq] at h
  obtain ⟨hsales, hcredits, hmemb⟩ := h
  unfold unstamped clearStamp
  repeat' split
  all_goals simp [ledger, hsales, hcredits, hmemb]

theorem leaveTable_ledger (h : ledger u = ledger s) (n : Nat) (k : Ticket) (r : Result)
    (credit : Option Nat) : ledger (leaveTable n k r credit u) = ledger (leaveTable n k r credit s) := by
  simp only [ledger, Prod.mk.injEq] at h
  obtain ⟨hsales, hcredits, hmemb⟩ := h
  unfold leaveTable pushFinished freeTicket
  split <;> simp [ledger, hsales, hcredits, hmemb]

/-- A retirement does the same to the ledger wherever the ledger is the same. -/
theorem retireTicket_ledger (h : ledger u = ledger s) (n : Nat) (r : Result) :
    ledger (retireTicket n r u) = ledger (retireTicket n r s) := by
  have hticket : u.ticket? n = s.ticket? n := by
    simp only [ledger, Prod.mk.injEq] at h
    obtain ⟨hsales, -⟩ := h
    exact ticket?_congr (congrArg Sales.slots hsales) n
  cases hk : s.ticket? n with
  | none => simpa [retireTicket, hticket, hk] using h
  | some k =>
    by_cases he : Earns k r
    · rw [retireTicket_earning (hticket.trans hk) he, retireTicket_earning hk he]
      exact leaveTable_ledger (issueCredit_ledger h k r) ..
    · rw [retireTicket_plain (hticket.trans hk) he, retireTicket_plain hk he]
      exact leaveTable_ledger (unstamped_ledger h k r) ..

theorem books_of_ledger (h : ledger t = ledger s) : books t = books s := by
  simp only [ledger, Prod.mk.injEq] at h
  obtain ⟨hsales, hcredits, hmemb⟩ := h
  simp only [books, hsales, hcredits, hmemb]

/-- The retired number is in the table no more. -/
theorem ticket?_retired (n : Nat) (r : Result) (s : State) : (retireTicket n r s).ticket? n = none := by
  cases hk : s.ticket? n with
  | none => simp [retireTicket, hk]
  | some k => rw [ticket?_retireTicket hk, ticket?_freeTicket_same]

theorem ticket?_retired_other (h : m ≠ n) (r : Result) (s : State) :
    (retireTicket n r s).ticket? m = s.ticket? m := by
  cases hk : s.ticket? n with
  | none => simp [retireTicket, hk]
  | some k => rw [ticket?_retireTicket hk, ticket?_freeTicket_other h]

/-! ## A removal (R61, R106) -/

/-- R61: the gate measures the car of ticket n. -/
def State.Measures (s : State) (n : Nat) : Prop :=
  s.gate.state = .measuring ∧ ∃ x ∈ s.track.roster, x.ticket = n ∧ x.length = none

/-- R61: the gate once it has abandoned its measurement. -/
def abandonedGate (g : Gate) : Gate :=
  { g with state := .idle, measCount := 0, restoreCount := 0, settleCount := 0, tailgated := false }

/-- R106: the entry gone and its ticket retired, before GATE and STN take it. -/
def carOut (n : Nat) (r : Result) (s : State) : State :=
  retireTicket n r (setRoster (s.track.roster.filter (fun c => c.ticket ≠ n)) s)

theorem measured_iff : (s.gate.state == .measuring &&
    s.track.roster.any (fun c => c.ticket == n && c.length.isNone)) = true ↔ s.Measures n := by
  simp [State.Measures]

theorem dropCar_measured (h : s.Measures n) :
    dropCar n r s = evaluate (abandonMeasure (carOut n r s)) :=
  congrArg evaluate (if_pos (measured_iff.mpr h))

theorem dropCar_unmeasured (h : ¬ s.Measures n) : dropCar n r s = evaluate (carOut n r s) :=
  congrArg evaluate (if_neg fun e => h (measured_iff.mp e))

/-- What a removal leaves, and what the other blocks see of the roster after it. -/
structure Removes (n : Nat) (s t : State) : Prop where
  cars : t.track.roster.map Car.sight =
    (s.track.roster.filter (fun c => c.ticket ≠ n)).map Car.sight
  moved : t.track.moved = s.track.moved
  halt : t.halt = s.halt
  conv : t.conv = s.conv
  settings : t.settings = s.settings
  inputs : t.inputs = s.inputs
  mode : t.mode = s.mode

theorem carOut_removes (n : Nat) (r : Result) (s : State) : Removes n s (carOut n r s) := by
  obtain ⟨a, m, c, p, hwrites⟩ :=
    retireTicket_writes n r (setRoster (s.track.roster.filter (fun c => c.ticket ≠ n)) s)
  rw [carOut, hwrites]
  exact ⟨rfl, rfl, rfl, rfl, rfl, rfl, rfl⟩

theorem carOut_gate (n : Nat) (r : Result) (s : State) : (carOut n r s).gate = s.gate := by
  obtain ⟨a, m, c, p, hwrites⟩ :=
    retireTicket_writes n r (setRoster (s.track.roster.filter (fun c => c.ticket ≠ n)) s)
  rw [carOut, hwrites]
  rfl

theorem Removes.washes (h : Removes n s t) (k : Washes t u) : Removes n s u where
  cars := k.spares.cars.trans h.cars
  moved := k.spares.moved.trans h.moved
  halt := k.halt.trans h.halt
  conv := k.conv.trans h.conv
  settings := k.spares.settings.trans h.settings
  inputs := k.spares.inputs.trans h.inputs
  mode := k.spares.mode.trans h.mode

theorem dropCar_removes (n : Nat) (r : Result) (s : State) : Removes n s (dropCar n r s) := by
  have hout := carOut_removes n r s
  by_cases h : s.Measures n
  · have habandons : Removes n s (abandonMeasure (carOut n r s)) :=
      ⟨hout.cars, hout.moved, hout.halt, hout.conv, hout.settings, hout.inputs, hout.mode⟩
    rw [dropCar_measured h]
    exact habandons.washes (evaluate_washes _)
  · rw [dropCar_unmeasured h]
    exact hout.washes (evaluate_washes _)

theorem dropCar_keepsStop (n : Nat) (r : Result) (s : State) : KeepsStop s (dropCar n r s) :=
  keepsStop_of_halt (dropCar_removes n r s).moved (dropCar_removes n r s).halt

theorem dropCar_gate_measured (h : s.Measures n) :
    (dropCar n r s).gate = abandonedGate s.gate := by
  rw [dropCar_measured h, (evaluate_washes _).gate, ← carOut_gate n r s]
  rfl

theorem dropCar_gate_unmeasured (h : ¬ s.Measures n) : (dropCar n r s).gate = s.gate := by
  rw [dropCar_unmeasured h, (evaluate_washes _).gate, carOut_gate]

/-- Of the books and the tickets a removal is the retirement. -/
theorem dropCar_ledger (n : Nat) (r : Result) (s : State) :
    ledger (dropCar n r s) = ledger (retireTicket n r s) := by
  have hwashed : ∀ {u v : State}, Washes u v → ledger v = ledger u := by
    rintro u v ⟨l, m, rfl, -⟩
    rfl
  have hout : ledger (carOut n r s) = ledger (retireTicket n r s) :=
    retireTicket_ledger (s := s)
      (u := setRoster (s.track.roster.filter (fun c => c.ticket ≠ n)) s) rfl n r
  by_cases h : s.Measures n
  · rw [dropCar_measured h, hwashed (evaluate_washes _)]
    exact hout
  · rw [dropCar_unmeasured h, hwashed (evaluate_washes _)]
    exact hout

theorem dropCar_books (n : Nat) (r : Result) (s : State) :
    books (dropCar n r s) = books (retireTicket n r s) := books_of_ledger (dropCar_ledger n r s)

theorem ticket?_dropCar_retired (n m : Nat) (r : Result) (s : State) :
    (dropCar n r s).ticket? m = (retireTicket n r s).ticket? m := by
  have h := dropCar_ledger n r s
  simp only [ledger, Prod.mk.injEq] at h
  obtain ⟨hsales, -⟩ := h
  exact ticket?_congr (congrArg Sales.slots hsales) m

theorem ticket?_dropCar (n : Nat) (r : Result) (s : State) : (dropCar n r s).ticket? n = none := by
  rw [ticket?_dropCar_retired, ticket?_retired]

theorem ticket?_dropCar_other (h : m ≠ n) (r : Result) (s : State) :
    (dropCar n r s).ticket? m = s.ticket? m := by
  rw [ticket?_dropCar_retired, ticket?_retired_other h]

/-! ## A number that no ticket holds -/

theorem ticket?_none_updateTicket {f : Ticket → Ticket} (hf : ∀ k, (f k).number = k.number)
    (h : s.ticket? n = none) : (updateTicket m f s).ticket? n = none := by
  by_cases hmn : n = m
  · subst hmn
    rw [ticket?_updateTicket_same (fun k hk => (hf k).trans hk), h]
    rfl
  · rw [ticket?_updateTicket_other (fun k hk => (hf k).trans hk) hmn, h]

/-- R51, R52: the tests in IDLE make no ticket. -/
theorem ticket?_none_testIdleOnce (h : s.ticket? n = none) : (testIdleOnce s).ticket? n = none := by
  have htake : ∀ m, (updateTicket m (fun t => { t with state := .atGate }) s).ticket? n = none :=
    fun m => ticket?_none_updateTicket (fun _ => rfl) h
  have hhold : ∀ c m (u : State), (holdGate c m u).ticket? n = u.ticket? n := fun _ _ _ => rfl
  have htire : ∀ u : State, (testTire u).ticket? n = u.ticket? n := fun u => by
    unfold testTire
    split <;> rfl
  unfold testIdleOnce
  repeat' split
  · exact h
  · exact h
  · exact h
  · exact (hhold ..).trans (htake _)
  · exact (htire _).trans (htake _)
  · exact ((retestDemand_spares _).ticket? n).trans h
  · exact h
  · exact h

/-- What an event ends with makes no ticket. -/
theorem ticket?_none_settle (b : State) (h : s.ticket? n = none) : (settle b s).ticket? n = none := by
  have hdrain := (settleDrain_leaves b (testIdle s)).1
  rw [settle, ticket?_congr (congrArg Sales.slots hdrain)]
  exact ticket?_none_testIdleOnce (ticket?_none_testIdleOnce h)

/-! ## What the readers of the roster and the end of an event show of the cars -/

theorem testSpacing_track (s : State) : (testSpacing s).track = s.track := by
  unfold testSpacing
  split <;> rfl

/-- A change of the roster moves no car. -/
theorem rosterChanged_cars (s : State) :
    (rosterChanged s).track.roster.map Car.sight = s.track.roster.map Car.sight := by
  rw [rosterChanged, testSpacing_track, (evaluate_washes _).spares.cars,
    (testExitBlocked_spares s).cars]

theorem testIdleOnce_cars (s : State) :
    (testIdleOnce s).track.roster.map Car.sight = s.track.roster.map Car.sight := by
  have htire : ∀ u : State, (testTire u).track = u.track := fun u => by
    unfold testTire
    split <;> rfl
  unfold testIdleOnce
  repeat' split
  all_goals first
    | rfl
    | exact congrArg (fun x : Track => x.roster.map Car.sight) (htire _)
    | exact (retestDemand_spares _).cars

theorem testDrain_cars (s : State) :
    (testDrain s).track.roster.map Car.sight = s.track.roster.map Car.sight := by
  unfold testDrain
  split
  · exact (retestDemand_spares _).cars
  · rfl

theorem testPark_track (b s : State) : (testPark b s).track = s.track := by
  unfold testPark
  repeat' split
  all_goals rfl

/-- What an event ends with moves no car. -/
theorem settle_cars (b s : State) :
    (settle b s).track.roster.map Car.sight = s.track.roster.map Car.sight := by
  rw [settle, settleDrain, testPark_track, testDrain_cars, testIdle, testIdleOnce_cars,
    testIdleOnce_cars]

theorem ticket?_rosterChanged (m : Nat) (s : State) : (rosterChanged s).ticket? m = s.ticket? m := by
  have hspacing : ∀ u : State, (testSpacing u).ticket? m = u.ticket? m := fun u => by
    unfold testSpacing
    split <;> rfl
  rw [rosterChanged, hspacing, (evaluate_washes _).spares.ticket?, (testExitBlocked_spares s).ticket?]

end Sys2Proof.Machine
end

section
/-! # The roster: REMOVE CAR (R51, R61, R106, R108) -/

namespace Sys2Proof.Machine

variable {s u : State} {n : Nat}

/-! ## What a stopped tunnel makes of an IDLE gate (R51) -/

theorem settle_gate_testIdle (b u : State) : (settle b u).gate = (testIdle u).gate := by
  obtain ⟨-, hgate, -⟩ := settleDrain_leaves b (testIdle u)
  exact hgate

section
variable (hidle : u.gate.state = .idle) (b : State)
include hidle

theorem settle_gate_mergeCheck (hcheck : u.gate.mergeCheck = true) :
    (settle b u).gate = { u.gate with state := .held .mergeCheck } := by
  rw [settle_gate_testIdle, testIdle_of_once (testIdleOnce_mergeCheck hidle hcheck)
    (Or.inr (by simp [holdGate]))]
  rfl

theorem settle_gate_unpaid (hcheck : u.gate.mergeCheck = false) {rest : List Nat}
    (hm : u.gate.merge = n :: rest) (hn : u.Unpaid n) : (settle b u).gate =
      { u.gate with state := .held .unpaid, merge := rest, atGate := some n } := by
  rw [settle_gate_testIdle, testIdle_of_once (testIdleOnce_unpaid hidle hcheck hm hn)
    (Or.inr (by simp [holdGate]))]
  rfl

end

/-- R51: under a stop an IDLE gate keeps its counts, whatever holds it. -/
theorem settle_counts (hhalt : u.halt.state ≠ .running) (hidle : u.gate.state = .idle) (b : State) :
    (settle b u).gate.measCount = u.gate.measCount ∧
      (settle b u).gate.restoreCount = u.gate.restoreCount ∧
      (settle b u).gate.settleCount = u.gate.settleCount ∧
      (settle b u).gate.tailgated = u.gate.tailgated := by
  cases hcheck : u.gate.mergeCheck with
  | true =>
    rw [settle_gate_mergeCheck hidle b hcheck]
    exact ⟨rfl, rfl, rfl, rfl⟩
  | false =>
    by_cases hpaid : ∀ n rest, u.gate.merge = n :: rest → ¬ u.Unpaid n
    · rw [settle_gate (testIdle_waits hhalt hcheck hpaid)]
      exact ⟨rfl, rfl, rfl, rfl⟩
    · push Not at hpaid
      obtain ⟨n, rest, hm, hn⟩ := hpaid
      rw [settle_gate_unpaid hidle b hcheck hm hn]
      exact ⟨rfl, rfl, rfl, rfl⟩

/-! ## REMOVE CAR (R108) -/

theorem removeCarRequest_wrongState (b : List Byte) (h : s.halt.state ≠ .stopped) :
    removeCarRequest b s = (refuse .wrongState, s) := if_pos h

section
variable {b : List Byte} (hb : wordAt b 0 = n)
include hb

variable (hstop : s.halt.state = .stopped)
include hstop

theorem removeCarRequest_notFound (h : ∀ x ∈ s.track.roster, x.ticket ≠ n) :
    removeCarRequest b s = (refuse .notFound, s) := by
  have hnone : s.track.roster.any (fun c => c.ticket == n) = false := by simpa using h
  simp [removeCarRequest, hb, hstop, hnone]

/-- R108: the part once the car is out and every block has taken it. -/
theorem removeCarRequest_ok (h : ∃ x ∈ s.track.roster, x.ticket = n) : removeCarRequest b s =
    (okWith (u16 n), settle s (rosterChanged (dropCar n .removed s))) := by
  have hany : s.track.roster.any (fun c => c.ticket == n) = true := by simpa using h
  simp [removeCarRequest, hb, hstop, hany]

end

/-- R61: the removal of the car being measured leaves the abandoned gate to its tests in IDLE. -/
theorem removed_gate (h : s.Measures n) :
    (rosterChanged (dropCar n .removed s)).gate = abandonedGate s.gate := by
  have hgate : (dropCar n .removed s).gate = abandonedGate s.gate := dropCar_gate_measured h
  have hspares := rosterChanged_spares (s := dropCar n .removed s)
    (by simp [hgate, abandonedGate]) (Or.inl (by simp [hgate, abandonedGate]))
  rw [hspares.gate (by simp [hgate, abandonedGate]), hgate]

/-- R178: the reply of a request that is carried out is being sent. -/
theorem request_replied (p : Port) (r : RequestState) (u : State) :
    ((drive (setRequest p r u)).port p).request = r :=
  congrArg PortState.request (port_setPort_same _ _ _)

theorem ticket?_replied (p : Port) (r : RequestState) (u : State) (m : Nat) :
    (drive (setRequest p r u)).ticket? m = u.ticket? m := rfl

theorem hasCause_replied (p : Port) (r : RequestState) (u : State) (c : Cause) :
    (drive (setRequest p r u)).hasCause c = u.hasCause c := rfl

/-- Settles O39: a removal is a retirement and the loss of the entry; nothing after it under a stop
moves a car, writes a book or clears a cause, and an abandoned gate is tested as R51 says. -/
theorem removeCarTakesACarOut : Obligations.RemoveCarTakesACarOut := by
  unfold Obligations.RemoveCarTakesACarOut
  intro tag n s ht hm hn c
  have hword : wordAt (u16 n) 0 = n := wordAt_code hn
  refine ⟨fun hmoving => ?_, fun hstop hnone => ?_, fun hstop hfound => ?_⟩
  · exact request_refused (k := .removeCar) ht rfl rfl (Or.inl hm)
      (removeCarRequest_wrongState (s := hunt .console s) (u16 n) hmoving)
  · exact request_refused (k := .removeCar) ht rfl rfl (Or.inl hm)
      (removeCarRequest_notFound (s := hunt .console s) hword hstop hnone)
  · have hexec := request_ok (k := .removeCar) (tag := tag) ht rfl rfl (Or.inl hm)
      (removeCarRequest_ok (s := hunt .console s) hword hstop hfound)
    have hremoves := dropCar_removes n .removed (hunt .console s)
    have hkeeps := ((dropCar_keepsStop n .removed (hunt .console s)).trans
      (rosterChanged_keepsStop _)).trans (settle_keepsStop (hunt .console s) _)
    have hstopped : (rosterChanged (dropCar n .removed (hunt .console s))).halt.state = .stopped :=
      (rosterChanged_keepsStop _).stopped ((dropCar_keepsStop n .removed _).stopped hstop)
    have hbooks : books (settle (hunt .console s)
        (rosterChanged (dropCar n .removed (hunt .console s)))) = books (retireTicket n .removed s) := by
      rw [settle_books, rosterChanged_books, dropCar_books]
      exact books_of_ledger (retireTicket_ledger (u := hunt .console s) (s := s) rfl n .removed)
    simp only [books, Prod.mk.injEq] at hbooks
    obtain ⟨hcredits, hfinished, hmemb⟩ := hbooks
    have hview : (fun x : Car => (x.ticket, x.front, x.marks, x.exitMark, x.length)) =
        (fun x : Nat × Nat × Option Nat × VehicleFlags × Vector Bool 4 × Bool =>
          (x.1, x.2.1, x.2.2.2.2.1, x.2.2.2.2.2, x.2.2.1)) ∘ Car.sight := rfl
    refine ⟨_, hexec, ?_, ?_, ?_, ?_, ?_, ?_, ?_, fun hmeas hcar => ?_⟩
    · rw [request_replied]
      rfl
    · rw [drive_track, setRequest_track, hview, ← List.map_map, ← List.map_map, settle_cars,
        rosterChanged_cars, hremoves.cars]
      rfl
    · rw [ticket?_replied]
      exact ticket?_none_settle _ (by rw [ticket?_rosterChanged, ticket?_dropCar])
    · rw [drive_credits, setRequest_credits, hcredits]
    · rw [drive_sales, setRequest_sales, hfinished]
    · rw [drive_memb, setRequest_memb, hmemb]
    · rw [drive_track, setRequest_track, hkeeps.moved, hunt_track]
    · have hgate : (rosterChanged (dropCar n .removed (hunt .console s))).gate =
          abandonedGate s.gate := removed_gate (s := hunt .console s) ⟨hmeas, hcar⟩
      have hidle : (rosterChanged (dropCar n .removed (hunt .console s))).gate.state = .idle := by
        rw [hgate]
        rfl
      have htickets : ∀ m, m ≠ n → (rosterChanged (dropCar n .removed (hunt .console s))).ticket? m =
          s.ticket? m := fun m hmn =>
        (ticket?_rosterChanged ..).trans (ticket?_dropCar_other hmn .removed (hunt .console s))
      refine ⟨?_, fun hc => ?_, fun hcheck => ?_, fun m rest x hcheck hmerge hmn hx hkind => ?_,
        fun hcheck hpaid => ?_⟩
      · rw [drive_gate, setRequest_gate]
        obtain ⟨hmc, hrc, hsc, htail⟩ := settle_counts (by simp [hstopped]) hidle (hunt .console s)
        rw [hmc, hrc, hsc, htail, hgate]
        exact ⟨rfl, rfl, rfl, rfl⟩
      · rw [hasCause_replied]
        exact hkeeps.causes .tailgate hc
      · rw [drive_gate, setRequest_gate, settle_gate_mergeCheck hidle _ (by rw [hgate]; exact hcheck)]
      · rw [drive_gate, setRequest_gate, settle_gate_unpaid hidle _ (by rw [hgate]; exact hcheck)
          (by rw [hgate]; exact hmerge) ⟨x, (htickets m hmn).trans hx, hkind⟩]
        exact ⟨rfl, rfl⟩
      · rw [drive_gate, setRequest_gate, settle_gate (testIdle_waits (by simp [hstopped])
          (by rw [hgate]; exact hcheck) ?_), hgate]
        · rfl
        · rintro m rest hmerge ⟨x, hx, hkind⟩
          rw [hgate] at hmerge
          by_cases hmn : m = n
          · subst hmn
            rw [ticket?_rosterChanged, ticket?_dropCar] at hx
            cases hx
          · exact hpaid m rest x hmerge ((htickets m hmn).symm.trans hx) hkind

end Sys2Proof.Machine
end

section
/-! # The roster: checkpoint eyes (R98 to R101, R110) -/

namespace Sys2Proof.Machine

variable {s : State} {k : Checkpoint} {g : CheckpointCfg} {older newer : List Car} {c : Car}

/-! ## What an event ends with leaves of the halt unit -/

theorem testIdleOnce_halt (s : State) : (testIdleOnce s).halt = s.halt := by
  have htire : ∀ u : State, (testTire u).halt = u.halt := fun u => by
    unfold testTire
    split <;> rfl
  unfold testIdleOnce
  repeat' split
  all_goals first
    | rfl
    | exact (htire _).trans rfl
    | exact (retestDemand_halt _).trans rfl

theorem testDrain_halt (s : State) : (testDrain s).halt = s.halt := by
  unfold testDrain
  split
  · exact (retestDemand_halt _).trans rfl
  · rfl

theorem testPark_halt (b s : State) : (testPark b s).halt = s.halt := by
  unfold testPark
  repeat' split
  all_goals rfl

/-- What an event ends with leaves the halt unit alone. -/
theorem settle_halt (b s : State) : (settle b s).halt = s.halt := by
  rw [settle, settleDrain, testPark_halt, testDrain_halt, testIdle, testIdleOnce_halt,
    testIdleOnce_halt]

/-- The lines that follow the records at a command's end change nothing of a stop. -/
theorem KeepsStop.driven {s t : State} (h : KeepsStop s t) : KeepsStop s (drive t) :=
  ⟨h.moved, h.stopped, h.causes⟩

theorem settleHalted_halt (b s : State) : (settleHalted b s).halt = s.halt := by
  unfold settleHalted
  split
  · rfl
  · exact settle_halt b s

theorem settleHalted_cars (b s : State) :
    (settleHalted b s).track.roster.map Car.sight = s.track.roster.map Car.sight := by
  unfold settleHalted
  split
  · rfl
  · exact settle_cars b s

/-! ## ROSTER_MOVED under HOLDING (R110, R144) -/

/-- R144: a cause that is not the first joins the further causes of the open episode. -/
theorem joinEpisode_history {ep : Episode} {past : List Episode} {d : Cause}
    (h : s.halt.history = ep :: past) (hopen : ep.closing = none) (hfirst : ep.first ≠ d) :
    (joinEpisode d s).halt.history =
      { ep with further := Set16.insert ep.further d.code } :: past := by
  simp [joinEpisode, h, hopen, hfirst]

/-- R140, R144: under HOLDING a STOP cause joins the further causes of the open episode. -/
theorem raiseCause_holding_history {d : Cause} (hf : s.causesFit) (hhold : s.halt.state = .holding)
    (hstop : d.isStop = true) (subj : Subject) {ep : Episode} {past : List Episode}
    (h : s.halt.history = ep :: past) (hopen : ep.closing = none) (hfirst : ep.first ≠ d) :
    (raiseCause d subj s).halt.history =
      { ep with further := Set16.insert ep.further d.code } :: past := by
  refine raiseCause_cases (motive := fun t => t.halt.history = _) (fun hpresent => ?_)
    (fun hrun => ?_) (fun _ _ => ?_) (fun _ hhold' => ?_)
  · simp [stopped_of_hasCause hf hstop hpresent] at hhold
  · simp [hrun] at hhold
  · rw [setHalt_halt]
    exact joinEpisode_history (s := withCause d s) h hopen hfirst
  · simp [hhold' hhold] at hstop

/-! ## What a statement reads of a car's marks -/

/-- A car's ticket, front, marks and length. -/
def Car.markView (c : Car) : Nat × Nat × Vector Bool 4 × Bool × Option Nat :=
  (c.ticket, c.front, c.marks, c.exitMark, c.length)

theorem markView_of_sights {l r : List Car} (h : l.map Car.sight = r.map Car.sight) :
    l.map Car.markView = r.map Car.markView := by
  have hview : Car.markView =
      (fun x : Nat × Nat × Option Nat × VehicleFlags × Vector Bool 4 × Bool =>
        (x.1, x.2.1, x.2.2.2.2.1, x.2.2.2.2.2, x.2.2.1)) ∘ Car.sight := rfl
  rw [hview, ← List.map_map, ← List.map_map, h]

/-! ## The oldest candidate (R99) -/

/-- R99: the car stands in the window of checkpoint k with its mark UNSEEN. -/
abbrev Car.InWindow (c : Car) (k : Checkpoint) (g : CheckpointCfg) : Prop :=
  c.marks[k] = false ∧ g.position ≤ c.front + g.tolerance ∧ c.front ≤ g.position + g.tolerance

theorem candidateAt_iff : c.candidateAt k g = true ↔ c.InWindow k g := by
  simp [Car.candidateAt, Car.InWindow, and_assoc]

/-- The first item that passes a test stands behind those that fail it. -/
theorem findIdx?_split {α : Type} {p : α → Bool} {l r : List α} {x : α}
    (hl : ∀ y ∈ l, ¬ p y = true) (hx : p x = true) :
    (l ++ x :: r).findIdx? p = some l.length := by
  have hnone : l.findIdx? p = none :=
    List.findIdx?_eq_none_iff.mpr fun y hy => Bool.eq_false_iff.mpr (hl y hy)
  rw [List.findIdx?_append, hnone, List.findIdx?_cons, hx]
  simp

/-! ## A verified break (R99 to R101) -/

/-- R100: the eye's position keeps the order law between the car's neighbours. -/
abbrev KeepsOrder (older newer : List Car) (c : Car) (pos : Nat) : Prop :=
  (∀ o, older.getLast? = some o → (pos : Int) < o.rear) ∧
    (∀ l, c.length = some l →
      (∀ n, newer.head? = some n → (n.front : Int) < (pos : Int) - l) ∧
      (newer = [] → (0 : Int) < (pos : Int) - l))

theorem correctionOk_iff {pos : Nat} :
    correctionOk older.getLast? newer.head? c pos = true ↔ KeepsOrder older newer c pos := by
  have holder : (match older.getLast? with
      | some o => decide ((pos : Int) < o.rear)
      | none => true) = true ↔ ∀ o, older.getLast? = some o → (pos : Int) < o.rear := by
    cases older.getLast? <;> simp
  unfold correctionOk
  rw [Bool.and_eq_true]
  refine and_congr holder ?_
  cases hlen : c.length with
  | none => simp
  | some l => cases newer <;> simp

/-- R99: the car with checkpoint k's mark SEEN. -/
def seenAt (k : Checkpoint) (c : Car) : Car := { c with marks := vset c.marks k true }

section
variable (hroster : s.track.roster = older ++ c :: newer) (hfirst : ∀ o ∈ older, ¬ o.InWindow k g)
  (hc : c.InWindow k g)
include hroster hfirst hc

/-- R99, R100: the oldest candidate becomes SEEN, and its front is corrected or CROWDING raised. -/
theorem verifyCheckpoint_candidate : verifyCheckpoint k g s =
    if correctionOk older.getLast? newer.head? c g.position = true then
      rosterChanged (setRoster (older ++ { seenAt k c with front := g.position } :: newer) s)
    else raiseCause .crowding (.ticket c.ticket) (setRoster (older ++ seenAt k c :: newer) s) := by
  have hindex : s.track.roster.findIdx? (fun c => c.candidateAt k g) = some older.length := by
    rw [hroster]
    exact findIdx?_split (fun o ho => mt candidateAt_iff.mp (hfirst o ho)) (candidateAt_iff.mpr hc)
  have hcar : s.track.roster[older.length]? = some c := by simp [hroster]
  have holder : (if older.length = 0 then none else s.track.roster[older.length - 1]?) =
      older.getLast? := by
    rw [hroster, List.getLast?_eq_getElem?]
    split
    · next h => rw [List.length_eq_zero_iff.mp h]; rfl
    · next h => exact List.getElem?_append_left (by omega)
  have hnewer : s.track.roster[older.length + 1]? = newer.head? := by
    rw [hroster, List.getElem?_append_right (by omega)]
    simp [List.head?_eq_getElem?]
  have hset : ∀ x, s.track.roster.set older.length x = older ++ x :: newer := fun x => by
    rw [hroster, List.set_append_right _ _ (Nat.le_refl _)]
    simp
  unfold verifyCheckpoint
  simp only [hindex, hcar, holder, hnewer, hset, seenAt]

theorem verifyCheckpoint_corrects (h : KeepsOrder older newer c g.position) :
    (verifyCheckpoint k g s).track.roster.map Car.sight =
      (older ++ { seenAt k c with front := g.position } :: newer).map Car.sight := by
  rw [verifyCheckpoint_candidate hroster hfirst hc, if_pos (correctionOk_iff.mpr h),
    rosterChanged_cars, setRoster_roster]

theorem verifyCheckpoint_crowds (hf : s.causesFit) (h : ¬ KeepsOrder older newer c g.position) :
    (verifyCheckpoint k g s).track.roster.map Car.sight =
        (older ++ seenAt k c :: newer).map Car.sight ∧
      (verifyCheckpoint k g s).halt.state = .stopped ∧
      (verifyCheckpoint k g s).hasCause .crowding = true := by
  rw [verifyCheckpoint_candidate hroster hfirst hc, if_neg (mt correctionOk_iff.mp h)]
  exact ⟨(raiseCause_spares ..).cars,
    raiseCause_stops (s := setRoster (older ++ seenAt k c :: newer) s) hf rfl _,
    (raiseCause_causes ..).1⟩

end

section
variable (hnone : ∀ c ∈ s.track.roster, ¬ c.InWindow k g)
include hnone

theorem verifyCheckpoint_noCandidate : verifyCheckpoint k g s =
    if s.track.roster.any (fun c => c.marks[k] && c.spans g.position g.tolerance) then s
    else raiseCause .ghost (.eye (.checkpoint k)) s := by
  have hindex : s.track.roster.findIdx? (fun c => c.candidateAt k g) = none :=
    List.findIdx?_eq_none_iff.mpr fun c hc =>
      Bool.eq_false_iff.mpr (mt candidateAt_iff.mp (hnone c hc))
  unfold verifyCheckpoint
  simp only [hindex]

/-- R101: a seen car that spans the eye accounts for the break. -/
theorem verifyCheckpoint_spanned (h : ∃ c ∈ s.track.roster, c.marks[k] = true ∧
    (g.position : Int) - g.tolerance ≤ c.front ∧ c.rear ≤ (g.position : Int) + g.tolerance) :
    verifyCheckpoint k g s = s := by
  rw [verifyCheckpoint_noCandidate hnone, if_pos]
  simpa [Car.spans] using h

theorem verifyCheckpoint_ghost (h : ∀ c ∈ s.track.roster, ¬ (c.marks[k] = true ∧
    (g.position : Int) - g.tolerance ≤ c.front ∧ c.rear ≤ (g.position : Int) + g.tolerance)) :
    verifyCheckpoint k g s = raiseCause .ghost (.eye (.checkpoint k)) s := by
  rw [verifyCheckpoint_noCandidate hnone, if_neg]
  simpa [Car.spans] using h

end

/-! ## The eye as a command (R98, R110) -/

/-- A checkpoint eye's level is written. -/
def setCheckpointEye (k : Checkpoint) (b : Bool) (s : State) : State :=
  { s with inputs := { s.inputs with checkpointEyes := vset s.inputs.checkpointEyes k b } }

/-- R96: an unused eye is ignored. -/
theorem exec_checkpoint_unused (h : s.checkpoint? k = none) :
    exec (.checkpointEyeBreak k) s = done (setCheckpointEye k true s) ∧
      exec (.checkpointEyeRestore k) s = done (setCheckpointEye k false s) := by
  have hbreak : checkpointBreak k s = setCheckpointEye k true s := by
    simp only [checkpointBreak, h, setCheckpointEye]
  have hrestore : checkpointRestore k s = setCheckpointEye k false s := by
    simp only [checkpointRestore, h, setCheckpointEye]
  constructor
  · refine Eq.trans (b := done (if (s.checkpoint? k).isSome then settle s (checkpointBreak k s)
      else checkpointBreak k s)) rfl ?_
    simp [h, hbreak]
  · refine Eq.trans (b := done (settleHalted s (checkpointRestore k s))) rfl ?_
    rw [hrestore]
    exact congrArg done (settleHalted_sameHalt rfl)

section
variable (hk : s.checkpoint? k = some g)
include hk

theorem exec_checkpointEyeBreak : exec (.checkpointEyeBreak k) s = done (settle s
    (if s.conv.state = .stopped then noteMoved (.checkpoint k) (setCheckpointEye k true s)
     else verifyCheckpoint k g (setCheckpointEye k true s))) := by
  have hbreak : checkpointBreak k s =
      if s.conv.state = .stopped then noteMoved (.checkpoint k) (setCheckpointEye k true s)
      else verifyCheckpoint k g (setCheckpointEye k true s) := by
    simp only [checkpointBreak, hk, setCheckpointEye]
  refine Eq.trans (b := done (if (s.checkpoint? k).isSome then settle s (checkpointBreak k s)
    else checkpointBreak k s)) rfl ?_
  rw [hbreak, hk]
  rfl

theorem exec_checkpointEyeRestore : exec (.checkpointEyeRestore k) s =
    done (settleHalted s (noteMoved (.checkpoint k) (setCheckpointEye k false s))) := by
  have hrestore : checkpointRestore k s =
      noteMoved (.checkpoint k) (setCheckpointEye k false s) := by
    simp only [checkpointRestore, hk, setCheckpointEye]
  exact congrArg (fun u => done (settleHalted s u)) hrestore

theorem exec_checkpointEyeBreak_moving (h : s.conv.state ≠ .stopped) :
    exec (.checkpointEyeBreak k) s =
      done (settle s (verifyCheckpoint k g (setCheckpointEye k true s))) := by
  rw [exec_checkpointEyeBreak hk, if_neg h]

theorem exec_checkpointEyeBreak_atRest (h : s.conv.state = .stopped) :
    exec (.checkpointEyeBreak k) s =
      done (settle s (noteMoved (.checkpoint k) (setCheckpointEye k true s))) := by
  rw [exec_checkpointEyeBreak hk, if_pos h]

/-- R98, R110: with the conveyor moving, or under RUNNING, a restore has no effect. -/
theorem exec_checkpointEyeRestore_ignored (h : s.conv.state ≠ .stopped ∨ s.halt.state = .running) :
    exec (.checkpointEyeRestore k) s = done (setCheckpointEye k false s) := by
  rw [exec_checkpointEyeRestore hk, noteMoved_moving (s := setCheckpointEye k false s) _ h]
  exact congrArg done (settleHalted_sameHalt rfl)

end

/-- R110: a part whose conveyor rested under HOLDING at an eye change: the moved flag is set, and
ROSTER_MOVED stops the tunnel and joins the further causes of the open episode. -/
structure StoppedAsMoved (s t : State) : Prop where
  moved : t.track.moved = true
  stopped : t.halt.state = .stopped
  cause : t.hasCause .rosterMoved = true
  cars : t.track.roster.map Car.markView = s.track.roster.map Car.markView
  history : ∀ ep past, s.halt.history = ep :: past → ep.closing = none →
    ep.first ≠ .rosterMoved →
    t.halt.history =
      { ep with further := ep.further ||| BitVec.ofNat 16 (2 ^ Cause.rosterMoved.code) } :: past

theorem noteMoved_stopsAsMoved (e : Eye) (hconv : s.conv.state = .stopped)
    (hhold : s.halt.state = .holding) (hf : s.causesFit) : StoppedAsMoved s (noteMoved e s) := by
  obtain ⟨hmoved, hstopped, hcause⟩ := noteMoved_rests e hf hconv (by simp [hhold])
  obtain ⟨b, hspares⟩ := noteMoved_spares e s
  refine ⟨hmoved, hstopped, hcause hhold, markView_of_sights hspares.cars,
    fun ep past h hopen hfirst => ?_⟩
  rw [noteMoved_holding e hconv hhold]
  exact raiseCause_holding_history (s := setMoved true s) hf hhold rfl _ h hopen hfirst

/-- What leaves the halt unit, the moved flag and the cars alone ends no such stop. -/
theorem StoppedAsMoved.then {s t u : State} (h : StoppedAsMoved s t) (hk : KeepsStop t u)
    (hh : u.halt = t.halt)
    (hc : u.track.roster.map Car.sight = t.track.roster.map Car.sight) : StoppedAsMoved s u where
  moved := hk.moved.trans h.moved
  stopped := hk.stopped h.stopped
  cause := hk.causes _ h.cause
  cars := (markView_of_sights hc).trans h.cars
  history := by rw [hh]; exact h.history

theorem StoppedAsMoved.driven {s t : State} (h : StoppedAsMoved s t) : StoppedAsMoved s (drive t) :=
  ⟨h.moved, h.stopped, h.cause, h.cars, h.history⟩

/-- Settles O36: a break is verified by the oldest candidate, by a seen car over the eye, or by none;
at rest it is judged for a moved car; what ends the event keeps the outcome. -/
theorem checkpointBreaksAreVerified : Obligations.CheckpointBreaksAreVerified := by
  unfold Obligations.CheckpointBreaksAreVerified
  intro k s view seen u moved
  refine ⟨fun h => exec_checkpoint_unused (List.getElem?_eq_none h), fun g hk => ?_⟩
  intro inWindow spans
  refine ⟨fun hconv => ⟨fun older c newer hroster hfirst hc => ?_, fun hnone => ⟨fun hspan => ?_,
      fun hno hf => ?_⟩, exec_checkpointEyeRestore_ignored hk (Or.inl hconv)⟩,
    fun hconv hhalt => ⟨?_, ?_⟩,
    fun hconv hhalt => ⟨?_, exec_checkpointEyeRestore_ignored hk (Or.inr hhalt)⟩,
    fun hconv hhalt hf => ?_⟩
  · intro keeps
    refine ⟨fun hkeeps => ?_, fun hno hf => ?_⟩
    · have hcars := verifyCheckpoint_corrects (s := setCheckpointEye k true s) hroster hfirst hc hkeeps
      refine ⟨_, exec_checkpointEyeBreak_moving hk hconv, ?_⟩
      rw [drive_track]
      exact markView_of_sights ((settle_cars ..).trans hcars)
    · obtain ⟨hcars, hstopped, hcause⟩ :=
        verifyCheckpoint_crowds (s := setCheckpointEye k true s) hroster hfirst hc hf hno
      have hkeeps := (settle_keepsStop s (verifyCheckpoint k g (setCheckpointEye k true s))).driven
      refine ⟨_, exec_checkpointEyeBreak_moving hk hconv, ?_, hkeeps.stopped hstopped,
        hkeeps.causes _ hcause⟩
      rw [drive_track]
      exact markView_of_sights ((settle_cars ..).trans hcars)
  · rw [exec_checkpointEyeBreak_moving hk hconv,
      verifyCheckpoint_spanned (s := setCheckpointEye k true s) hnone hspan]
    rfl
  · have hghost := verifyCheckpoint_ghost (s := setCheckpointEye k true s) hnone hno
    have hkeeps := (settle_keepsStop s
      (raiseCause .ghost (.eye (.checkpoint k)) (setCheckpointEye k true s))).driven
    have hstopped := raiseCause_stops (s := setCheckpointEye k true s) hf (c := .ghost) rfl
      (.eye (.checkpoint k))
    have hexec := exec_checkpointEyeBreak_moving hk hconv
    rw [hghost] at hexec
    refine ⟨_, hexec, hkeeps.stopped hstopped, hkeeps.causes _ (raiseCause_causes ..).1, ?_⟩
    rw [drive_track]
    exact markView_of_sights ((settle_cars ..).trans (raiseCause_spares ..).cars)
  · rw [exec_checkpointEyeBreak_atRest hk hconv,
      noteMoved_stopped (s := setCheckpointEye k true s) _ hconv hhalt]
    rfl
  · rw [exec_checkpointEyeRestore hk,
      noteMoved_stopped (s := setCheckpointEye k false s) _ hconv hhalt]
    exact congrArg done (settleHalted_sameHalt rfl)
  · rw [exec_checkpointEyeBreak_atRest hk hconv,
      noteMoved_moving (s := setCheckpointEye k true s) _ (Or.inr hhalt)]
    rfl
  · intro stops
    constructor
    · have hstop := (noteMoved_stopsAsMoved (s := setCheckpointEye k true s) (.checkpoint k) hconv
        hhalt hf).then (settle_keepsStop s _) (settle_halt s _) (settle_cars s _) |>.driven
      exact ⟨_, exec_checkpointEyeBreak_atRest hk hconv, hstop.moved, hstop.stopped, hstop.cause,
        hstop.cars, hstop.history⟩
    · have hstop := (noteMoved_stopsAsMoved (s := setCheckpointEye k false s) (.checkpoint k) hconv
        hhalt hf).then (settleHalted_keepsStop s _) (settleHalted_halt s _)
        (settleHalted_cars s _) |>.driven
      exact ⟨_, exec_checkpointEyeRestore hk, hstop.moved, hstop.stopped, hstop.cause, hstop.cars,
        hstop.history⟩

end Sys2Proof.Machine
end

section
/-! # The roster: what several removals leave (R95, R104 to R106)

A part after removals is that part with some cars gone, but for what their retirements write. -/

namespace Sys2Proof.Machine

variable {s t u : State} {n : Nat}

/-! ## The stamp of the clock -/

theorem dropOldestCredit_clock (s : State) : (dropOldestCredit s).sales.clock = s.sales.clock := by
  unfold dropOldestCredit
  split <;> rfl

theorem retireTicket_clock (n : Nat) (r : Result) (s : State) :
    (retireTicket n r s).sales.clock = s.sales.clock := by
  have hissue : ∀ k, (issueCredit k r s).sales.clock = s.sales.clock := fun k => by
    unfold issueCredit
    split
    · exact dropOldestCredit_clock s
    · rfl
  have hunstamped : ∀ k, (unstamped k r s).sales.clock = s.sales.clock := fun k => by
    unfold unstamped
    repeat' split
    all_goals rfl
  have hleave : ∀ k c (v : State), (leaveTable n k r c v).sales.clock = v.sales.clock :=
    fun k c v => by
      unfold leaveTable
      split <;> rfl
  cases hk : s.ticket? n with
  | none => simp [retireTicket, hk]
  | some k =>
    by_cases he : Earns k r
    · rw [retireTicket_earning hk he, hleave, hissue]
    · rw [retireTicket_plain hk he, hleave, hunstamped]

theorem Washes.clock (h : Washes s t) : t.sales.clock = s.sales.clock := by
  obtain ⟨r, m, rfl, -⟩ := h
  rfl

theorem dropCar_clock (n : Nat) (r : Result) (s : State) :
    (dropCar n r s).sales.clock = s.sales.clock := by
  have hout : (carOut n r s).sales.clock = s.sales.clock := retireTicket_clock n r _
  by_cases h : s.Measures n
  · rw [dropCar_measured h, (evaluate_washes _).clock, ← hout]
    rfl
  · rw [dropCar_unmeasured h, (evaluate_washes _).clock, hout]

/-! ## What removals leave -/

/-- The records that a removal leaves alone. -/
structure Outlives (s t : State) : Prop where
  moved : t.track.moved = s.track.moved
  halt : t.halt = s.halt
  conv : t.conv = s.conv
  settings : t.settings = s.settings
  inputs : t.inputs = s.inputs
  mode : t.mode = s.mode
  clock : t.sales.clock = s.sales.clock

theorem Outlives.refl (s : State) : Outlives s s := ⟨rfl, rfl, rfl, rfl, rfl, rfl, rfl⟩

theorem Outlives.trans (h : Outlives s t) (k : Outlives t u) : Outlives s u where
  moved := k.moved.trans h.moved
  halt := k.halt.trans h.halt
  conv := k.conv.trans h.conv
  settings := k.settings.trans h.settings
  inputs := k.inputs.trans h.inputs
  mode := k.mode.trans h.mode
  clock := k.clock.trans h.clock

theorem Outlives.keepsStop (h : Outlives s t) : KeepsStop s t := keepsStop_of_halt h.moved h.halt

theorem Washes.outlives (h : Washes s t) : Outlives s t := by
  obtain ⟨r, m, rfl, -⟩ := h
  exact ⟨rfl, rfl, rfl, rfl, rfl, rfl, rfl⟩

theorem testSpacing_outlives (s : State) : Outlives s (testSpacing s) := by
  unfold testSpacing
  split <;> exact ⟨rfl, rfl, rfl, rfl, rfl, rfl, rfl⟩

theorem dropCar_outlives (n : Nat) (r : Result) (s : State) : Outlives s (dropCar n r s) :=
  have h := dropCar_removes n r s
  ⟨h.moved, h.halt, h.conv, h.settings, h.inputs, h.mode, dropCar_clock n r s⟩

/-- R106: a number that no ticket holds is held by none after another removal. -/
theorem ticket?_none_dropCar (m : Nat) (r : Result) (h : s.ticket? n = none) :
    (dropCar m r s).ticket? n = none := by
  by_cases hmn : n = m
  · subst hmn
    exact ticket?_dropCar n r s
  · rw [ticket?_dropCar_other hmn, h]

/-! ## Tests that read what the cars show -/

section
variable {l r : List Car} {p q : Car → Bool} (hpq : ∀ c d : Car, c.sight = d.sight → p c = q d)
include hpq

theorem filter_sights (h : l.map Car.sight = r.map Car.sight) :
    (l.filter p).map Car.sight = (r.filter q).map Car.sight := by
  induction l generalizing r with
  | nil =>
    obtain rfl : r = [] := List.map_eq_nil_iff.mp h.symm
    rfl
  | cons c l ih =>
    obtain ⟨d, r', rfl, hd, hr⟩ := List.map_eq_cons_iff.mp h.symm
    rw [List.filter_cons, List.filter_cons, hpq c d hd.symm]
    split
    · rw [List.map_cons, List.map_cons, hd, ih hr.symm]
    · exact ih hr.symm

theorem dropWhile_sights (h : l.map Car.sight = r.map Car.sight) :
    (l.dropWhile p).map Car.sight = (r.dropWhile q).map Car.sight := by
  induction l generalizing r with
  | nil =>
    obtain rfl : r = [] := List.map_eq_nil_iff.mp h.symm
    rfl
  | cons c l ih =>
    obtain ⟨d, r', rfl, hd, hr⟩ := List.map_eq_cons_iff.mp h.symm
    rw [List.dropWhile_cons, List.dropWhile_cons, hpq c d hd.symm]
    split
    · exact ih hr.symm
    · exact h

end

theorem ticket_of_sight {c d : Car} (h : c.sight = d.sight) : c.ticket = d.ticket :=
  congrArg Prod.fst h

theorem exitMark_of_sight {c d : Car} (h : c.sight = d.sight) : c.exitMark = d.exitMark :=
  congrArg (fun x => x.2.2.2.2.2) h

theorem tickets_of_sights {l r : List Car} (h : l.map Car.sight = r.map Car.sight) :
    l.map (fun c => c.ticket) = r.map (fun c => c.ticket) := by
  have hview : (fun c : Car => c.ticket) = Prod.fst ∘ Car.sight := rfl
  rw [hview, ← List.map_map, ← List.map_map, h]

theorem length_of_sights {l r : List Car} (h : l.map Car.sight = r.map Car.sight) :
    l.length = r.length := by
  simpa using congrArg List.length h

/-- A car stands alone under its ticket. -/
theorem filter_oldest {c : Car} {rest : List Car}
    (hnodup : ((c :: rest).map (fun x => x.ticket)).Nodup) :
    (c :: rest).filter (fun x => x.ticket ≠ c.ticket) = rest := by
  rw [List.map_cons, List.nodup_cons] at hnodup
  obtain ⟨hnew, -⟩ := hnodup
  rw [List.filter_cons_of_neg (by simp)]
  refine List.filter_eq_self.mpr fun x hx => decide_eq_true fun e => hnew ?_
  exact List.mem_map.mpr ⟨x, hx, e⟩

end Sys2Proof.Machine
end

section
/-! # The roster: the exit eye (R98, R101, R102, R104, R107, R109, R110, R142) -/

namespace Sys2Proof.Machine

variable {s t u : State} {n : Nat} {c : Car} {older newer rest : List Car}

/-! ## A verified break (R102) -/

/-- The first item that passes a test is the one rewritten. -/
theorem mapFirst_split {α : Type} {p : α → Bool} (f : α → α) {l r : List α} {x : α}
    (hl : ∀ y ∈ l, ¬ p y = true) (hx : p x = true) :
    mapFirst p f (l ++ x :: r) = l ++ f x :: r := by
  induction l with
  | nil => rw [List.nil_append, mapFirst, if_pos hx]; rfl
  | cons y l ih =>
    rw [List.cons_append, mapFirst, if_neg (hl y List.mem_cons_self),
      ih fun z hz => hl z (List.mem_cons_of_mem y hz)]
    rfl

/-- R102: the car stands in the exit window with its exit mark UNSEEN. -/
abbrev State.AtExit (s : State) (c : Car) : Prop := c.exitMark = false ∧
  s.settings.geometry.exitPos ≤ c.front + s.settings.geometry.exitTol ∧
  c.front ≤ s.settings.geometry.exitPos + s.settings.geometry.exitTol

/-- R101: the seen car spans the exit eye. -/
abbrev State.SpansExit (s : State) (c : Car) : Prop := c.exitMark = true ∧
  (s.settings.geometry.exitPos : Int) - s.settings.geometry.exitTol ≤ c.front ∧
  c.rear ≤ (s.settings.geometry.exitPos : Int) + s.settings.geometry.exitTol

theorem exitCandidate_iff : s.exitCandidate c = true ↔ s.AtExit c := by
  simp [State.exitCandidate, State.AtExit, and_assoc]

theorem verifyExit_candidate (hroster : s.track.roster = older ++ c :: newer)
    (hfirst : ∀ o ∈ older, ¬ s.AtExit o) (hc : s.AtExit c) :
    verifyExit s = setRoster (older ++ { c with exitMark := true } :: newer) s := by
  have hany : s.track.roster.any s.exitCandidate = true :=
    List.any_eq_true.mpr ⟨c, by simp [hroster], exitCandidate_iff.mpr hc⟩
  rw [verifyExit, if_pos hany, hroster, mapFirst_split _
    (fun o ho => mt exitCandidate_iff.mp (hfirst o ho)) (exitCandidate_iff.mpr hc)]

section
variable (hnone : ∀ c ∈ s.track.roster, ¬ s.AtExit c)
include hnone

/-- R101: with no candidate, the break marks no car. -/
theorem verifyExit_noCandidate : verifyExit s =
    if s.track.roster.any (fun c => c.exitMark &&
      c.spans s.settings.geometry.exitPos s.settings.geometry.exitTol) then s
    else raiseCause .ghost (.eye .exit) s := by
  have hany : s.track.roster.any s.exitCandidate = false :=
    List.any_eq_false.mpr fun c hc => mt exitCandidate_iff.mp (hnone c hc)
  rw [verifyExit, hany]
  exact if_neg Bool.false_ne_true

theorem verifyExit_cars :
    (verifyExit s).track.roster.map Car.sight = s.track.roster.map Car.sight := by
  rw [verifyExit_noCandidate hnone]
  split
  · rfl
  · exact (raiseCause_spares ..).cars

theorem verifyExit_ghost (h : ∀ c ∈ s.track.roster, ¬ s.SpansExit c) :
    verifyExit s = raiseCause .ghost (.eye .exit) s := by
  rw [verifyExit_noCandidate hnone, if_neg]
  simpa [Car.spans, State.SpansExit] using h

end

/-! ## The eye's level -/

/-- The exit eye's level is written. -/
def setExitEye (b : Bool) (s : State) : State := { s with inputs := { s.inputs with exitEye := b } }

theorem Reacts.inputs (h : Reacts s t) : t.inputs = s.inputs :=
  congrArg (fun x => x.2.2.2.2.2.1) (reacts_outer h)

theorem exec_exitEyeBreak_moving (h : s.conv.state ≠ .stopped) : exec .exitEyeBreak s =
    done (settleHalted s (testExitBlocked (verifyExit (setExitEye true s)))) :=
  congrArg (fun u => done (settleHalted s (testExitBlocked u))) (if_neg h)

theorem exec_exitEyeBreak_atRest (h : s.conv.state = .stopped) : exec .exitEyeBreak s =
    done (settleHalted s (testExitBlocked (noteMoved .exit (setExitEye true s)))) :=
  congrArg (fun u => done (settleHalted s (testExitBlocked u))) (if_pos h)

/-! ## The cars that have cleared the exit (R104) -/

/-- R104: the car's rear has passed the exit eye, which has seen it. -/
abbrev State.Cleared (s : State) (c : Car) : Prop := c.exitMark = true ∧
  (s.settings.geometry.exitPos : Int) - s.settings.geometry.exitTol ≤ c.rear

theorem cleared_iff : s.cleared c = true ↔ s.Cleared c := by
  simp [State.cleared, State.Cleared]

theorem cleared_of_sight (hsettings : t.settings = s.settings) {c d : Car}
    (h : c.sight = d.sight) : t.cleared c = s.cleared d := by
  obtain ⟨hrear, -⟩ := Car.rear_of_sight h
  rw [State.cleared, State.cleared, hsettings, hrear, exitMark_of_sight h]

theorem clearExit_stops (h : ∀ d newer, s.track.roster = d :: newer → ¬ s.cleared d = true)
    (fuel : Nat) : clearExit fuel s = s := by
  cases fuel with
  | zero => rfl
  | succ fuel =>
    unfold clearExit
    split
    · rfl
    · next d newer hroster => exact if_neg (h d newer hroster)

theorem clearExit_drops (hroster : s.track.roster = c :: rest) (hc : s.cleared c = true)
    (fuel : Nat) : clearExit (fuel + 1) s = clearExit fuel (dropCar c.ticket c.washResult s) := by
  simp only [clearExit, hroster, hc, if_true]

/-- What every removal at the exit keeps is kept. -/
theorem clearExit_keeps {motive : State → Prop}
    (hdrop : ∀ n r u, motive u → motive (dropCar n r u)) (fuel : Nat) (h : motive s) :
    motive (clearExit fuel s) := by
  induction fuel generalizing s with
  | zero => exact h
  | succ fuel ih =>
    unfold clearExit
    split
    · exact h
    · split
      · exact ih (hdrop _ _ _ h)
      · exact h

theorem clearExit_outlives (fuel : Nat) (s : State) : Outlives s (clearExit fuel s) :=
  clearExit_keeps (motive := fun u => Outlives s u)
    (fun n r u h => h.trans (dropCar_outlives n r u)) fuel (.refl s)

/-- The roster once its oldest car is out. -/
theorem dropCar_oldest (hroster : s.track.roster = c :: rest)
    (hnodup : (s.track.roster.map (fun x => x.ticket)).Nodup) (r : Result) :
    (dropCar c.ticket r s).track.roster.map Car.sight = rest.map Car.sight := by
  rw [hroster] at hnodup
  rw [(dropCar_removes c.ticket r s).cars, hroster, filter_oldest hnodup]

/-- R104: the cars that leave are the oldest ones that have cleared the exit. -/
theorem clearExit_cars (fuel : Nat) (hfuel : s.track.roster.length ≤ fuel)
    (hnodup : (s.track.roster.map (fun x => x.ticket)).Nodup) :
    (clearExit fuel s).track.roster.map Car.sight =
      (s.track.roster.dropWhile s.cleared).map Car.sight := by
  induction fuel generalizing s with
  | zero =>
    have hnil : s.track.roster = [] := List.length_eq_zero_iff.mp (Nat.le_zero.mp hfuel)
    simp [clearExit, hnil]
  | succ fuel ih =>
    cases hroster : s.track.roster with
    | nil => rw [clearExit_stops (by simp [hroster]), hroster]; rfl
    | cons c rest =>
      by_cases hc : s.cleared c = true
      · have hcars := dropCar_oldest hroster hnodup c.washResult
        have hsettings := (dropCar_removes c.ticket c.washResult s).settings
        rw [hroster, List.map_cons, List.nodup_cons] at hnodup
        obtain ⟨-, hrest⟩ := hnodup
        rw [hroster, List.length_cons] at hfuel
        rw [clearExit_drops hroster hc, ih (by rw [length_of_sights hcars]; omega)
          (by rw [tickets_of_sights hcars]; exact hrest),
          dropWhile_sights (fun _ _ => cleared_of_sight hsettings) hcars,
          List.dropWhile_cons_of_pos hc]
      · rw [clearExit_stops (by simpa [hroster] using hc), hroster, List.dropWhile_cons_of_neg hc]

/-! ## The roster after the removals (R104, R109, R110) -/

/-- R104: the part once the restored eye has been judged, before EXIT_BLOCKED is cleared. -/
def exitJudged (s : State) : State :=
  if (clearExit s.track.roster.length (setExitEye false s)).track.roster.length <
      s.track.roster.length then
    rosterChanged (clearExit s.track.roster.length (setExitEye false s))
  else noteMoved .exit (clearExit s.track.roster.length (setExitEye false s))

theorem exec_exitEyeRestore (s : State) :
    exec .exitEyeRestore s = done (settle s (clearCause .exitBlocked (exitJudged s))) := rfl

theorem testExitBlocked_restored (h : s.inputs.exitEye = false) : testExitBlocked s = s := by
  simp [testExitBlocked, State.exitBlockedBy, h]

/-- With the exit eye restored a change of the roster raises no cause. -/
theorem rosterChanged_outlives (h : s.inputs.exitEye = false) : Outlives s (rosterChanged s) := by
  rw [rosterChanged, testExitBlocked_restored h]
  exact (evaluate_washes s).outlives.trans (testSpacing_outlives _)

theorem exitJudged_none (h : ∀ c rest, s.track.roster = c :: rest → ¬ s.Cleared c) :
    exitJudged s = noteMoved .exit (setExitEye false s) := by
  have hstops : clearExit s.track.roster.length (setExitEye false s) = setExitEye false s :=
    clearExit_stops (s := setExitEye false s)
      (fun d newer hroster => mt cleared_iff.mp (h d newer hroster)) _
  rw [exitJudged, hstops]
  exact if_neg (Nat.lt_irrefl _)

section
variable (hroster : s.track.roster = c :: rest) (hc : s.Cleared c)
  (hnodup : (s.track.roster.map (fun x => x.ticket)).Nodup)
include hroster hc hnodup

theorem exitJudged_removes :
    exitJudged s = rosterChanged (clearExit s.track.roster.length (setExitEye false s)) := by
  refine if_pos ?_
  have hcars := clearExit_cars (s := setExitEye false s) s.track.roster.length (Nat.le_refl _) hnodup
  have hdrop : (setExitEye false s).track.roster.dropWhile (setExitEye false s).cleared =
      rest.dropWhile s.cleared := by
    rw [show (setExitEye false s).track.roster = c :: rest from hroster]
    exact List.dropWhile_cons_of_pos (cleared_iff.mpr hc)
  rw [length_of_sights hcars, hdrop, hroster, List.length_cons]
  exact Nat.lt_succ_of_le (List.length_dropWhile_le ..)

theorem exitJudged_outlives : Outlives (setExitEye false s) (exitJudged s) := by
  have hleaves := clearExit_outlives s.track.roster.length (setExitEye false s)
  rw [exitJudged_removes hroster hc hnodup]
  exact hleaves.trans (rosterChanged_outlives (by rw [hleaves.inputs]; rfl))

/-- R106: the ticket of the oldest cleared car is retired. -/
theorem ticket?_exitJudged : (exitJudged s).ticket? c.ticket = none := by
  rw [exitJudged_removes hroster hc hnodup, ticket?_rosterChanged, hroster, List.length_cons,
    clearExit_drops (s := setExitEye false s) hroster (cleared_iff.mpr hc)]
  exact clearExit_keeps (motive := fun u => u.ticket? c.ticket = none)
    (fun n r u h => ticket?_none_dropCar n r h) _ (ticket?_dropCar ..)

/-- R104, R107: one cleared car alone is retired, with its wash result. -/
theorem exitJudged_books (h : ∀ d newer, rest = d :: newer → ¬ s.Cleared d) :
    books (exitJudged s) = books (retireTicket c.ticket c.washResult s) := by
  have hcars := dropCar_oldest (s := setExitEye false s) hroster hnodup c.washResult
  have hsettings := (dropCar_removes c.ticket c.washResult (setExitEye false s)).settings
  have hstops : clearExit rest.length (dropCar c.ticket c.washResult (setExitEye false s)) =
      dropCar c.ticket c.washResult (setExitEye false s) := by
    refine clearExit_stops (fun d newer hd => ?_) _
    rw [hd] at hcars
    obtain ⟨d', newer', hrest, hsight, -⟩ := List.map_eq_cons_iff.mp hcars.symm
    rw [cleared_of_sight hsettings hsight.symm]
    exact mt cleared_iff.mp (h d' newer' hrest)
  rw [exitJudged_removes hroster hc hnodup, rosterChanged_books, hroster, List.length_cons,
    clearExit_drops (s := setExitEye false s) hroster (cleared_iff.mpr hc), hstops, dropCar_books]
  exact books_of_ledger (retireTicket_ledger (u := setExitEye false s) (s := s) rfl ..)

end

/-- R107: the wash result by the statuses of the stations. -/
theorem washResult_eq (c : Car) : c.washResult =
    if ∃ j : StationIx, c.status j = .missed ∨ c.status j = .pending then .partialWash else .full := by
  have hany : (c.progress.toList.any fun p => p == .missed || p == .pending) = true ↔
      ∃ j : StationIx, c.status j = .missed ∨ c.status j = .pending := by
    simp only [List.any_eq_true, Bool.or_eq_true, beq_iff_eq, Vector.mem_toList_iff,
      Vector.mem_iff_getElem]
    exact ⟨fun ⟨_, ⟨i, hi, hp⟩, h⟩ => ⟨⟨i, hi⟩, by rw [← hp] at h; exact h⟩,
      fun ⟨j, h⟩ => ⟨_, ⟨j.val, j.isLt, rfl⟩, h⟩⟩
  exact if_congr hany rfl rfl

theorem exitJudged_cars (hnodup : (s.track.roster.map (fun x => x.ticket)).Nodup) :
    (exitJudged s).track.roster.map Car.sight =
      (s.track.roster.dropWhile s.cleared).map Car.sight := by
  have hcars := clearExit_cars (s := setExitEye false s) s.track.roster.length (Nat.le_refl _) hnodup
  refine Eq.trans ?_ hcars
  unfold exitJudged
  split
  · exact rosterChanged_cars _
  · obtain ⟨b, hspares⟩ := noteMoved_spares .exit
      (clearExit s.track.roster.length (setExitEye false s))
    exact hspares.cars

theorem exitJudged_inputs (s : State) : (exitJudged s).inputs.exitEye = false := by
  have hclear : (clearExit s.track.roster.length (setExitEye false s)).inputs.exitEye = false := by
    rw [(clearExit_outlives ..).inputs]
    rfl
  unfold exitJudged
  split
  · rw [(rosterChanged_reacts _).inputs, hclear]
  · rw [(noteMoved_reacts ..).inputs, hclear]

/-! ## EXIT_BLOCKED leaves the cause set (R109, R139, R142, R145) -/

theorem has_erase (b : Set16) (d : Cause) : Set16.has (Set16.erase b d.code) d.code = false := by
  have hsingle : (Set16.single d.code).getLsbD d.code = true := by cases d <;> decide
  simp [Set16.has, Set16.erase, hsingle]

theorem has_erase_other {b : Set16} {c d : Cause} (hne : d ≠ c)
    (h : Set16.has b d.code = true) : Set16.has (Set16.erase b c.code) d.code = true := by
  have hsingle : (Set16.single c.code).getLsbD d.code = false := by
    revert hne
    cases c <;> cases d <;> decide
  have hlt : d.code < 16 := BitVec.lt_of_getLsbD h
  rw [Set16.has] at h
  simp only [Set16.has, Set16.erase, BitVec.getLsbD_and, BitVec.getLsbD_not, h, hsingle, hlt,
    decide_true, Bool.not_false, Bool.and_self]

/-- R139: a cause leaves the active cause set. -/
def withoutCause (d : Cause) (s : State) : State :=
  { s with halt := { s.halt with causes := Set16.erase s.halt.causes d.code } }

/-- R139, R142: what a clearing cause does, by what is left. -/
theorem clearCause_cases {motive : State → Prop} {d : Cause} (absent : s.hasCause d = false → motive s)
    (resumes : s.halt.state = .holding → (withoutCause d s).halt.causes = 0 →
      motive (setHalt .running (closeEpisode .auto (withoutCause d s))))
    (leaves : ¬ (s.halt.state = .holding ∧ (withoutCause d s).halt.causes = 0) →
      motive (withoutCause d s)) : motive (clearCause d s) := by
  unfold clearCause
  split
  · dsimp only
    split
    · next h => exact resumes h.1 h.2
    · next h => exact leaves h
  · next h => exact absent (Bool.eq_false_iff.mpr h)

theorem closeEpisode_causes (b : EndedBy) (s : State) :
    (closeEpisode b s).halt.causes = s.halt.causes := by
  unfold closeEpisode
  repeat' split
  all_goals rfl

theorem withoutCause_spares (d : Cause) (s : State) : Spares s (withoutCause d s) :=
  ⟨rfl, rfl, rfl, rfl, rfl, rfl, fun _ => rfl⟩

theorem clearCause_spares (d : Cause) (s : State) : Spares s (clearCause d s) :=
  clearCause_cases (motive := fun t => Spares s t) (fun _ => .refl s)
    (fun _ _ => ((withoutCause_spares d s).trans (closeEpisode_spares ..)).trans (setHalt_spares ..))
    fun _ => withoutCause_spares d s

theorem hasCause_clearCause (d : Cause) (s : State) : (clearCause d s).hasCause d = false := by
  have hleaves : (withoutCause d s).hasCause d = false := has_erase s.halt.causes d
  refine clearCause_cases (motive := fun t => t.hasCause d = false) (fun h => h) (fun _ _ => ?_)
    fun _ => hleaves
  rw [State.hasCause, setHalt_halt]
  rw [State.hasCause, ← closeEpisode_causes .auto] at hleaves
  exact hleaves

/-- R142: under a stop a clearing cause moves nothing, and the others stay. -/
theorem clearCause_stopped {d : Cause} (h : s.halt.state = .stopped) :
    (clearCause d s).halt.state = .stopped ∧
      ∀ e, e ≠ d → s.hasCause e = true → (clearCause d s).hasCause e = true :=
  clearCause_cases (motive := fun t => t.halt.state = .stopped ∧
      ∀ e, e ≠ d → s.hasCause e = true → t.hasCause e = true) (fun _ => ⟨h, fun _ _ he => he⟩)
    (fun hhold => by simp [h] at hhold) fun _ => ⟨h, fun _ hne he => has_erase_other hne he⟩

/-- R145: the open episode closes at the clock's stamp. -/
theorem closeEpisode_history {ep : Episode} {past : List Episode} (b : EndedBy)
    (h : s.halt.history = ep :: past) (hopen : ep.closing = none) :
    (closeEpisode b s).halt.history = { ep with closing := some (s.stamp, b) } :: past := by
  simp [closeEpisode, h, hopen, raiseAll, State.stamp]

/-- R142, R145: EXIT_BLOCKED is the one cause of a hold; its end lets the tunnel run, and AUTO ends
the episode. -/
theorem clearCause_resumes (hhold : s.halt.state = .holding) (hf : s.causesFit)
    (he : s.episodesFit) : (clearCause .exitBlocked s).halt.state = .running ∧
      ∃ ep past, (clearCause .exitBlocked s).halt.history = ep :: past ∧
        ep.closing = some (s.stamp, .auto) := by
  have hcauses : s.halt.causes = Set16.single Cause.exitBlocked.code := hf.2 hhold
  have hnone : (withoutCause .exitBlocked s).halt.causes = 0 := by
    show Set16.erase s.halt.causes Cause.exitBlocked.code = 0
    rw [hcauses]
    decide
  obtain ⟨hnonempty, -, hhead, -⟩ := he
  obtain ⟨ep, past, hhistory⟩ := List.exists_cons_of_ne_nil hnonempty
  have hopen : ep.closing = none := (hhead ep (by simp [hhistory])).mpr (by simp [hhold])
  refine clearCause_cases (motive := fun t => t.halt.state = .running ∧
      ∃ ep past, t.halt.history = ep :: past ∧ ep.closing = some (s.stamp, .auto))
    (fun h => ?_) (fun _ _ => ?_) (fun h => absurd ⟨hhold, hnone⟩ h)
  · rw [State.hasCause, hcauses] at h
    exact absurd h (by decide)
  · rw [setHalt_halt]
    exact ⟨rfl, _, _, closeEpisode_history (s := withoutCause .exitBlocked s) .auto hhistory hopen,
      rfl⟩

end Sys2Proof.Machine
end

section
/-! # An encoder pulse: what its reactions keep (R79, R80, R94)

A pulse is one removal, mark or cause after another. What it does to the roster is done by the time
the overdue cars are out; from there to the end of the event no car moves, no stop ends, no ticket
comes back, and a conveyor that turns keeps its mark and its samples. -/

namespace Sys2Proof.Machine

variable {s t u : State} {n : Nat}

/-! ## The mark and the samples (R80) -/

/-- The conveyor turns with its warning over. -/
def State.turns (s : State) : Prop := s.conv.state = .running ∨ s.conv.state = .stopping

/-- A turning conveyor turns on, with its mark and its samples. -/
def KeepsPace (s t : State) : Prop :=
  s.turns → t.turns ∧ t.conv.mark = s.conv.mark ∧ t.conv.samples = s.conv.samples

theorem KeepsPace.of_conv (h : t.conv = s.conv) : KeepsPace s t := fun hs => by
  rw [State.turns, h]
  exact ⟨hs, rfl, rfl⟩

theorem KeepsPace.trans (h : KeepsPace s t) (k : KeepsPace t u) : KeepsPace s u := fun hs => by
  obtain ⟨ht, hmark, hsamples⟩ := h hs
  obtain ⟨hu, hmark', hsamples'⟩ := k ht
  exact ⟨hu, hmark'.trans hmark, hsamples'.trans hsamples⟩

/-- R74: a RUNNING conveyor without demand coasts, which removes no sample. -/
theorem testDemand_keepsPace (s : State) : KeepsPace s (testDemand s) := fun hs => by
  cases hd : s.runDemand with
  | true =>
    rw [testDemand_keeps hd (by rcases hs with h | h <;> simp [h])]
    exact ⟨hs, rfl, rfl⟩
  | false =>
    rcases hs with h | h
    · rw [testDemand_coasts hd h]
      exact ⟨Or.inr rfl, rfl, rfl⟩
    · rw [testDemand_idle hd (Or.inr h)]
      exact ⟨Or.inr h, rfl, rfl⟩

theorem setHalt_keepsPace (new : HaltState) (s : State) : KeepsPace s (setHalt new s) := by
  have hmove : KeepsPace s (moveHalt new s) := .of_conv rfl
  have hconv : (setHalt new s).conv = (testDemand (moveHalt new s)).conv := by
    rw [setHalt_eq, gateHaltChange_conv, haltTaken, (stationsHaltChange_washes ..).conv]
  exact (hmove.trans (testDemand_keepsPace _)).trans (.of_conv hconv)

theorem raiseCause_keepsPace (c : Cause) (subj : Subject) (s : State) :
    KeepsPace s (raiseCause c subj s) := by
  have hjoin : (joinEpisode c (withCause c s)).conv = s.conv := joinEpisode_conv ..
  exact raiseCause_cases (motive := KeepsPace s) (fun _ => .of_conv rfl)
    (fun _ => KeepsPace.trans (t := openEpisode c subj (withCause c s)) (.of_conv rfl)
      (setHalt_keepsPace _ _))
    (fun _ _ => (KeepsPace.of_conv hjoin).trans (setHalt_keepsPace _ _)) fun _ _ => .of_conv hjoin

theorem retestDemand_keepsPace (s : State) : KeepsPace s (retestDemand s) := by
  have hconv : (retestDemand s).conv = (testDemand s).conv :=
    (evalIfPaceMoved_washes s (testDemand s)).conv
  exact (testDemand_keepsPace s).trans (.of_conv hconv)

theorem testTire_conv (s : State) : (testTire s).conv = s.conv := by
  unfold testTire
  split <;> rfl

theorem testIdleOnce_keepsPace (s : State) : KeepsPace s (testIdleOnce s) := by
  unfold testIdleOnce
  repeat' split
  · exact .of_conv rfl
  · exact .of_conv rfl
  · exact .of_conv rfl
  · exact .of_conv rfl
  · exact .of_conv (testTire_conv _)
  · exact KeepsPace.trans (t := { s with conv := { s.conv with parked := false } })
      (fun hs => ⟨hs, rfl, rfl⟩) (retestDemand_keepsPace _)
  · exact .of_conv rfl
  · exact .of_conv rfl

theorem testDrain_keepsPace (s : State) : KeepsPace s (testDrain s) := by
  unfold testDrain
  split
  · exact KeepsPace.trans (t := raiseTo .site .closeDone { s with mode := .closed })
      (.of_conv rfl) (retestDemand_keepsPace _)
  · exact .of_conv rfl

theorem testPark_keepsPace (b s : State) : KeepsPace s (testPark b s) := fun hs => by
  obtain ⟨tm, hconv⟩ := testPark_conv b s
  rw [State.turns, hconv]
  exact ⟨hs, rfl, rfl⟩

theorem settle_keepsPace (b s : State) : KeepsPace s (settle b s) :=
  (((testIdleOnce_keepsPace s).trans (testIdleOnce_keepsPace _)).trans
    (testDrain_keepsPace _)).trans (testPark_keepsPace b _)

/-! ## What the reactions after the removals keep -/

/-- Where a car stands and which eyes have seen it. -/
def Car.spot (c : Car) : Nat × Nat × Vector Bool 4 × Bool :=
  (c.ticket, c.front, c.marks, c.exitMark)

theorem spots_of_sights {l r : List Car} (h : l.map Car.sight = r.map Car.sight) :
    l.map Car.spot = r.map Car.spot := by
  have hview : Car.spot = (fun x : Nat × Nat × Option Nat × VehicleFlags × Vector Bool 4 × Bool =>
      (x.1, x.2.1, x.2.2.2.2)) ∘ Car.sight := rfl
  rw [hview, ← List.map_map, ← List.map_map, h]

/-- No car moves, no stop ends, no ticket comes back, and the pace is kept. -/
structure Follows (s t : State) : Prop where
  stop : KeepsStop s t
  cars : t.track.roster.map Car.spot = s.track.roster.map Car.spot
  ticket : ∀ n, s.ticket? n = none → t.ticket? n = none
  pace : KeepsPace s t

theorem Follows.refl (s : State) : Follows s s := ⟨.refl s, rfl, fun _ h => h, .of_conv rfl⟩

theorem Follows.trans (h : Follows s t) (k : Follows t u) : Follows s u where
  stop := h.stop.trans k.stop
  cars := k.cars.trans h.cars
  ticket n hn := k.ticket n (h.ticket n hn)
  pace := h.pace.trans k.pace

theorem Follows.driven (h : Follows s t) : Follows s (drive t) where
  stop := h.stop.driven
  cars := h.cars
  ticket := h.ticket
  pace := h.pace

/-- A change of the gate alone. -/
theorem follows_withGate (g : Gate) (s : State) : Follows s { s with gate := g } :=
  ⟨keepsStop_of_halt rfl rfl, rfl, fun _ h => h, .of_conv rfl⟩

theorem Washes.follows (h : Washes s t) : Follows s t where
  stop := h.keepsStop
  cars := spots_of_sights h.spares.cars
  ticket n hn := (h.spares.ticket? n).trans hn
  pace := .of_conv h.conv

theorem raiseCause_follows (c : Cause) (subj : Subject) (s : State) :
    Follows s (raiseCause c subj s) where
  stop := raiseCause_keepsStop ..
  cars := spots_of_sights (raiseCause_spares ..).cars
  ticket n hn := ((raiseCause_spares ..).ticket? n).trans hn
  pace := raiseCause_keepsPace c subj s

theorem testExitBlocked_follows (s : State) : Follows s (testExitBlocked s) := by
  unfold testExitBlocked
  split
  · exact raiseCause_follows ..
  · exact .refl s

theorem testSpacing_follows (s : State) : Follows s (testSpacing s) := by
  unfold testSpacing
  split
  · exact follows_withGate _ s
  · exact .refl s

theorem testTire_follows (s : State) : Follows s (testTire s) := by
  unfold testTire
  split
  · exact follows_withGate _ s
  · exact .refl s

theorem rosterChanged_follows (s : State) : Follows s (rosterChanged s) :=
  ((testExitBlocked_follows s).trans (evaluate_washes _).follows).trans (testSpacing_follows _)

theorem testLoadDistance_follows (s : State) : Follows s (testLoadDistance s) := by
  unfold testLoadDistance
  split
  · exact ((raiseCause_follows ..).trans (follows_withGate _ _)).trans (testTire_follows _)
  · exact .refl s

theorem testMaxLen_follows (s : State) : Follows s (testMaxLen s) := by
  unfold testMaxLen
  split
  · exact (follows_withGate _ s).trans (raiseCause_follows ..)
  · exact .refl s

theorem updateNewest_spots {f : Car → Car} (hf : ∀ c, (f c).spot = c.spot) (s : State) :
    (updateNewest f s).track.roster.map Car.spot = s.track.roster.map Car.spot := by
  rcases List.eq_nil_or_concat s.track.roster with h | ⟨older, c, h⟩
  · simp [updateNewest, h]
  · rw [List.concat_eq_append] at h
    simp [updateNewest_roster h, h, hf]

theorem lengthFixed_follows (len : Nat) (short : Bool) (s : State) :
    Follows s (lengthFixed len short s) where
  stop := keepsStop_of_halt rfl rfl
  cars := updateNewest_spots
    (f := fun c => { c with length := some len, flags := { c.flags with
      short := c.flags.short || short } }) (fun _ => rfl) s
  ticket _ hn := hn
  pace := .of_conv rfl

theorem testSettled_follows (s : State) : Follows s (testSettled s) := by
  cases h : s.settleDue with
  | true =>
    rw [testSettled_due h]
    exact (lengthFixed_follows ..).trans (rosterChanged_follows _)
  | false =>
    have hsame : testSettled s = s := if_neg (by simp [h])
    rw [hsame]
    exact .refl s

/-- R55, R57, R59: the gate as a pulse in MEASURING counts. -/
def pulseMeasured (s : State) : State :=
  if s.inputs.entryEye then
    if s.gate.tailgated then s
    else { s with gate := { s.gate with measCount := s.gate.measCount + 1 } }
  else { s with gate := { s.gate with settleCount := s.gate.settleCount + 1 } }

theorem gatePulse_loading (h : s.gate.state = .loading) : gatePulse s =
    testLoadDistance { s with gate := { s.gate with loadCount := s.gate.loadCount + 1 } } := by
  simp only [gatePulse, h]

theorem gatePulse_measuring (h : s.gate.state = .measuring) :
    gatePulse s = testSettled (testMaxLen (pulseMeasured s)) := by
  simp only [gatePulse, h, pulseMeasured]

/-- R62: elsewhere the gate only tests its spacing. -/
theorem gatePulse_other (hload : s.gate.state ≠ .loading) (hmeas : s.gate.state ≠ .measuring) :
    gatePulse s = testSpacing s := by
  cases hstate : s.gate.state with
  | loading => exact absurd hstate hload
  | measuring => exact absurd hstate hmeas
  | spacing => simp only [gatePulse, hstate]
  | idle => simp only [gatePulse, hstate, testSpacing_standing (s := s) (Or.inl (by simp [hstate]))]
  | offer => simp only [gatePulse, hstate, testSpacing_standing (s := s) (Or.inl (by simp [hstate]))]
  | held r => simp only [gatePulse, hstate, testSpacing_standing (s := s) (Or.inl (by simp [hstate]))]

theorem pulseMeasured_follows (s : State) : Follows s (pulseMeasured s) := by
  unfold pulseMeasured
  repeat' split
  · exact .refl s
  · exact follows_withGate _ s
  · exact follows_withGate _ s

theorem gatePulse_follows (s : State) : Follows s (gatePulse s) := by
  by_cases hload : s.gate.state = .loading
  · rw [gatePulse_loading hload]
    exact (follows_withGate _ s).trans (testLoadDistance_follows _)
  · by_cases hmeas : s.gate.state = .measuring
    · rw [gatePulse_measuring hmeas]
      exact ((pulseMeasured_follows s).trans (testMaxLen_follows _)).trans (testSettled_follows _)
    · rw [gatePulse_other hload hmeas]
      exact testSpacing_follows s

theorem settle_follows (b s : State) : Follows s (settle b s) where
  stop := settle_keepsStop b s
  cars := spots_of_sights (settle_cars b s)
  ticket _ hn := ticket?_none_settle b hn
  pace := settle_keepsPace b s

/-! ## CONV's part of a pulse (R79, R80) -/

/-- R79, R80: the conveyor as a pulse finds it, by its state and its mark. -/
def pulsedConv (s : State) : Conveyor :=
  { s.conv with
    pulseTotal := s.conv.pulseTotal + 1
    mark := if s.conv.state = .stopped then s.conv.mark else some s.now
    samples := (match s.conv.mark with
      | none => s.conv.samples
      | some m => if s.conv.state = .stopped then s.conv.samples
        else (max 50 (min 65535 (s.now - m)) :: s.conv.samples).take 4)
    stallTimer := if s.conv.state = .running then
        .running (s.settings.timing.stallTime * 100)
      else s.conv.stallTimer
    restTimer := if s.conv.state = .stopping then .running 100000 else s.conv.restTimer }

/-- A pulse of CONV writes the conveyor alone. -/
theorem convPulse_eq (s : State) : convPulse s = { s with conv := pulsedConv s } := by
  unfold convPulse pulsedConv recordPulse
  cases hstate : s.conv.state <;> cases hmark : s.conv.mark <;> simp only [hstate, hmark] <;> rfl

/-- R79, R80: a turning conveyor marks the pulse and records the interval. -/
theorem convPulse_turning (h : s.turns) : (convPulse s).turns ∧
    (convPulse s).conv.mark = some s.now ∧
    (∀ m, s.conv.mark = some m → (convPulse s).conv.samples =
      (max 50 (min 65535 (s.now - m)) :: s.conv.samples).take 4) ∧
    (s.conv.mark = none → (convPulse s).conv.samples = s.conv.samples) := by
  have hmoving : s.conv.state ≠ .stopped := by rcases h with h | h <;> simp [h]
  rw [convPulse_eq]
  refine ⟨h, if_neg hmoving, fun m hm => ?_, fun hm => ?_⟩
  · simp only [pulsedConv, hm, if_neg hmoving]
  · simp only [pulsedConv, hm]

end Sys2Proof.Machine
end

section
/-! # An encoder pulse: the cars that advance, slip and leave (R94, R95, R103, R105) -/

namespace Sys2Proof.Machine

variable {s t u : State} {c : Car} {n : Nat}

/-! ## Removals one after another -/

section
variable {f : State → Nat → State} (hf : ∀ s n, (f s n).track.roster.map Car.sight =
  (s.track.roster.filter (fun c => c.ticket ≠ n)).map Car.sight)
include hf

/-- What removals by ticket number leave is the cars of the other numbers. -/
theorem foldl_cars (l : List Nat) (s : State) : (l.foldl f s).track.roster.map Car.sight =
    (s.track.roster.filter (fun c => c.ticket ∉ l)).map Car.sight := by
  induction l generalizing s with
  | nil => simp
  | cons n l ih =>
    have hnumber : ∀ c d : Car, c.sight = d.sight →
        decide (c.ticket ∉ l) = decide (d.ticket ∉ l) := fun c d h => by rw [ticket_of_sight h]
    rw [List.foldl_cons, ih, filter_sights hnumber (hf s n), List.filter_filter]
    congr 1
    refine List.filter_congr fun c _ => ?_
    simp [List.mem_cons, Bool.and_comm]

end

section
variable {f : State → Nat → State} (hgone : ∀ s n, (f s n).ticket? n = none)
  (hkept : ∀ s m n, s.ticket? n = none → (f s m).ticket? n = none)
include hgone hkept

/-- The tickets of the removed cars are in the table no more. -/
theorem foldl_ticketless {l : List Nat} (hn : n ∈ l) (s : State) :
    (l.foldl f s).ticket? n = none := by
  induction l generalizing s with
  | nil => simp at hn
  | cons m l ih =>
    rw [List.foldl_cons]
    rcases List.mem_cons.mp hn with rfl | hn
    · exact List.foldlRecOn (motive := fun u : State => u.ticket? n = none) l f (hgone s n)
        fun u hu m _ => hkept u m n hu
    · exact ih hn _

end

/-! ## What removals and slips keep of a stop -/

/-- No stop ends, a turning conveyor keeps its pace, and what the set of causes fits stays fit. -/
structure KeepsHold (s t : State) : Prop where
  stop : KeepsStop s t
  pace : KeepsPace s t
  fits : s.causesFit → t.causesFit

theorem KeepsHold.refl (s : State) : KeepsHold s s := ⟨.refl s, .of_conv rfl, id⟩

theorem KeepsHold.trans (h : KeepsHold s t) (k : KeepsHold t u) : KeepsHold s u :=
  ⟨h.stop.trans k.stop, h.pace.trans k.pace, k.fits ∘ h.fits⟩

theorem KeepsHold.foldl {α : Type} {f : State → α → State} (hf : ∀ s x, KeepsHold s (f s x))
    (l : List α) (s : State) : KeepsHold s (l.foldl f s) :=
  List.foldlRecOn (motive := fun u => KeepsHold s u) l f (.refl s) fun u hu x _ => hu.trans (hf u x)

theorem causesFit_congr (h : t.halt = s.halt) (hf : s.causesFit) : t.causesFit := by
  rw [State.causesFit, h]
  exact hf

theorem raiseSlip_keepsHold (subj : Subject) (s : State) : KeepsHold s (raiseCause .slip subj s) :=
  ⟨raiseCause_keepsStop .slip subj s, raiseCause_keepsPace .slip subj s,
    fun hf => causesFit_of_stopped (raiseCause_stops hf rfl subj)⟩

theorem dropCar_keepsHold (n : Nat) (r : Result) (s : State) : KeepsHold s (dropCar n r s) :=
  have h := dropCar_removes n r s
  ⟨dropCar_keepsStop n r s, .of_conv h.conv, causesFit_congr h.halt⟩

/-- A fold that raises SLIP at each item raises it at all when there is one. -/
theorem hasCause_foldl {α : Type} {f : State → α → State} {d : Cause}
    (hraises : ∀ s x, (f s x).hasCause d = true)
    (hkeeps : ∀ s x, s.hasCause d = true → (f s x).hasCause d = true) {l : List α} {x : α}
    (hx : x ∈ l) (s : State) : (l.foldl f s).hasCause d = true := by
  cases l with
  | nil => simp at hx
  | cons y l =>
    exact List.foldlRecOn (motive := fun u : State => u.hasCause d = true) l f (hraises s y)
      fun u hu z _ => hkeeps u z hu

/-! ## The position limit (R95) -/

/-- R95: the tickets of the cars at the position limit. -/
def limitTickets (s : State) : List Nat :=
  (s.track.roster.filter (fun c => Config.frontMax ≤ c.front)).map (fun c => c.ticket)

/-- R94, R95: the fronts advanced and the cars at the position limit out. -/
def limitDropped (s : State) : State := (limitTickets s).foldl dropAtLimit (advanceFronts s)

/-- R103: the part once the slip test is made. -/
def slipTested (s : State) : State := testSlip (limitDropped s)

theorem trackPulse_eq (s : State) :
    trackPulse s = testExitBlocked (testOverdue (slipTested s)) := rfl

theorem advanceFronts_eq (s : State) :
    advanceFronts s = setRoster (s.track.roster.map advancedCar) s := rfl

theorem limitTickets_none (h : ∀ c ∈ s.track.roster, c.front < 16383) : limitTickets s = [] := by
  have hnone : s.track.roster.filter (fun c => Config.frontMax ≤ c.front) = [] :=
    List.filter_eq_nil_iff.mpr fun c hc e =>
      absurd (h c hc) (Nat.not_lt.mpr (of_decide_eq_true e))
  rw [limitTickets, hnone]
  rfl

theorem mem_limitTickets (hc : c ∈ s.track.roster) (h : 16383 ≤ c.front) :
    c.ticket ∈ limitTickets s :=
  List.mem_map.mpr ⟨c, List.mem_filter.mpr ⟨hc, decide_eq_true h⟩, rfl⟩

theorem limitDropped_none (h : limitTickets s = []) : limitDropped s = advanceFronts s := by
  rw [limitDropped, h]
  rfl

theorem advancedCar_ticket (c : Car) : (advancedCar c).ticket = c.ticket := by
  unfold advancedCar
  split <;> rfl

/-- R94: short of the position limit a car's front advances by one. -/
theorem advancedCar_of_lt (h : c.front < 16383) : advancedCar c = { c with front := c.front + 1 } :=
  if_pos h

theorem dropAtLimit_cars (s : State) (n : Nat) : (dropAtLimit s n).track.roster.map Car.sight =
    (s.track.roster.filter (fun c => c.ticket ≠ n)).map Car.sight :=
  (raiseCause_spares ..).cars.trans (dropCar_removes n .removed s).cars

theorem dropAtLimit_keepsHold (s : State) (n : Nat) : KeepsHold s (dropAtLimit s n) :=
  (dropCar_keepsHold n .removed s).trans (raiseSlip_keepsHold ..)

theorem limitDropped_keepsHold (s : State) : KeepsHold s (limitDropped s) := by
  have hadvance : KeepsHold s (advanceFronts s) :=
    ⟨keepsStop_of_halt rfl rfl, .of_conv rfl, id⟩
  exact hadvance.trans (.foldl dropAtLimit_keepsHold _ _)

theorem limitDropped_reacts (s : State) : Reacts s (limitDropped s) :=
  (Reacts.foldl dropAtLimit_reacts (limitTickets s) (advanceFronts s)).after rfl

theorem limitDropped_slip (h : n ∈ limitTickets s) : (limitDropped s).hasCause .slip = true :=
  hasCause_foldl (fun _ _ => (raiseCause_causes ..).1)
    (fun s n => (dropAtLimit_keepsHold s n).stop.causes .slip) h _

theorem limitDropped_cars (s : State) : (limitDropped s).track.roster.map Car.sight =
    ((s.track.roster.filter (fun c => c.ticket ∉ limitTickets s)).map advancedCar).map Car.sight := by
  rw [limitDropped, foldl_cars dropAtLimit_cars, advanceFronts_eq, setRoster_roster,
    List.filter_map]
  congr 2
  exact List.filter_congr fun c _ => by simp [advancedCar_ticket]

theorem Reacts.settings (h : Reacts s t) : t.settings = s.settings :=
  congrArg (fun x => x.2.1) (reacts_outer h)

/-! ## The slip test (R103) -/

theorem slipsAt_congr (h : t.settings = s.settings) (c : Car) (k : Checkpoint) :
    t.slipsAt c k = s.slipsAt c k := by
  simp only [State.slipsAt, State.checkpoint?, h]

theorem markSlips_congr (h : t.settings = s.settings) : t.markSlips = s.markSlips := by
  funext c
  simp only [State.markSlips, State.slipsAtExit, slipsAt_congr h, h]

theorem slipsAt_of_sight {c d : Car} (h : c.sight = d.sight) (k : Checkpoint) :
    s.slipsAt c k = s.slipsAt d k := by
  simp only [Car.sight, Prod.mk.injEq] at h
  obtain ⟨-, hfront, -, -, hmarks, -⟩ := h
  simp only [State.slipsAt, hfront, hmarks]

theorem slipsAtExit_of_sight {c d : Car} (h : c.sight = d.sight) :
    s.slipsAtExit c = s.slipsAtExit d := by
  simp only [Car.sight, Prod.mk.injEq] at h
  obtain ⟨-, hfront, -, -, -, hexit⟩ := h
  simp only [State.slipsAtExit, hfront, hexit]

theorem markSlips_of_sight {c d : Car} (h : c.sight = d.sight) :
    (s.markSlips c).sight = (s.markSlips d).sight := by
  have hslips := fun k => slipsAt_of_sight (s := s) h k
  have hexit := slipsAtExit_of_sight (s := s) h
  simp only [Car.sight, Prod.mk.injEq] at h
  obtain ⟨hticket, hfront, hlength, hflags, hmarks, hmark⟩ := h
  simp only [Car.sight, State.markSlips, hslips, hexit, hticket, hfront, hlength, hflags, hmarks,
    hmark]

/-- A map that reads what the cars show does the same to rosters that show the same. -/
theorem map_sights {f : Car → Car} (hf : ∀ c d : Car, c.sight = d.sight → (f c).sight = (f d).sight)
    {l r : List Car} (h : l.map Car.sight = r.map Car.sight) :
    (l.map f).map Car.sight = (r.map f).map Car.sight := by
  induction l generalizing r with
  | nil =>
    obtain rfl : r = [] := List.map_eq_nil_iff.mp h.symm
    rfl
  | cons c l ih =>
    obtain ⟨d, r', rfl, hd, hr⟩ := List.map_eq_cons_iff.mp h.symm
    simp only [List.map_cons, hf c d hd.symm, ih hr.symm]

/-- R103: a mark once SEEN stays so through the slip test. -/
theorem foldMarks_seen {p : Checkpoint → Bool} {k : Checkpoint} {l : List Checkpoint}
    {m : Vector Bool 4} (h : (k ∈ l ∧ p k = true) ∨ m[k] = true) :
    (l.foldl (fun m k => if p k then vset m k true else m) m)[k] = true := by
  induction l generalizing m with
  | nil => simpa using h
  | cons i l ih =>
    rw [List.foldl_cons]
    refine ih ?_
    by_cases hseen : m[k] = true
    · right
      split
      · rw [vset_get]
        split
        · rfl
        · exact hseen
      · exact hseen
    · obtain ⟨hmem, hp⟩ := h.resolve_right hseen
      rcases List.mem_cons.mp hmem with rfl | hmem
      · right
        rw [if_pos hp, vset_get, if_pos rfl]
      · exact Or.inl ⟨hmem, hp⟩

theorem mem_checkpointIxs (k : Checkpoint) : k ∈ checkpointIxs := by
  revert k
  decide

theorem markSlips_mark {k : Checkpoint} (h : s.slipsAt c k = true) :
    (s.markSlips c).marks[k] = true := foldMarks_seen (Or.inl ⟨mem_checkpointIxs k, h⟩)

theorem markSlips_exitMark : (s.markSlips c).exitMark = (c.exitMark || s.slipsAtExit c) := rfl

theorem slipsAtExit_iff : s.slipsAtExit c = true ↔ c.exitMark = false ∧
    s.settings.geometry.exitPos + s.settings.geometry.exitTol < c.front := by
  simp [State.slipsAtExit, and_comm]

theorem slipsAt_iff {k : Checkpoint} : s.slipsAt c k = true ↔
    ∃ g, s.settings.geometry.checkpoints[k.val]? = some g ∧ c.marks[k] = false ∧
      g.position + g.tolerance < c.front := by
  unfold State.slipsAt State.checkpoint?
  cases s.settings.geometry.checkpoints[k.val]? <;> simp [and_comm]

theorem slips_iff : s.slips c = true ↔ (∃ k, s.slipsAt c k = true) ∨ s.slipsAtExit c = true := by
  simp [State.slips, mem_checkpointIxs]

/-- R103: no eye has missed the car. -/
abbrev State.Tracked (s : State) (c : Car) : Prop :=
  (c.exitMark = false →
    c.front ≤ s.settings.geometry.exitPos + s.settings.geometry.exitTol) ∧
  ∀ (k : Checkpoint) (g : CheckpointCfg), s.settings.geometry.checkpoints[k.val]? = some g →
    c.marks[k] = false → c.front ≤ g.position + g.tolerance

theorem slips_of_tracked (h : s.Tracked c) : s.slips c = false := by
  obtain ⟨hexit, hcheck⟩ := h
  refine Bool.eq_false_iff.mpr fun hslips => ?_
  rcases slips_iff.mp hslips with ⟨k, hk⟩ | hat
  · obtain ⟨g, hg, hmark, hpast⟩ := slipsAt_iff.mp hk
    exact absurd (hcheck k g hg hmark) (Nat.not_le.mpr hpast)
  · obtain ⟨hmark, hpast⟩ := slipsAtExit_iff.mp hat
    exact absurd (hexit hmark) (Nat.not_le.mpr hpast)

theorem markSlips_of_not (h : s.slips c = false) : s.markSlips c = c := by
  have hnone : ¬ ((∃ k, s.slipsAt c k = true) ∨ s.slipsAtExit c = true) :=
    mt slips_iff.mpr (by simp [h])
  push Not at hnone
  obtain ⟨hcheck, hexit⟩ := hnone
  simp [State.markSlips, hcheck, hexit]

theorem testSlip_none (h : ∀ c ∈ s.track.roster, s.slips c = false) : testSlip s = s := by
  have hfilter : s.track.roster.filter s.slips = [] :=
    List.filter_eq_nil_iff.mpr fun c hc => by simp [h c hc]
  have hmap : s.track.roster.map s.markSlips = s.track.roster :=
    (List.map_congr_left fun c hc => markSlips_of_not (h c hc)).trans (List.map_id _)
  rw [testSlip, hfilter, hmap]
  rfl

theorem testSlip_keepsHold (s : State) : KeepsHold s (testSlip s) := by
  have hmarks : KeepsHold s (slipsMarked s) := ⟨keepsStop_of_halt rfl rfl, .of_conv rfl, id⟩
  have hraises := KeepsHold.foldl
    (f := fun (s' : State) (c : Car) => raiseCause .slip (.ticket c.ticket) s')
    (fun s' c => raiseSlip_keepsHold (.ticket c.ticket) s') (s.track.roster.filter s.slips)
    (slipsMarked s)
  unfold testSlip
  exact hmarks.trans hraises

theorem testSlip_slip (hc : c ∈ s.track.roster) (h : s.slips c = true) :
    (testSlip s).hasCause .slip = true := by
  have hraises : ∀ (u : State) (x : Car),
      (raiseCause .slip (.ticket x.ticket) u).hasCause .slip = true :=
    fun u x => (raiseCause_causes .slip (.ticket x.ticket) u).1
  have hkeeps : ∀ (u : State) (x : Car), u.hasCause .slip = true →
      (raiseCause .slip (.ticket x.ticket) u).hasCause .slip = true :=
    fun u x _ => hraises u x
  have hmem : c ∈ s.track.roster.filter s.slips := List.mem_filter.mpr ⟨hc, h⟩
  unfold testSlip
  exact hasCause_foldl hraises hkeeps hmem _

theorem slipTested_keepsHold (s : State) : KeepsHold s (slipTested s) :=
  (limitDropped_keepsHold s).trans (testSlip_keepsHold _)

theorem slipTested_reacts (s : State) : Reacts s (slipTested s) :=
  (limitDropped_reacts s).trans (testSlip_reacts _)

/-- R94, R95, R103: the cars that stay, advanced, with the marks of the eyes that missed them. -/
theorem slipTested_cars (s : State) : (slipTested s).track.roster.map Car.sight =
    ((s.track.roster.filter (fun c => c.ticket ∉ limitTickets s)).map
      (fun c => s.markSlips (advancedCar c))).map Car.sight := by
  have hmark : (limitDropped s).markSlips = s.markSlips :=
    markSlips_congr (limitDropped_reacts s).settings
  rw [slipTested, (testSlip_spares _).cars, slipsMarked, setRoster_roster, hmark,
    map_sights (fun _ _ => markSlips_of_sight) (limitDropped_cars s)]
  exact congrArg (List.map Car.sight) List.map_map

/-! ## The overdue cars (R105) -/

theorem dropAtExit_cases {motive : State → Prop} (s : State) (n : Nat)
    (gone : (∀ c ∈ s.track.roster, c.ticket ≠ n) → motive s)
    (leaves : ∀ c ∈ s.track.roster, c.ticket = n → motive (dropCar n c.washResult s)) :
    motive (dropAtExit s n) := by
  unfold dropAtExit
  split
  · next c hfind =>
    exact leaves c (List.mem_of_find?_eq_some hfind) (by simpa using List.find?_some hfind)
  · next hfind => exact gone (by simpa using hfind)

theorem dropAtExit_cars (s : State) (n : Nat) : (dropAtExit s n).track.roster.map Car.sight =
    (s.track.roster.filter (fun c => c.ticket ≠ n)).map Car.sight := by
  refine dropAtExit_cases (motive := fun t => t.track.roster.map Car.sight = _) s n (fun h => ?_)
    fun c _ _ => (dropCar_removes ..).cars
  rw [List.filter_eq_self.mpr fun c hc => decide_eq_true (h c hc)]

theorem dropAtExit_keepsHold (s : State) (n : Nat) : KeepsHold s (dropAtExit s n) :=
  dropAtExit_cases (motive := KeepsHold s) s n (fun _ => .refl s) fun _ _ _ => dropCar_keepsHold ..

theorem testOverdue_keepsHold (s : State) : KeepsHold s (testOverdue s) := by
  unfold testOverdue
  split
  · exact .refl s
  · exact .foldl dropAtExit_keepsHold _ _

/-- R105: what the overdue exits leave is some of the cars. -/
theorem testOverdue_subset (s : State) :
    (testOverdue s).track.roster.map Car.sight ⊆ s.track.roster.map Car.sight := by
  unfold testOverdue
  split
  · exact List.Subset.refl _
  · rw [foldl_cars dropAtExit_cars]
    exact List.map_subset _ (List.filter_subset_self _)

/-- R105: a car is overdue by its known length, its mark being SEEN. -/
abbrev State.PastExit (s : State) (c : Car) : Prop :=
  ∃ l, c.length = some l ∧
    (s.settings.geometry.exitPos : Int) + s.settings.geometry.exitTol < (c.front : Int) - (l : Int)

theorem overdue_iff : s.overdue c = true ↔ c.exitMark = true ∧ s.PastExit c := by
  unfold State.overdue Car.rear
  cases hl : c.length with
  | none =>
    have hpos : ¬ (s.settings.geometry.exitPos : Int) + s.settings.geometry.exitTol < 0 := by omega
    simp [State.PastExit, hl, hpos]
  | some l => simp [State.PastExit, hl]

theorem testOverdue_none (h : s.inputs.exitEye = true ∨ ∀ c ∈ s.track.roster, ¬ s.PastExit c) :
    testOverdue s = s := by
  unfold testOverdue
  rcases h with h | h
  · rw [if_pos h]
  · have hnone : s.track.roster.filter s.overdue = [] :=
      List.filter_eq_nil_iff.mpr fun c hc ho => h c hc (overdue_iff.mp ho).2
    rw [hnone]
    exact ite_self s

end Sys2Proof.Machine
end

section
/-! # The roster: EXIT_BLOCKED on a pulse (R109, R143) and the exit eye's statement -/

namespace Sys2Proof.Machine

variable {s t u : State} {c : Car} {older newer rest : List Car}

/-! ## A pulse as a whole -/

/-- The part as CONV hands a pulse to TRACK. -/
def pulsed (elapsed : Nat) (s : State) : State := convPulse (advance elapsed s)

theorem pulsed_eq (elapsed : Nat) (s : State) : pulsed elapsed s =
    { advance elapsed s with conv := pulsedConv (advance elapsed s) } := convPulse_eq _

theorem pulseAtGate_eq (elapsed : Nat) (s : State) : pulseAtGate elapsed s =
    evaluate (testExitBlocked (testOverdue (slipTested (pulsed elapsed s)))) := rfl

section
variable (elapsed : Nat) (s : State)

@[simp] theorem pulsed_track : (pulsed elapsed s).track = s.track := by rw [pulsed_eq]; rfl

@[simp] theorem pulsed_settings : (pulsed elapsed s).settings = s.settings := by rw [pulsed_eq]; rfl

@[simp] theorem pulsed_inputs : (pulsed elapsed s).inputs = s.inputs := by rw [pulsed_eq]; rfl

@[simp] theorem pulsed_haltState : (pulsed elapsed s).halt.state = s.halt.state := by
  rw [pulsed_eq]; rfl

@[simp] theorem pulsed_causes : (pulsed elapsed s).halt.causes = s.halt.causes := by
  rw [pulsed_eq]; rfl

@[simp] theorem pulsed_gate : (pulsed elapsed s).gate = (advance elapsed s).gate := by
  rw [pulsed_eq]

theorem pulsed_gateState : (pulsed elapsed s).gate.state = s.gate.state := by
  rw [pulsed_gate]; rfl

end

theorem pulsed_causesFit (elapsed : Nat) (hf : s.causesFit) : (pulsed elapsed s).causesFit := by
  rw [State.causesFit, pulsed_haltState, pulsed_causes]
  exact hf

/-- R94: the car one pulse on. -/
def Car.ahead (c : Car) : Car := { c with front := c.front + 1 }

section
variable (hlimit : ∀ c ∈ s.track.roster, c.front < 16383)
include hlimit

/-- R94: with no car at the position limit every front advances. -/
theorem advanceFronts_roster :
    (advanceFronts s).track.roster = s.track.roster.map Car.ahead := by
  rw [advanceFronts_eq, setRoster_roster]
  exact List.map_congr_left fun c hc => advancedCar_of_lt (hlimit c hc)

/-- Where no eye misses a car, TRACK advances every front and does nothing else. -/
theorem slipTested_quiet (htracked : ∀ c ∈ s.track.roster, s.Tracked c.ahead) :
    slipTested s = advanceFronts s := by
  rw [slipTested, limitDropped_none (limitTickets_none hlimit)]
  refine testSlip_none fun x hx => ?_
  rw [advanceFronts_roster hlimit] at hx
  obtain ⟨c, hc, rfl⟩ := List.mem_map.mp hx
  exact slips_of_tracked (s := advanceFronts s) (htracked c hc)

end

/-! ## EXIT_BLOCKED (R109) -/

/-- R109: the approaching car of a blocked exit is the oldest one with its mark UNSEEN. -/
theorem exitBlockedBy_approaching (heye : s.inputs.exitEye = true)
    (hroster : s.track.roster = older ++ c :: newer) (hseen : ∀ d ∈ older, d.exitMark = true)
    (hc : c.exitMark = false)
    (hguard : s.settings.geometry.exitPos ≤ c.front + s.settings.geometry.exitGuard)
    (hclear : ∀ d ∈ s.track.roster, ¬ s.SpansExit d) : s.exitBlockedBy = some c := by
  have hnone : s.track.roster.any (fun d => d.exitMark &&
      d.spans s.settings.geometry.exitPos s.settings.geometry.exitTol) = false := by
    simpa [Car.spans, State.SpansExit] using hclear
  have happroaching : s.approaching = some c := by
    rw [State.approaching, hroster, List.find?_append, List.find?_eq_none.mpr (by simpa using hseen)]
    simp [hc]
  simp [State.exitBlockedBy, heye, hnone, happroaching, hguard]

/-- R109, R140, R143: a blocked exit holds a running tunnel and takes its run demand. -/
theorem raiseExitBlocked_holds (hrun : s.halt.state = .running) (hf : s.causesFit)
    (subj : Subject) : (raiseCause .exitBlocked subj s).halt.state = .holding ∧
      (raiseCause .exitBlocked subj s).runsOnDemand := by
  have hnone : s.hasCause .exitBlocked = false := by simp [State.hasCause, hf.1 hrun, Set16.has]
  refine raiseCause_cases (motive := fun t => t.halt.state = .holding ∧ t.runsOnDemand)
    (fun h => by simp [hnone] at h) (fun _ => ⟨?_, setHalt_runsOnDemand _ _⟩)
    (fun h => by simp [hrun] at h) (fun h => absurd hrun h)
  rw [setHalt_halt]
  rfl

/-- A held tunnel has no run demand, so that its conveyor neither warns nor runs. -/
theorem restful_of_holding (hd : s.runsOnDemand) (h : s.halt.state = .holding) :
    s.conv.state ≠ .warning ∧ s.conv.state ≠ .running := by
  have hnone : ¬ s.runDemand = true := fun e => by
    obtain ⟨-, hrun, -⟩ := runDemand_iff.mp e
    simp [h] at hrun
  exact ⟨fun e => hnone (hd (Or.inl e)), fun e => hnone (hd (Or.inr e))⟩

/-- R109: a pulse that blocks the exit does nothing else that the halt unit sees. -/
structure HoldsForExit (c : Car) (t : State) : Prop where
  holding : t.halt.state = .holding
  cause : t.hasCause .exitBlocked = true
  rests : t.runsOnDemand
  episode : ∃ ep past, t.halt.history = ep :: past ∧ ep.first = .exitBlocked ∧
    ep.subject = .ticket c.ticket ∧ ep.closing = none

theorem HoldsForExit.then (h : HoldsForExit c t) (hh : u.halt = t.halt)
    (hd : t.runsOnDemand → u.runsOnDemand) : HoldsForExit c u where
  holding := by rw [hh]; exact h.holding
  cause := by rw [State.hasCause, hh]; exact h.cause
  rests := hd h.rests
  episode := by rw [hh]; exact h.episode

theorem testSpacing_halt (s : State) : (testSpacing s).halt = s.halt := by
  unfold testSpacing
  split <;> rfl

theorem testSpacing_drives (s : State) : (testSpacing s).drives = s.drives := by
  unfold testSpacing
  split <;> rfl

/-- R109, R143: the part as a pulse with a blocked exit brings it to the gate. -/
theorem pulseAtGate_blocked (elapsed : Nat) (heye : s.inputs.exitEye = true)
    (hrun : s.halt.state = .running) (hf : s.causesFit)
    (hroster : s.track.roster = older ++ c :: newer) (hseen : ∀ d ∈ older, d.exitMark = true)
    (hc : c.exitMark = false)
    (hguard : s.settings.geometry.exitPos ≤ c.front + 1 + s.settings.geometry.exitGuard)
    (hlimit : ∀ d ∈ s.track.roster, d.front < 16383)
    (htracked : ∀ d ∈ s.track.roster, s.Tracked d.ahead)
    (hclear : ∀ d ∈ s.track.roster, ¬ s.SpansExit d.ahead) :
    HoldsForExit c (pulseAtGate elapsed s) ∧
      ∃ tm, (pulseAtGate elapsed s).gate = { (advance elapsed s).gate with offerTimer := tm } := by
  have hlimit' : ∀ d ∈ (pulsed elapsed s).track.roster, d.front < 16383 := by simpa using hlimit
  have hadvanced : (advanceFronts (pulsed elapsed s)).track.roster =
      older.map Car.ahead ++ c.ahead :: newer.map Car.ahead := by
    rw [advanceFronts_roster hlimit', pulsed_track, hroster, List.map_append, List.map_cons]
  have hsettings : (advanceFronts (pulsed elapsed s)).settings = s.settings := pulsed_settings ..
  have heye' : (advanceFronts (pulsed elapsed s)).inputs.exitEye = true := by
    rw [show (advanceFronts (pulsed elapsed s)).inputs = s.inputs from pulsed_inputs ..]
    exact heye
  have hblocked : (advanceFronts (pulsed elapsed s)).exitBlockedBy = some c.ahead := by
    refine exitBlockedBy_approaching heye' hadvanced ?_ hc (by rw [hsettings]; exact hguard) ?_
    · simpa [Car.ahead] using hseen
    · rw [advanceFronts_roster hlimit', pulsed_track]
      simpa [State.SpansExit, hsettings] using hclear
  have hpulse : pulseAtGate elapsed s = evaluate (raiseCause .exitBlocked (.ticket c.ticket)
      (advanceFronts (pulsed elapsed s))) := by
    rw [pulseAtGate_eq, slipTested_quiet hlimit' (by simpa [State.Tracked] using htracked),
      testOverdue_none (Or.inl heye'), testExitBlocked, hblocked]
    rfl
  have hrun' : (advanceFronts (pulsed elapsed s)).halt.state = .running :=
    (pulsed_haltState ..).trans hrun
  have hf' : (advanceFronts (pulsed elapsed s)).causesFit := pulsed_causesFit elapsed hf
  have heval := evaluate_washes (raiseCause .exitBlocked (.ticket c.ticket)
    (advanceFronts (pulsed elapsed s)))
  obtain ⟨hholding, hrests⟩ := raiseExitBlocked_holds hrun' hf' (.ticket c.ticket)
  have hholds : HoldsForExit c (raiseCause .exitBlocked (.ticket c.ticket)
      (advanceFronts (pulsed elapsed s))) :=
    ⟨hholding, (raiseCause_causes ..).1, hrests, raiseCause_opens hf' hrun' ..⟩
  rw [hpulse]
  refine ⟨hholds.then heval.halt (runsOnDemand_congr heval.drives), ?_⟩
  rw [heval.gate, ← pulsed_gate elapsed s]
  exact raiseCause_offer ..

/-- R109: a pulse that blocks the exit holds the tunnel to the end of the event. -/
theorem HoldsForExit.ends (b : State) (h : HoldsForExit c u) (hload : u.gate.state ≠ .loading)
    (hmeas : u.gate.state ≠ .measuring) : HoldsForExit c (drive (settle b (gatePulse u))) := by
  rw [gatePulse_other hload hmeas]
  have hspaced := h.then (testSpacing_halt u) (runsOnDemand_congr (testSpacing_drives u))
  have hsettled := hspaced.then (settle_halt b _) (settle_runsOnDemand b)
  exact hsettled.then rfl (runsOnDemand_congr rfl)

/-! ## A break of the exit eye (R98, R102, R110) -/

/-- What follows the judgement of a break moves no car and ends no stop. -/
theorem exitBreak_ends (b u : State) :
    (drive (settleHalted b (testExitBlocked u))).track.roster.map Car.markView =
        u.track.roster.map Car.markView ∧
      KeepsStop u (drive (settleHalted b (testExitBlocked u))) ∧
      (drive (settleHalted b (testExitBlocked u))).inputs = u.inputs := by
  refine ⟨?_, ((testExitBlocked_keepsStop u).trans (settleHalted_keepsStop b _)).driven, ?_⟩
  · rw [drive_track]
    exact markView_of_sights ((settleHalted_cars b _).trans (testExitBlocked_spares u).cars)
  · rw [drive_inputs, settleHalted_inputs, (testExitBlocked_spares u).inputs]

theorem verifyExit_candidate_cars (hroster : s.track.roster = older ++ c :: newer)
    (hfirst : ∀ o ∈ older, ¬ s.AtExit o) (hc : s.AtExit c) :
    (verifyExit s).track.roster = older ++ { c with exitMark := true } :: newer := by
  rw [verifyExit_candidate hroster hfirst hc, setRoster_roster]

theorem verifyExit_ghost_stops (hf : s.causesFit) (hnone : ∀ c ∈ s.track.roster, ¬ s.AtExit c)
    (h : ∀ c ∈ s.track.roster, ¬ s.SpansExit c) :
    (verifyExit s).halt.state = .stopped ∧ (verifyExit s).hasCause .ghost = true := by
  rw [verifyExit_ghost hnone h]
  exact ⟨raiseCause_stops hf rfl _, (raiseCause_causes ..).1⟩

/-! ## A restore of the exit eye (R104, R109, R110, R142) -/

/-- With the conveyor moving, a restore judges no moved car. -/
theorem exitJudged_moving (hconv : s.conv.state ≠ .stopped)
    (hnodup : (s.track.roster.map (fun x => x.ticket)).Nodup) :
    Outlives (setExitEye false s) (exitJudged s) := by
  by_cases h : ∃ c rest, s.track.roster = c :: rest ∧ s.Cleared c
  · obtain ⟨c, rest, hroster, hc⟩ := h
    exact exitJudged_outlives hroster hc hnodup
  · push Not at h
    rw [exitJudged_none h, noteMoved_moving (s := setExitEye false s) _ (Or.inl hconv)]
    exact .refl _

/-- R142, R145: from HOLDING the end of EXIT_BLOCKED lets the tunnel run. -/
theorem exitRestore_resumes (h : Outlives (setExitEye false s) (exitJudged s))
    (hhold : s.halt.state = .holding) (hf : s.causesFit) (he : s.episodesFit) :
    (clearCause .exitBlocked (exitJudged s)).halt.state = .running ∧
      ∃ ep past, (clearCause .exitBlocked (exitJudged s)).halt.history = ep :: past ∧
        ep.closing = some (s.stamp, .auto) := by
  have hhalt : (exitJudged s).halt = s.halt := h.halt
  have hstamp : (exitJudged s).stamp = s.stamp := congrArg SiteClock.stamp h.clock
  rw [← hstamp]
  exact clearCause_resumes (by rw [hhalt, hhold]) (causesFit_congr hhalt hf)
    (by rw [State.episodesFit, hhalt]; exact he)

/-- R110: at rest a restore that removes no car sets the moved flag and stops the tunnel. -/
theorem exitRestore_rests (hnone : ∀ c rest, s.track.roster = c :: rest → ¬ s.Cleared c)
    (hconv : s.conv.state = .stopped) (hrun : s.halt.state ≠ .running) (hf : s.causesFit) :
    (clearCause .exitBlocked (exitJudged s)).track.moved = true ∧
      (clearCause .exitBlocked (exitJudged s)).halt.state = .stopped ∧
      (s.halt.state = .holding →
        (clearCause .exitBlocked (exitJudged s)).hasCause .rosterMoved = true) := by
  obtain ⟨hmoved, hstopped, hcause⟩ :=
    noteMoved_rests (s := setExitEye false s) .exit hf hconv hrun
  rw [exitJudged_none hnone]
  obtain ⟨hstays, hothers⟩ := clearCause_stopped (d := .exitBlocked) hstopped
  exact ⟨(clearCause_spares ..).moved.trans hmoved, hstays,
    fun hhold => hothers .rosterMoved (by simp) (hcause hhold)⟩

/-- Settles O37: a break is judged by the window and the span, and at rest by the moved flag; a
restore is the removals, the moved flag and the end of EXIT_BLOCKED, one after another; a pulse that
finds the exit blocked raises that cause alone. -/
theorem exitBreaksAndRestores : Obligations.ExitBreaksAndRestores := by
  unfold Obligations.ExitBreaksAndRestores
  refine ⟨fun s => ?_, fun elapsed older newer c s => ?_⟩
  · intro x tx view inWindow spans cleared
    refine ⟨fun hconv => ?_, fun hnodup => ?_, fun hconv hrun hf => ?_⟩
    · obtain ⟨hcars, hstop, hinputs⟩ := exitBreak_ends s (verifyExit (setExitEye true s))
      refine ⟨_, exec_exitEyeBreak_moving hconv, ?_, fun older c newer hroster hfirst hc => ?_,
        fun hnone => ⟨?_, fun hno hf => ?_⟩⟩
      · rw [hinputs, (verifyExit_reacts _).inputs]
        rfl
      · rw [← verifyExit_candidate_cars (s := setExitEye true s) hroster hfirst hc]
        exact hcars
      · exact hcars.trans (markView_of_sights (verifyExit_cars (s := setExitEye true s) hnone))
      · obtain ⟨hstopped, hghost⟩ :=
          verifyExit_ghost_stops (s := setExitEye true s) hf hnone hno
        exact ⟨hstop.stopped hstopped, hstop.causes _ hghost⟩
    · have hspares := clearCause_spares .exitBlocked (exitJudged s)
      refine ⟨_, exec_exitEyeRestore s, ?_, ?_, ?_, fun hconv hhold hf he => ?_,
        fun c rest tk hroster hc htk => ⟨?_, fun hconv => ?_, fun hhold hf he => ?_, fun hnext => ?_⟩,
        fun hnone hconv hrun hf => ?_⟩
      · rw [drive_inputs, (settle_reacts ..).inputs, hspares.inputs, exitJudged_inputs]
      · rw [State.hasCause, drive_halt, settle_halt]
        exact hasCause_clearCause ..
      · rw [drive_track]
        exact markView_of_sights (((settle_cars ..).trans hspares.cars).trans
          (exitJudged_cars hnodup))
      · rw [drive_halt, settle_halt]
        exact exitRestore_resumes (exitJudged_moving hconv hnodup) hhold hf he
      · rw [ticket?_drive]
        exact ticket?_none_settle s
          ((hspares.ticket? _).trans (ticket?_exitJudged hroster hc hnodup))
      · rw [drive_track, (settle_keepsStop ..).moved, hspares.moved,
          (exitJudged_outlives hroster hc hnodup).moved]
        rfl
      · rw [drive_halt, settle_halt]
        exact exitRestore_resumes (exitJudged_outlives hroster hc hnodup) hhold hf he
      · intro r
        have hbooks : books (settle s (clearCause .exitBlocked (exitJudged s))) =
            books (retireTicket c.ticket r s) := by
          rw [settle_books, clearCause_books, exitJudged_books hroster hc hnodup hnext, washResult_eq]
        simp only [books, Prod.mk.injEq] at hbooks
        exact hbooks
      · have hstop := (settle_keepsStop s (clearCause .exitBlocked (exitJudged s))).driven
        obtain ⟨hmoved, hstopped, hcause⟩ := exitRestore_rests hnone hconv hrun hf
        exact ⟨hstop.moved.trans hmoved, hstop.stopped hstopped,
          fun hhold => hstop.causes _ (hcause hhold)⟩
    · obtain ⟨-, hstop, hinputs⟩ := exitBreak_ends s (noteMoved .exit (setExitEye true s))
      obtain ⟨hmoved, hstopped, hcause⟩ :=
        noteMoved_rests (s := setExitEye true s) .exit hf hconv hrun
      refine ⟨_, exec_exitEyeBreak_atRest hconv, ?_, hstop.moved.trans hmoved,
        hstop.stopped hstopped, fun hhold => hstop.causes _ (hcause hhold)⟩
      rw [hinputs, (noteMoved_reacts ..).inputs]
      rfl
  · intro x tx heye hrun hf hload hmeas hroster hseen hc hguard hcars
    have hlimit : ∀ d ∈ s.track.roster, d.front < 16383 := fun d hd => (hcars d hd).1
    have htracked : ∀ d ∈ s.track.roster, s.Tracked d.ahead := fun d hd => by
      obtain ⟨-, hexit, -, hcheck⟩ := hcars d hd
      exact ⟨hexit, hcheck⟩
    have hclear : ∀ d ∈ s.track.roster, ¬ s.SpansExit d.ahead := fun d hd => by
      obtain ⟨-, -, hpast, -⟩ := hcars d hd
      rintro ⟨hmark, hfront, hrear⟩
      rcases hpast hmark with hshort | ⟨l, hl, hbeyond⟩
      · simp only [Car.ahead] at hfront
        omega
      · simp only [Car.rear, Car.ahead, hl] at hrear
        omega
    obtain ⟨hholds, tm, hgate⟩ := pulseAtGate_blocked elapsed heye hrun hf hroster hseen hc hguard
      hlimit htracked hclear
    have hends := hholds.ends s (by rw [hgate]; exact hload) (by rw [hgate]; exact hmeas)
    obtain ⟨hwarning, hrunning⟩ := restful_of_holding hends.rests hends.holding
    exact ⟨_, exec_encoderPulse elapsed s, hends.holding, hends.cause, hwarning, hrunning,
      hends.episode⟩

end Sys2Proof.Machine
end

section
/-! # An encoder pulse: every car's part in it (R62, R75, R76, R94, R95, R103, R105, R118) -/

namespace Sys2Proof.Machine

variable {s t u : State} {c d x : Car} {rest : List Car} {n : Nat}

/-! ## The pulse from TRACK's removals to the end of the event -/

/-- The part once an encoder pulse is taken. -/
def pulseDone (elapsed : Nat) (s : State) : State :=
  drive (settle s (gatePulse (pulseAtGate elapsed s)))

/-- The part once TRACK has let every car out that a pulse takes. -/
def pulseCleared (elapsed : Nat) (s : State) : State := testOverdue (slipTested (pulsed elapsed s))

theorem pulseAtGate_follows (elapsed : Nat) (s : State) :
    Follows (pulseCleared elapsed s) (pulseAtGate elapsed s) :=
  (testExitBlocked_follows _).trans (evaluate_washes _).follows

theorem pulse_follows (elapsed : Nat) (s : State) :
    Follows (pulseCleared elapsed s) (pulseDone elapsed s) :=
  (((pulseAtGate_follows elapsed s).trans (gatePulse_follows _)).trans (settle_follows s _)).driven

theorem pulseCleared_keepsHold (elapsed : Nat) (s : State) :
    KeepsHold (pulsed elapsed s) (pulseCleared elapsed s) :=
  (slipTested_keepsHold _).trans (testOverdue_keepsHold _)

theorem pulseAtGate_reacts (elapsed : Nat) (s : State) :
    Reacts (pulsed elapsed s) (pulseAtGate elapsed s) :=
  (trackPulse_reacts _).then_quiet (evaluate_frame _)

theorem pulse_reacts (elapsed : Nat) (s : State) :
    Reacts (pulsed elapsed s) (settle s (gatePulse (pulseAtGate elapsed s))) :=
  ((pulseAtGate_reacts elapsed s).trans (gatePulse_reacts _)).trans (settle_reacts s _)

/-- R79: the instant and the pulse total. -/
theorem pulseDone_total (elapsed : Nat) (s : State) :
    (pulseDone elapsed s).now = s.now + elapsed ∧
      (pulseDone elapsed s).conv.pulseTotal = s.conv.pulseTotal + 1 := by
  have houter := reacts_outer (pulse_reacts elapsed s)
  simp only [outer, Prod.mk.injEq] at houter
  obtain ⟨-, -, -, -, hnow, -, htotal⟩ := houter
  rw [pulseDone, drive_now, drive_conv, hnow, htotal, pulsed_eq]
  exact ⟨rfl, rfl⟩

/-- R80: a turning conveyor's mark and samples after a pulse. -/
theorem pulseDone_pace (elapsed : Nat) (h : s.turns) :
    (pulseDone elapsed s).conv.mark = some (s.now + elapsed) ∧
      (∀ m, s.conv.mark = some m → (pulseDone elapsed s).conv.samples =
        (max 50 (min 65535 (s.now + elapsed - m)) :: s.conv.samples).take 4) ∧
      (s.conv.mark = none → (pulseDone elapsed s).conv.samples = s.conv.samples) := by
  obtain ⟨hturns, hmark, hsome, hnone⟩ := convPulse_turning (s := advance elapsed s) h
  obtain ⟨-, hmark', hsamples⟩ :=
    (pulseCleared_keepsHold elapsed s).pace.trans (pulse_follows elapsed s).pace hturns
  exact ⟨hmark'.trans hmark, fun m hm => hsamples.trans (hsome m hm),
    fun hm => hsamples.trans (hnone hm)⟩

/-! ## The cars that stay (R94, R95, R103) -/

theorem exists_of_mem_sights {l r : List Car} (h : l.map Car.sight ⊆ r.map Car.sight) (hx : x ∈ l) :
    ∃ y ∈ r, x.sight = y.sight := by
  obtain ⟨y, hy, hsight⟩ := List.mem_map.mp (h (List.mem_map_of_mem hx))
  exact ⟨y, hy, hsight.symm⟩

/-- A car with a number that no car at the position limit has is short of the limit. -/
theorem lt_of_not_limit (hc : c ∈ s.track.roster) (h : c.ticket ∉ limitTickets s) :
    c.front < 16383 := Nat.lt_of_not_le fun hle => h (mem_limitTickets hc hle)

theorem mem_slipTested (hx : x ∈ (slipTested s).track.roster) : ∃ c ∈ s.track.roster,
    c.ticket ∉ limitTickets s ∧ x.sight = (s.markSlips c.ahead).sight := by
  obtain ⟨y, hy, hsight⟩ :=
    exists_of_mem_sights (fun _ h => (slipTested_cars s) ▸ h) hx
  obtain ⟨c, hc, rfl⟩ := List.mem_map.mp hy
  obtain ⟨hmem, hstay⟩ := List.mem_filter.mp hc
  have hstay : c.ticket ∉ limitTickets s := of_decide_eq_true hstay
  refine ⟨c, hmem, hstay, ?_⟩
  rw [hsight, advancedCar_of_lt (lt_of_not_limit hmem hstay)]
  rfl

/-- R94: with no car at the position limit every car stays. -/
theorem slipTested_all (hlimit : ∀ c ∈ s.track.roster, c.front < 16383) :
    (slipTested s).track.roster.map Car.sight =
      (s.track.roster.map (fun c => s.markSlips c.ahead)).map Car.sight := by
  rw [slipTested_cars, limitTickets_none hlimit]
  congr 1
  rw [List.filter_eq_self.mpr fun c _ => by simp]
  exact List.map_congr_left fun c hc => by rw [advancedCar_of_lt (hlimit c hc)]; rfl

theorem pastExit_of_sight (hsettings : t.settings = s.settings) (h : c.sight = d.sight)
    (hpast : t.PastExit c) : s.PastExit d := by
  simp only [Car.sight, Prod.mk.injEq] at h
  obtain ⟨-, hfront, hlength, -⟩ := h
  simpa only [State.PastExit, hsettings, hfront, hlength] using hpast

/-- R105: where the exit eye is broken, or no car that stays is past the exit, none is let out. -/
theorem testOverdue_slipTested (h : s.inputs.exitEye = true ∨
    ∀ c ∈ s.track.roster, c.front < 16383 → ¬ s.PastExit c.ahead) :
    testOverdue (slipTested s) = slipTested s := by
  refine testOverdue_none (h.imp (fun heye => ?_) fun hnone y hy hpast => ?_)
  · rw [(slipTested_reacts s).inputs]
    exact heye
  · obtain ⟨c, hc, hstay, hsight⟩ := mem_slipTested hy
    have hahead : s.PastExit (s.markSlips c.ahead) :=
      pastExit_of_sight (slipTested_reacts s).settings hsight hpast
    exact hnone c hc (lt_of_not_limit hc hstay) hahead

/-- The statement's condition: no known length puts a car's rear past the exit. -/
theorem not_pastExit (h : ∀ l, c.length = some l → (c.front : Int) + 1 - (l : Int) ≤
    s.settings.geometry.exitPos + s.settings.geometry.exitTol) : ¬ s.PastExit c.ahead := by
  rintro ⟨l, hl, hpast⟩
  have hle := h l hl
  simp only [Car.ahead] at hpast
  omega

/-- What a roster shows of tickets and fronts. -/
theorem fronts_of_spots {l r : List Car} (h : l.map Car.spot = r.map Car.spot) :
    l.map (fun c => (c.ticket, c.front)) = r.map (fun c => (c.ticket, c.front)) := by
  have hview : (fun c : Car => (c.ticket, c.front)) =
      (fun y : Nat × Nat × Vector Bool 4 × Bool => (y.1, y.2.1)) ∘ Car.spot := rfl
  rw [hview, ← List.map_map, ← List.map_map, h]

section
variable (elapsed : Nat) (hover : s.inputs.exitEye = true ∨
  ∀ c ∈ s.track.roster, c.front < 16383 → ¬ s.PastExit c.ahead)
include hover

theorem pulseCleared_slipTested :
    pulseCleared elapsed s = slipTested (pulsed elapsed s) :=
  testOverdue_slipTested (by simpa [State.PastExit] using hover)

/-- R94, R95: with no car overdue the cars that stay have advanced. -/
theorem pulseDone_fronts {l : List Car}
    (hstay : s.track.roster.filter (fun c => c.ticket ∉ limitTickets s) = l) :
    (pulseDone elapsed s).track.roster.map (fun c => (c.ticket, c.front)) =
      l.map (fun c => (c.ticket, c.front + 1)) := by
  have hcars := slipTested_cars (pulsed elapsed s)
  have htickets : limitTickets (pulsed elapsed s) = limitTickets s := by
    rw [limitTickets, pulsed_track]
    rfl
  rw [htickets, pulsed_track, hstay] at hcars
  have hspots := (pulse_follows elapsed s).cars
  rw [pulseCleared_slipTested elapsed hover] at hspots
  rw [fronts_of_spots (hspots.trans (spots_of_sights hcars)), List.map_map]
  refine List.map_congr_left fun c hc => ?_
  rw [← hstay] at hc
  obtain ⟨hmem, hout⟩ := List.mem_filter.mp hc
  have hlt := lt_of_not_limit hmem (of_decide_eq_true hout)
  simp only [Function.comp_apply, advancedCar_of_lt hlt, State.markSlips]

end

/-! ## The gate's counts (R55, R57, R59) -/

theorem pulseMeasured_broken (heye : s.inputs.entryEye = true) (htail : s.gate.tailgated = false) :
    pulseMeasured s = { s with gate := { s.gate with measCount := s.gate.measCount + 1 } } := by
  simp [pulseMeasured, heye, htail]

theorem pulseMeasured_restored (heye : s.inputs.entryEye = false) :
    pulseMeasured s = { s with gate := { s.gate with settleCount := s.gate.settleCount + 1 } } := by
  simp [pulseMeasured, heye]

/-- A gate that stands outside IDLE keeps what its own part of the pulse writes. -/
theorem pulseDone_gate (elapsed : Nat) (hgate : s.gate.state ≠ .idle) {g : Gate} (hg : g.state ≠ .idle)
    (h : gatePulse (pulseAtGate elapsed s) = { pulseAtGate elapsed s with gate := g }) :
    (pulseDone elapsed s).gate = g := by
  rw [pulseDone, drive_gate, h, settle_standing hgate hg]

theorem pulseAtGate_settings (elapsed : Nat) (s : State) : (pulseAtGate elapsed s).settings = s.settings :=
  (pulseAtGate_reacts elapsed s).settings.trans (pulsed_settings ..)

theorem pulseAtGate_inputs (elapsed : Nat) (s : State) : (pulseAtGate elapsed s).inputs = s.inputs :=
  (pulseAtGate_reacts elapsed s).inputs.trans (pulsed_inputs ..)

section
variable (elapsed : Nat) (hlimit : ∀ c ∈ s.track.roster, c.front < 16383)
  (hover : s.inputs.exitEye = true ∨
    ∀ c ∈ s.track.roster, c.front < 16383 → ¬ s.PastExit c.ahead)
include hlimit hover

/-- A pulse that takes no car out leaves a gate without an offer to its own counts. -/
theorem pulseAtGate_gate (hoffer : s.gate.state ≠ .offer) :
    (pulseAtGate elapsed s).gate = (advance elapsed s).gate := by
  have hslip : (slipTested (pulsed elapsed s)).gate = (advance elapsed s).gate := by
    rw [slipTested, limitDropped_none (limitTickets_none (by simpa using hlimit)),
      (testSlip_spares _).gate]
    · exact pulsed_gate elapsed s
    · exact fun e => hoffer ((pulsed_gateState elapsed s).symm.trans e)
  rw [pulseAtGate_eq, (evaluate_washes _).gate,
    testOverdue_slipTested (by simpa [State.PastExit] using hover),
    (testExitBlocked_spares _).gate (by rw [hslip]; exact hoffer), hslip]

/-- R55: the loading count, short of LoadDistance. -/
theorem pulseDone_loading (hload : s.gate.state = .loading)
    (hcount : s.gate.loadCount + 1 ≤ s.settings.timing.loadDistance) : (pulseDone elapsed s).gate =
      { (advance elapsed s).gate with loadCount := s.gate.loadCount + 1 } := by
  have hgate := pulseAtGate_gate elapsed hlimit hover (by simp [hload])
  have hstate : (pulseAtGate elapsed s).gate.state = .loading := by rw [hgate]; exact hload
  refine pulseDone_gate elapsed (by simp [hload]) (fun e => by simp [advance, hload] at e) ?_
  rw [gatePulse_loading hstate, hgate]
  refine testLoadDistance_other (Bool.eq_false_iff.mpr fun hdue => ?_)
  obtain ⟨-, hpast⟩ := loadDue_iff.mp hdue
  simp only [pulseAtGate_settings elapsed] at hpast
  exact absurd hcount (Nat.not_le.mpr hpast)

section
variable (hmeas : s.gate.state = .measuring)
include hmeas

/-- R57, R59: a count short of its limits is all that a pulse does to a gate that measures. -/
theorem pulseDone_measuring {g : Gate} (hg : g.state = .measuring)
    (hcounts : pulseMeasured (pulseAtGate elapsed s) = { pulseAtGate elapsed s with gate := g })
    (hmax : g.measCount ≤ s.settings.timing.maxLen)
    (hsettle : s.inputs.entryEye = false → g.settleCount < s.settings.timing.settle) :
    (pulseDone elapsed s).gate = g := by
  have hstate : (pulseAtGate elapsed s).gate.state = .measuring := by
    rw [pulseAtGate_gate elapsed hlimit hover (by simp [hmeas])]
    exact hmeas
  have hlen : testMaxLen { pulseAtGate elapsed s with gate := g } =
      { pulseAtGate elapsed s with gate := g } := by
    refine testMaxLen_other (Bool.eq_false_iff.mpr fun hdue => ?_)
    obtain ⟨-, -, hpast⟩ := maxLenDue_iff.mp hdue
    simp only [pulseAtGate_settings] at hpast
    exact absurd hmax (Nat.not_le.mpr hpast)
  refine pulseDone_gate elapsed (by simp [hmeas]) (by simp [hg]) ?_
  rw [gatePulse_measuring hstate, hcounts, hlen]
  refine if_neg fun hdue => ?_
  obtain ⟨-, -, heye, hpast⟩ := settleDue_iff.mp hdue
  simp only [pulseAtGate_settings, pulseAtGate_inputs] at heye hpast
  exact absurd (hsettle heye) (Nat.not_lt.mpr hpast)

/-- R57: with the entry eye broken the measuring count grows. -/
theorem pulseDone_measCount (htail : s.gate.tailgated = false) (heye : s.inputs.entryEye = true)
    (hcount : s.gate.measCount + 1 ≤ s.settings.timing.maxLen) : (pulseDone elapsed s).gate =
      { (advance elapsed s).gate with measCount := (advance elapsed s).gate.measCount + 1 } := by
  refine pulseDone_measuring elapsed hlimit hover hmeas hmeas ?_ hcount (by simp [heye])
  have hgate := pulseAtGate_gate elapsed hlimit hover (by simp [hmeas])
  have htail' : (pulseAtGate elapsed s).gate.tailgated = false := by rw [hgate]; exact htail
  rw [pulseMeasured_broken (by rw [pulseAtGate_inputs, heye]) htail', hgate]

/-- R57: with the entry eye restored the settle count grows. -/
theorem pulseDone_settleCount (heye : s.inputs.entryEye = false)
    (hmax : s.gate.measCount ≤ s.settings.timing.maxLen)
    (hcount : s.gate.settleCount + 1 < s.settings.timing.settle) : (pulseDone elapsed s).gate =
      { (advance elapsed s).gate with settleCount := (advance elapsed s).gate.settleCount + 1 } := by
  refine pulseDone_measuring elapsed hlimit hover hmeas hmeas ?_ hmax (fun _ => hcount)
  have hgate := pulseAtGate_gate elapsed hlimit hover (by simp [hmeas])
  rw [pulseMeasured_restored (by rw [pulseAtGate_inputs, heye]), hgate]

end

end

/-! ## A slip (R103) -/

theorem slips_congr (hsettings : t.settings = s.settings) (h : c.sight = d.sight) :
    t.slips c = s.slips d := by
  have hat : ∀ k, t.slipsAt c k = s.slipsAt d k := fun k =>
    (slipsAt_congr hsettings c k).trans (slipsAt_of_sight h k)
  have hexit : t.slipsAtExit c = s.slipsAtExit d := by
    rw [← slipsAtExit_of_sight (s := s) h]
    simp only [State.slipsAtExit, hsettings]
  simp only [State.slips, hexit, funext hat]

/-- R95, R103: a car that an eye missed raises SLIP, by its removal or by its mark. -/
theorem slipTested_slip (hc : c ∈ s.track.roster) (h : s.slips c.ahead = true) :
    (slipTested s).hasCause .slip = true := by
  by_cases hlimit : c.ticket ∈ limitTickets s
  · exact (testSlip_keepsHold _).stop.causes .slip (limitDropped_slip hlimit)
  · have hstay : c ∈ s.track.roster.filter (fun c => c.ticket ∉ limitTickets s) :=
      List.mem_filter.mpr ⟨hc, decide_eq_true hlimit⟩
    obtain ⟨x, hx, hsight⟩ := exists_of_mem_sights
      (fun _ h => (limitDropped_cars s).symm ▸ h) (List.mem_map_of_mem (f := advancedCar) hstay)
    rw [advancedCar_of_lt (lt_of_not_limit hc hlimit)] at hsight
    refine testSlip_slip hx ?_
    rw [slips_congr (limitDropped_reacts s).settings hsight.symm]
    exact h

/-- A ticket number names one car of the roster. -/
theorem eq_of_ticket (hnodup : (s.track.roster.map (fun x => x.ticket)).Nodup)
    (hc : c ∈ s.track.roster) (hd : d ∈ s.track.roster) (h : c.ticket = d.ticket) : c = d :=
  List.inj_on_of_nodup_map hnodup hc hd h

/-- R103: what an encoder pulse makes of a car that an eye missed. -/
theorem pulseDone_slips (elapsed : Nat) (hc : c ∈ s.track.roster) (h : s.slips c.ahead = true) :
    (pulseDone elapsed s).hasCause .slip = true ∧
      (s.causesFit → (pulseDone elapsed s).halt.state = .stopped) ∧
      ((s.track.roster.map (fun x => x.ticket)).Nodup → ∀ d ∈ (pulseDone elapsed s).track.roster,
        d.ticket = c.ticket → d.spot = (s.markSlips c.ahead).spot) := by
  have hsettings := pulsed_settings elapsed s
  have hmem : c ∈ (pulsed elapsed s).track.roster := by rwa [pulsed_track]
  have hslip : (slipTested (pulsed elapsed s)).hasCause .slip = true :=
    slipTested_slip hmem (by rw [slips_congr hsettings rfl]; exact h)
  have hstop : KeepsStop (slipTested (pulsed elapsed s)) (pulseDone elapsed s) :=
    (testOverdue_keepsHold _).stop.trans (pulse_follows elapsed s).stop
  refine ⟨hstop.causes _ hslip, fun hf => hstop.stopped ?_, fun hnodup d hd hticket => ?_⟩
  · exact stopped_of_hasCause ((slipTested_keepsHold _).fits (pulsed_causesFit elapsed hf)) rfl hslip
  · have hspot : d.spot ∈ (pulseCleared elapsed s).track.roster.map Car.spot :=
      (pulse_follows elapsed s).cars ▸ List.mem_map_of_mem hd
    obtain ⟨y, hy, hyd⟩ := List.mem_map.mp hspot
    obtain ⟨x, hx, hxy⟩ := exists_of_mem_sights (testOverdue_subset _) hy
    obtain ⟨c', hc', -, hsight⟩ := mem_slipTested hx
    rw [pulsed_track] at hc'
    have hspots : d.spot = (s.markSlips c'.ahead).spot := by
      rw [← hyd, ← markSlips_congr hsettings]
      exact congrArg (fun v => (v.1, v.2.1, v.2.2.2.2)) (hxy.trans hsight)
    have hnumber : c'.ticket = c.ticket := (congrArg Prod.fst hspots).symm.trans hticket
    rw [hspots, eq_of_ticket hnodup hc' hc hnumber]

/-! ## A quiet pulse (R75, R76, R94, R118) -/

/-- R94: with the exit eye restored, and no car at the limit, missed or overdue, TRACK advances the
fronts and STN evaluates. -/
theorem pulseAtGate_quiet (elapsed : Nat) (heye : s.inputs.exitEye = false)
    (hlimit : ∀ c ∈ s.track.roster, c.front < 16383)
    (htracked : ∀ c ∈ s.track.roster, s.Tracked c.ahead)
    (hover : ∀ c ∈ s.track.roster, c.front < 16383 → ¬ s.PastExit c.ahead) :
    pulseAtGate elapsed s = evaluate (advanceFronts (pulsed elapsed s)) := by
  have hquiet : slipTested (pulsed elapsed s) = advanceFronts (pulsed elapsed s) :=
    slipTested_quiet (by simpa using hlimit) (by simpa [State.Tracked] using htracked)
  have hcleared : testOverdue (slipTested (pulsed elapsed s)) = slipTested (pulsed elapsed s) :=
    pulseCleared_slipTested elapsed (Or.inr hover)
  have heye' : (advanceFronts (pulsed elapsed s)).inputs.exitEye = false :=
    (congrArg Inputs.exitEye (pulsed_inputs elapsed s)).trans heye
  rw [pulseAtGate_eq, hcleared, hquiet, testExitBlocked_restored heye']

theorem gatePulse_calm (hload : s.gate.state ≠ .loading) (hmeas : s.gate.state ≠ .measuring) :
    gatePulse s = if s.gate.state = .spacing then testSpacing s else s := by
  rw [gatePulse_other hload hmeas]
  split
  · rfl
  · next h => exact testSpacing_standing (Or.inl h)

/-! ## A car at the position limit (R61, R95) -/

section
variable (elapsed : Nat) (hroster : s.track.roster = c :: rest) (hfront : c.front = 16383)
  (hrest : ∀ d ∈ rest, d.front < 16383)
include hroster hfront hrest

theorem limitTickets_oldest : limitTickets s = [c.ticket] := by
  have hnone : rest.filter (fun c => Config.frontMax ≤ c.front) = [] :=
    List.filter_eq_nil_iff.mpr fun d hd e =>
      absurd (hrest d hd) (Nat.not_lt.mpr (of_decide_eq_true e))
  rw [limitTickets, hroster, List.filter_cons_of_pos (by simp [hfront, Config.frontMax]), hnone]
  rfl

theorem limitDropped_oldest :
    limitDropped s = dropAtLimit (advanceFronts s) c.ticket := by
  rw [limitDropped, limitTickets_oldest hroster hfront hrest]
  rfl

/-- R95: the ticket of the car at the limit is retired. -/
theorem ticket?_slipTested_oldest : (slipTested s).ticket? c.ticket = none := by
  have hdropped : (limitDropped s).ticket? c.ticket = none := by
    rw [limitDropped_oldest hroster hfront hrest]
    exact ((raiseCause_spares ..).ticket? _).trans (ticket?_dropCar ..)
  exact ((testSlip_spares _).ticket? _).trans hdropped

/-- R61: the removal of the car that the gate measures abandons the measurement. -/
theorem slipTested_gate_oldest (hmeas : s.gate.state = .measuring) (hlen : c.length = none) :
    (slipTested s).gate = abandonedGate s.gate := by
  have hmeasured : (advanceFronts s).Measures c.ticket := by
    refine ⟨hmeas, advancedCar c, ?_, advancedCar_ticket c, ?_⟩
    · rw [advanceFronts_eq, setRoster_roster, hroster]
      exact List.mem_cons_self
    · unfold advancedCar
      split <;> exact hlen
  have hdropped : (limitDropped s).gate = abandonedGate s.gate := by
    rw [limitDropped_oldest hroster hfront hrest]
    have hgate : (dropCar c.ticket .removed (advanceFronts s)).gate = abandonedGate s.gate :=
      dropCar_gate_measured hmeasured
    exact ((raiseCause_spares ..).gate (by rw [hgate]; simp [abandonedGate])).trans hgate
  have hmarked : (slipsMarked (limitDropped s)).gate = abandonedGate s.gate := hdropped
  rw [slipTested, (testSlip_spares _).gate (by rw [hmarked]; simp [abandonedGate]), hmarked]

end

/-- R51: under a stop an IDLE gate is held or waits. -/
theorem settle_not_measuring (hhalt : u.halt.state ≠ .running) (hidle : u.gate.state = .idle)
    (b : State) : (settle b u).gate.state ≠ .measuring := by
  cases hcheck : u.gate.mergeCheck with
  | true => rw [settle_gate_mergeCheck hidle b hcheck]; simp
  | false =>
    by_cases hpaid : ∀ n rest, u.gate.merge = n :: rest → ¬ u.Unpaid n
    · rw [settle_gate (testIdle_waits hhalt hcheck hpaid), hidle]
      simp
    · push Not at hpaid
      obtain ⟨n, rest, hm, hn⟩ := hpaid
      rw [settle_gate_unpaid hidle b hcheck hm hn]
      simp

/-- R51, R61: a gate that abandoned its measurement under a stop ends the pulse with its counts at
0. -/
theorem pulseDone_abandoned (elapsed : Nat) (hhalt : (pulseAtGate elapsed s).halt.state = .stopped)
    {g : Gate} (hgate : (pulseAtGate elapsed s).gate = abandonedGate g) :
    (pulseDone elapsed s).gate.state ≠ .measuring ∧ (pulseDone elapsed s).gate.measCount = 0 ∧
      (pulseDone elapsed s).gate.restoreCount = 0 ∧ (pulseDone elapsed s).gate.settleCount = 0 := by
  have hidle : (pulseAtGate elapsed s).gate.state = .idle := by rw [hgate]; rfl
  have hsame : gatePulse (pulseAtGate elapsed s) = pulseAtGate elapsed s := by
    rw [gatePulse_calm (by simp [hidle]) (by simp [hidle]), if_neg (by simp [hidle])]
  obtain ⟨hmeas, hrestore, hsettle, -⟩ := settle_counts (by simp [hhalt]) hidle s
  rw [pulseDone, drive_gate, hsame, hmeas, hrestore, hsettle, hgate]
  exact ⟨settle_not_measuring (by simp [hhalt]) hidle s, rfl, rfl, rfl⟩

/-! ## The overdue cars (R105) -/

/-- R106: a car of the roster that is let out takes its ticket with it. -/
theorem foldl_dropAtExit_ticketless {l : List Nat} (hn : n ∈ l)
    (hcar : n ∈ s.track.roster.map (fun c => c.ticket)) :
    (l.foldl dropAtExit s).ticket? n = none := by
  have hkept : ∀ (u : State) m, u.ticket? n = none → (dropAtExit u m).ticket? n = none :=
    fun u m hu => dropAtExit_cases (motive := fun t => t.ticket? n = none) u m (fun _ => hu)
      fun _ _ _ => ticket?_none_dropCar m _ hu
  induction l generalizing s with
  | nil => simp at hn
  | cons m l ih =>
    rw [List.foldl_cons]
    by_cases hmn : n = m
    · subst hmn
      refine List.foldlRecOn (motive := fun u : State => u.ticket? n = none) l dropAtExit ?_
        fun u hu m _ => hkept u m hu
      obtain ⟨c, hc, hticket⟩ := List.mem_map.mp hcar
      exact dropAtExit_cases (motive := fun t => t.ticket? n = none) s n
        (fun hnone => absurd hticket (hnone c hc)) fun _ _ _ => ticket?_dropCar ..
    · refine ih ((List.mem_cons.mp hn).resolve_left hmn) ?_
      rw [tickets_of_sights (dropAtExit_cars s m)]
      obtain ⟨c, hc, rfl⟩ := List.mem_map.mp hcar
      exact List.mem_map.mpr ⟨c, List.mem_filter.mpr ⟨hc, decide_eq_true hmn⟩, rfl⟩

section
variable (heye : s.inputs.exitEye = false)
include heye

theorem testOverdue_restored : testOverdue s =
    ((s.track.roster.filter s.overdue).map (fun c => c.ticket)).foldl dropAtExit s :=
  if_neg (by simp [heye])

theorem testOverdue_ticketless (hc : c ∈ s.track.roster) (h : s.overdue c = true) :
    (testOverdue s).ticket? c.ticket = none := by
  rw [testOverdue_restored heye]
  exact foldl_dropAtExit_ticketless (List.mem_map_of_mem (List.mem_filter.mpr ⟨hc, h⟩))
    (List.mem_map_of_mem hc)

theorem testOverdue_cars (hnodup : (s.track.roster.map (fun x => x.ticket)).Nodup) :
    (testOverdue s).track.roster.map Car.sight =
      (s.track.roster.filter (fun c => !s.overdue c)).map Car.sight := by
  rw [testOverdue_restored heye, foldl_cars dropAtExit_cars]
  congr 1
  refine List.filter_congr fun c hc => ?_
  have hmem : c.ticket ∈ (s.track.roster.filter s.overdue).map (fun c => c.ticket) ↔
      s.overdue c = true := by
    refine ⟨fun h => ?_, fun h => List.mem_map_of_mem (List.mem_filter.mpr ⟨hc, h⟩)⟩
    obtain ⟨d, hd, hticket⟩ := List.mem_map.mp h
    obtain ⟨hd, hover⟩ := List.mem_filter.mp hd
    exact eq_of_ticket hnodup hd hc hticket ▸ hover
  cases hover : s.overdue c <;> simp [hmem, hover]

end

/-- R103, R105: a car past the exit has its mark SEEN, by the eye or by the slip. -/
theorem overdue_markSlips (hsettings : t.settings = s.settings) (h : x.sight = (s.markSlips c).sight) :
    t.overdue x = true ↔ s.PastExit c := by
  rw [overdue_iff]
  refine ⟨fun ⟨_, hpast⟩ => ?_, fun hpast => ⟨?_, ?_⟩⟩
  · exact (pastExit_of_sight hsettings h hpast : s.PastExit (s.markSlips c))
  · rw [exitMark_of_sight h, markSlips_exitMark]
    obtain ⟨l, -, hl⟩ := hpast
    cases hmark : c.exitMark with
    | true => rfl
    | false => exact slipsAtExit_iff.mpr ⟨hmark, by omega⟩
  · exact pastExit_of_sight (c := s.markSlips c) hsettings.symm h.symm hpast

end Sys2Proof.Machine
end

section
/-! # An encoder pulse: its statement -/

namespace Sys2Proof.Machine

variable {s : State} {c : Car} {rest : List Car}

theorem exec_pulseDone (elapsed : Nat) (s : State) :
    exec (.encoderPulse elapsed) s = .next (pulseDone elapsed s) := rfl

/-- R75, R76, R94: the conveyor and the roster as a quiet pulse leaves them, before STN
evaluates. -/
theorem advanceFronts_pulsed (elapsed : Nat) (hlimit : ∀ c ∈ s.track.roster, c.front < 16383) :
    advanceFronts (pulsed elapsed s) = { advance elapsed s with
      conv := pulsedConv (advance elapsed s)
      track := { s.track with roster := s.track.roster.map Car.ahead } } := by
  have hroster : s.track.roster.map advancedCar = s.track.roster.map Car.ahead :=
    List.map_congr_left fun c hc => advancedCar_of_lt (hlimit c hc)
  rw [pulsed_eq, advanceFronts_eq, ← hroster]
  rfl

section
variable (elapsed : Nat) (hroster : s.track.roster = c :: rest) (hfront : c.front = 16383)
include hroster hfront

/-- R95: SLIP stops the tunnel before TRACK looks at the exit. -/
theorem pulseCleared_limit (hf : s.causesFit) : (pulseCleared elapsed s).hasCause .slip = true ∧
    (pulseCleared elapsed s).halt.state = .stopped := by
  have hc : c ∈ (pulsed elapsed s).track.roster := by simp [hroster]
  have hslip : (slipTested (pulsed elapsed s)).hasCause .slip = true :=
    (testSlip_keepsHold _).stop.causes .slip
      (limitDropped_slip (mem_limitTickets hc (Nat.le_of_eq hfront.symm)))
  have hstopped : (slipTested (pulsed elapsed s)).halt.state = .stopped :=
    stopped_of_hasCause ((slipTested_keepsHold _).fits (pulsed_causesFit elapsed hf)) rfl hslip
  have hkeeps := (testOverdue_keepsHold (slipTested (pulsed elapsed s))).stop
  exact ⟨hkeeps.causes _ hslip, hkeeps.stopped hstopped⟩

variable (hrest : ∀ d ∈ rest, d.front < 16383)
  (hover : s.inputs.exitEye = true ∨ ∀ c ∈ s.track.roster, c.front < 16383 → ¬ s.PastExit c.ahead)
include hrest hover

/-- R95: the ticket of the car at the limit is in the table no more. -/
theorem ticket?_pulseDone_limit : (pulseDone elapsed s).ticket? c.ticket = none := by
  refine (pulse_follows elapsed s).ticket _ ?_
  rw [pulseCleared_slipTested elapsed hover]
  exact ticket?_slipTested_oldest (by rw [pulsed_track, hroster]) hfront hrest

/-- R61: a measurement of the car at the limit is abandoned. -/
theorem pulseAtGate_abandoned (hmeas : s.gate.state = .measuring) (hlen : c.length = none) :
    (pulseAtGate elapsed s).gate = abandonedGate (pulsed elapsed s).gate := by
  have hgate : (pulseCleared elapsed s).gate = abandonedGate (pulsed elapsed s).gate := by
    rw [pulseCleared_slipTested elapsed hover]
    exact slipTested_gate_oldest (by rw [pulsed_track, hroster]) hfront hrest
      ((pulsed_gateState elapsed s).trans hmeas) hlen
  rw [← hgate]
  have hspares := (testExitBlocked_spares (pulseCleared elapsed s)).trans
    (evaluate_washes (testExitBlocked (pulseCleared elapsed s))).spares
  exact hspares.gate (by rw [hgate]; simp [abandonedGate])

end

theorem overdue_of_sight {c d : Car} (h : c.sight = d.sight) : s.overdue c = s.overdue d := by
  obtain ⟨hrear, -⟩ := Car.rear_of_sight h
  rw [State.overdue, State.overdue, hrear, exitMark_of_sight h]

section
variable (elapsed : Nat) (heye : s.inputs.exitEye = false)
  (hlimit : ∀ c ∈ s.track.roster, c.front < 16383)
  (hnodup : (s.track.roster.map (fun x => x.ticket)).Nodup)
include heye hlimit

/-- R105, R106: an overdue car's ticket is in the table no more. -/
theorem ticket?_pulseDone_overdue (hc : c ∈ s.track.roster) (hpast : s.PastExit c.ahead) :
    (pulseDone elapsed s).ticket? c.ticket = none := by
  have heye' : (slipTested (pulsed elapsed s)).inputs.exitEye = false := by
    rw [(slipTested_reacts _).inputs, pulsed_inputs]
    exact heye
  have hmem : (s.markSlips c.ahead).sight ∈
      (slipTested (pulsed elapsed s)).track.roster.map Car.sight := by
    rw [slipTested_all (by simpa using hlimit), pulsed_track,
      markSlips_congr (pulsed_settings elapsed s)]
    exact List.mem_map_of_mem (List.mem_map_of_mem (f := fun c => s.markSlips c.ahead) hc)
  obtain ⟨x, hx, hsight⟩ := List.mem_map.mp hmem
  have hticket : x.ticket = c.ticket := (ticket_of_sight hsight).trans rfl
  have hoverdue := (overdue_markSlips ((slipTested_reacts _).settings.trans
    (pulsed_settings elapsed s)) hsight).mpr hpast
  refine (pulse_follows elapsed s).ticket _ ?_
  rw [← hticket]
  exact testOverdue_ticketless heye' hx hoverdue

include hnodup

/-- R94, R105: while the exit eye is restored the cars that are not overdue have advanced. -/
theorem pulseDone_fronts_restored {overdue : Car → Bool}
    (hoverdue : ∀ c ∈ s.track.roster, overdue c = true ↔ s.PastExit c.ahead) :
    (pulseDone elapsed s).track.roster.map (fun c => (c.ticket, c.front)) =
      (s.track.roster.filter (fun c => !overdue c)).map (fun c => (c.ticket, c.front + 1)) := by
  have hreacts := slipTested_reacts (pulsed elapsed s)
  have heye' : (slipTested (pulsed elapsed s)).inputs.exitEye = false := by
    rw [hreacts.inputs, pulsed_inputs]
    exact heye
  have hsettings : (slipTested (pulsed elapsed s)).settings = s.settings :=
    hreacts.settings.trans (pulsed_settings elapsed s)
  have hall := slipTested_all (s := pulsed elapsed s) (by simpa using hlimit)
  rw [pulsed_track, markSlips_congr (pulsed_settings elapsed s)] at hall
  have hnodup' : ((slipTested (pulsed elapsed s)).track.roster.map (fun x => x.ticket)).Nodup := by
    rw [tickets_of_sights hall, List.map_map]
    exact hnodup
  have hread : ∀ c d : Car, c.sight = d.sight →
      (!(slipTested (pulsed elapsed s)).overdue c) = !(slipTested (pulsed elapsed s)).overdue d :=
    fun c d h => by rw [overdue_of_sight h]
  have hkept : (s.track.roster.map (fun c => s.markSlips c.ahead)).filter
      (fun c => !(slipTested (pulsed elapsed s)).overdue c) =
      (s.track.roster.filter (fun c => !overdue c)).map (fun c => s.markSlips c.ahead) := by
    rw [List.filter_map]
    congr 1
    refine List.filter_congr fun c hc => ?_
    rw [Function.comp_apply, Bool.eq_iff_iff.mpr
      ((overdue_markSlips hsettings rfl).trans (hoverdue c hc).symm)]
  have hcleared : (pulseCleared elapsed s).track.roster.map Car.sight =
      ((s.track.roster.filter (fun c => !overdue c)).map
        (fun c => s.markSlips c.ahead)).map Car.sight := by
    rw [pulseCleared, testOverdue_cars heye' hnodup', filter_sights hread hall, hkept]
  rw [fronts_of_spots ((pulse_follows elapsed s).cars.trans (spots_of_sights hcleared)),
    List.map_map]
  rfl

end

/-- Settles O35: TRACK takes the cars out that a pulse ends, marks the missed ones and advances the
rest; what follows to the end of the event moves no car, and ends neither a stop nor the conveyor's
pace. -/
theorem pulsesAdvanceEveryCar : Obligations.PulsesAdvanceEveryCar := by
  unfold Obligations.PulsesAdvanceEveryCar
  refine ⟨fun elapsed s hlimit heye => ?_, fun elapsed s => ?_,
    fun elapsed s heye hload hmeas hcars => ?_,
    fun elapsed c rest tk s hroster hfront hrest hnodup htk hf heye => ?_,
    fun elapsed s heye hlimit hnodup => ?_⟩
  · have hover : s.inputs.exitEye = true ∨
        ∀ c ∈ s.track.roster, c.front < 16383 → ¬ s.PastExit c.ahead :=
      heye.imp_right fun h c hc _ => not_pastExit (h c hc)
    have hstay : s.track.roster.filter (fun c => c.ticket ∉ limitTickets s) = s.track.roster := by
      rw [limitTickets_none hlimit]
      exact List.filter_eq_self.mpr fun c _ => by simp
    obtain ⟨hnow, htotal⟩ := pulseDone_total elapsed s
    refine ⟨_, exec_pulseDone elapsed s, hnow, htotal, pulseDone_fronts elapsed hover hstay,
      fun hturns => pulseDone_pace elapsed hturns, fun hload hcount => ?_,
      fun hmeas htail hentry hcount => ?_, fun hmeas htail hentry hmax hcount => ?_⟩
    · rw [pulseDone_loading elapsed hlimit hover hload hcount]
      exact ⟨hload, rfl⟩
    · rw [pulseDone_measCount elapsed hlimit hover hmeas htail hentry hcount]
      exact ⟨hmeas, rfl⟩
    · rw [pulseDone_settleCount elapsed hlimit hover hmeas hentry hmax hcount]
      exact ⟨hmeas, rfl⟩
  · refine ⟨_, exec_pulseDone elapsed s, fun c hc => ?_⟩
    intro slipped
    refine ⟨fun hmark hpast => ?_, fun k g hg hmark hpast => ?_⟩
    · have hat : s.slipsAtExit c.ahead = true := slipsAtExit_iff.mpr ⟨hmark, hpast⟩
      obtain ⟨hslip, hstopped, hspot⟩ := pulseDone_slips elapsed hc (slips_iff.mpr (Or.inr hat))
      refine ⟨hslip, hstopped, fun hnodup d hd hticket => ?_⟩
      have hseen : d.exitMark = (s.markSlips c.ahead).exitMark :=
        congrArg (fun v => v.2.2.2) (hspot hnodup d hd hticket)
      beta_reduce
      rw [hseen, markSlips_exitMark, hat, Bool.or_true]
    · have hat : s.slipsAt c.ahead k = true := slipsAt_iff.mpr ⟨g, hg, hmark, hpast⟩
      obtain ⟨hslip, hstopped, hspot⟩ :=
        pulseDone_slips elapsed hc (slips_iff.mpr (Or.inl ⟨k, hat⟩))
      refine ⟨hslip, hstopped, fun hnodup d hd hticket => ?_⟩
      have hseen : d.marks = (s.markSlips c.ahead).marks :=
        congrArg (fun v => v.2.2.1) (hspot hnodup d hd hticket)
      beta_reduce
      rw [hseen]
      exact markSlips_mark hat
  · have hlimit : ∀ c ∈ s.track.roster, c.front < 16383 := fun c hc => (hcars c hc).1
    have htracked : ∀ c ∈ s.track.roster, s.Tracked c.ahead := fun c hc => by
      obtain ⟨-, hexit, hcheck, -⟩ := hcars c hc
      exact ⟨hexit, hcheck⟩
    have hover : ∀ c ∈ s.track.roster, c.front < 16383 → ¬ s.PastExit c.ahead := fun c hc _ => by
      obtain ⟨-, -, -, hlen⟩ := hcars c hc
      exact not_pastExit hlen
    intro a u
    have hpulse : pulseAtGate elapsed s = evaluate u := by
      rw [pulseAtGate_quiet elapsed heye hlimit htracked hover, advanceFronts_pulsed elapsed hlimit]
      rfl
    have hstate : (evaluate u).gate.state = s.gate.state :=
      (congrArg Gate.state (evaluate_washes u).gate).trans rfl
    rw [exec_encoderPulse, hpulse, gatePulse_calm (by rw [hstate]; exact hload)
      (by rw [hstate]; exact hmeas), hstate]
  · have hover : s.inputs.exitEye = true ∨
        ∀ d ∈ s.track.roster, d.front < 16383 → ¬ s.PastExit d.ahead := by
      refine heye.imp_right fun h d hd hlt => ?_
      rw [hroster] at hd
      rcases List.mem_cons.mp hd with rfl | hd
      · omega
      · exact not_pastExit (h d hd)
    have hstay : s.track.roster.filter (fun x => x.ticket ∉ limitTickets s) = rest := by
      rw [limitTickets_oldest hroster hfront hrest, hroster]
      rw [hroster] at hnodup
      simpa using filter_oldest hnodup
    obtain ⟨hslip, hstopped⟩ := pulseCleared_limit elapsed hroster hfront hf
    have hstop := (pulse_follows elapsed s).stop
    refine ⟨_, exec_pulseDone elapsed s, pulseDone_fronts elapsed hover hstay,
      ticket?_pulseDone_limit elapsed hroster hfront hrest hover, hstop.causes _ hslip,
      hstop.stopped hstopped, fun hmeas hlen => ?_⟩
    exact pulseDone_abandoned elapsed ((pulseAtGate_follows elapsed s).stop.stopped hstopped)
      (pulseAtGate_abandoned elapsed hroster hfront hrest hover hmeas hlen)
  · intro overdue
    have hoverdue : ∀ c ∈ s.track.roster, overdue c = true ↔ s.PastExit c.ahead := fun c _ => by
      simp only [overdue]
      cases hl : c.length <;> simp [State.PastExit, Car.ahead, hl]
    exact ⟨_, exec_pulseDone elapsed s, pulseDone_fronts_restored elapsed heye hlimit hnodup hoverdue,
      fun c hc h => ticket?_pulseDone_overdue elapsed heye hlimit hc ((hoverdue c hc).mp h)⟩

end Sys2Proof.Machine
end

section
/-! # Wash stations: the lead and the points (R115, R116) -/

namespace Sys2Proof.Machine

/-- R115: the quotient rounded up is the least whose product reaches the dividend. -/
theorem ceilDiv_le_iff {a b : Nat} (hb : 0 < b) (q : Nat) : ceilDiv a b ≤ q ↔ a ≤ q * b := by
  rw [ceilDiv, ← Nat.ceilDiv_eq_add_pred_div, ceilDiv_le_iff_le_mul hb, Nat.mul_comm]

theorem reached_iff {s : State} {j : StationIx} {c : Car} :
    s.reached j c = true ↔ onPointOf (s.station j) s.avgPeriod ≤ c.front := decide_eq_true_iff

theorem windowOpen_iff {s : State} {j : StationIx} {c : Car} :
    s.windowOpen j c = true ↔ c.rear < (offPointOf (s.station j) s.avgPeriod : Int) := decide_eq_true_iff

/-- Settles O43: the rounded-up quotient is the least that covers 100 × latency, and the points are
natural numbers cut off at 0. -/
theorem leadAndPointsFollowThePace : Obligations.LeadAndPointsFollowThePace := by
  unfold Obligations.LeadAndPointsFollowThePace
  refine ⟨fun st avg havg => ⟨ceilDiv (100 * st.latency) avg, ?_, fun r hr => ?_, rfl, ?_, ?_⟩,
    fun s j c => ⟨reached_iff, windowOpen_iff⟩⟩
  · exact (ceilDiv_le_iff havg _).mp (Nat.le_refl _)
  · exact (ceilDiv_le_iff havg r).mpr hr
  · rw [onPointOf]
    omega
  · rw [offPointOf]
    omega

end Sys2Proof.Machine
end

section
/-! # Wash stations: a car's status at one station (R117 to R119)

What a station reads of a car: all that the car shows, and its status there. Writing another
station's status, or the same one to a car that no test picks, changes none of it. -/

namespace Sys2Proof.Machine

variable {s t u : State} {i j : StationIx} {c d : Car} {p q : Progress}

/-! ## Reading and writing a status -/

theorem status_setStatus_same (c : Car) (j : StationIx) (p : Progress) :
    (c.setStatus j p).status j = p := vset_getElem_same ..

theorem status_setStatus_other (h : i ≠ j) (c : Car) (p : Progress) :
    (c.setStatus i p).status j = c.status j :=
  (vset_get c.progress i j p).trans (if_neg h)

theorem sight_setStatus (c : Car) (j : StationIx) (p : Progress) :
    (c.setStatus j p).sight = c.sight := rfl

@[simp] theorem reached_setStatus : s.reached j (c.setStatus i p) = s.reached j c := rfl

@[simp] theorem windowOpen_setStatus : s.windowOpen j (c.setStatus i p) = s.windowOpen j c := rfl

@[simp] theorem qualifies_setStatus : s.qualifies j (c.setStatus i p) = s.qualifies j c := rfl

theorem machine_setMachine_same (j : StationIx) (m : StationMachine) (s : State) :
    (setMachine j m s).machine j = m := vset_getElem_same ..

theorem machine_setMachine_other (h : i ≠ j) (m : StationMachine) (s : State) :
    (setMachine i m s).machine j = s.machine j :=
  machine_updateMachine_other h (fun _ => m) s

/-! ## What a station reads -/

/-- What a station reads of a car. -/
def Car.face (j : StationIx) (c : Car) :
    (Nat × Nat × Option Nat × VehicleFlags × Vector Bool 4 × Bool) × Progress :=
  (c.sight, c.status j)

theorem face_iff : c.face j = d.face j ↔ c.sight = d.sight ∧ c.status j = d.status j := by
  simp [Car.face]

theorem statuses_of_faces {l r : List Car} (h : l.map (Car.face j) = r.map (Car.face j)) :
    l.map (fun c => c.status j) = r.map (fun c => c.status j) := by
  have hview : (fun c : Car => c.status j) = Prod.snd ∘ Car.face j := rfl
  rw [hview, ← List.map_map, ← List.map_map, h]

section
variable {f g : Car → Car} {a b : Car → Bool} {l r : List Car}

theorem map_faces (hfg : ∀ c d : Car, c.face j = d.face j → (f c).face j = (g d).face j)
    (h : l.map (Car.face j) = r.map (Car.face j)) :
    (l.map f).map (Car.face j) = (r.map g).map (Car.face j) := by
  induction l generalizing r with
  | nil =>
    obtain rfl : r = [] := List.map_eq_nil_iff.mp h.symm
    rfl
  | cons c l ih =>
    obtain ⟨d, r', rfl, hd, hr⟩ := List.map_eq_cons_iff.mp h.symm
    simp only [List.map_cons, hfg c d hd.symm, ih hr.symm]

variable (hab : ∀ c d : Car, c.face j = d.face j → a c = b d)
include hab

theorem mapFirst_faces (hfg : ∀ c d : Car, c.face j = d.face j → (f c).face j = (g d).face j)
    (h : l.map (Car.face j) = r.map (Car.face j)) :
    (mapFirst a f l).map (Car.face j) = (mapFirst b g r).map (Car.face j) := by
  induction l generalizing r with
  | nil =>
    obtain rfl : r = [] := List.map_eq_nil_iff.mp h.symm
    rfl
  | cons c l ih =>
    obtain ⟨d, r', rfl, hd, hr⟩ := List.map_eq_cons_iff.mp h.symm
    rw [mapFirst, mapFirst, hab c d hd.symm]
    split
    · simp only [List.map_cons, hfg c d hd.symm, hr]
    · simp only [List.map_cons, hd, ih hr.symm]

theorem any_faces (h : l.map (Car.face j) = r.map (Car.face j)) : l.any a = r.any b := by
  induction l generalizing r with
  | nil =>
    obtain rfl : r = [] := List.map_eq_nil_iff.mp h.symm
    rfl
  | cons c l ih =>
    obtain ⟨d, r', rfl, hd, hr⟩ := List.map_eq_cons_iff.mp h.symm
    rw [List.any_cons, List.any_cons, hab c d hd.symm, ih hr.symm]

end

/-! ## Tests on a car, in states that an evaluation leads between -/

theorem Washes.symm (h : Washes s t) : Washes t s := by
  obtain ⟨r, m, rfl, hr⟩ := h
  exact ⟨s.track.roster, s.stn, rfl, hr.symm⟩

section
variable (h : Washes s t) (hsight : c.sight = d.sight)
include h hsight

theorem Washes.reached (j : StationIx) : t.reached j c = s.reached j d := by
  obtain ⟨r, m, rfl, -⟩ := h
  simp only [Car.sight, Prod.mk.injEq] at hsight
  obtain ⟨-, hfront, -⟩ := hsight
  simp only [State.reached, hfront]
  rfl

theorem Washes.windowOpen (j : StationIx) : t.windowOpen j c = s.windowOpen j d := by
  obtain ⟨r, m, rfl, -⟩ := h
  simp only [State.windowOpen, (Car.rear_of_sight hsight).1]
  rfl

theorem Washes.qualifies (j : StationIx) : t.qualifies j c = s.qualifies j d := by
  obtain ⟨r, m, rfl, -⟩ := h
  simp only [Car.sight, Prod.mk.injEq] at hsight
  obtain ⟨hticket, -, -, hflags, -⟩ := hsight
  simp only [State.qualifies, hticket, hflags]
  rfl

end

theorem Washes.due (h : Washes s t) (hface : c.face j = d.face j) : t.due j c = s.due j d := by
  obtain ⟨hsight, hstatus⟩ := face_iff.mp hface
  rw [State.due, State.due, hstatus, h.reached hsight, h.qualifies hsight]

theorem Washes.dueOpen (h : Washes s t) (hface : c.face j = d.face j) :
    t.dueOpen j c = s.dueOpen j d := by
  rw [State.dueOpen, State.dueOpen, h.due hface, h.windowOpen (face_iff.mp hface).1]

theorem Washes.stationHalt (h : Washes s t) : t.stationHalt = s.stationHalt := by
  obtain ⟨r, m, rfl, -⟩ := h
  rfl

theorem Washes.station (h : Washes s t) (j : StationIx) : t.station j = s.station j := by
  obtain ⟨r, m, rfl, -⟩ := h
  rfl

theorem Washes.stowedClosed (h : Washes s t) (j : StationIx) :
    t.stowedClosed j = s.stowedClosed j := by
  obtain ⟨r, m, rfl, -⟩ := h
  rfl

end Sys2Proof.Machine
end

section
/-! # Wash stations: each station is evaluated by itself (R118)

A station's evaluation reads and writes its own machine and its own statuses, so that an evaluation
of all makes of each what the evaluation of it alone would. -/

namespace Sys2Proof.Machine

variable {s t u : State} {i j : StationIx}

/-- The two states differ by an evaluation, and not in what station j reads. -/
structure SameAt (j : StationIx) (s t : State) : Prop where
  washes : Washes s t
  machine : t.machine j = s.machine j
  faces : t.track.roster.map (Car.face j) = s.track.roster.map (Car.face j)

theorem SameAt.refl (j : StationIx) (s : State) : SameAt j s s := ⟨.refl s, rfl, rfl⟩

theorem SameAt.trans (h : SameAt j s t) (k : SameAt j t u) : SameAt j s u :=
  ⟨h.washes.trans k.washes, k.machine.trans h.machine, k.faces.trans h.faces⟩

/-! ## Another station -/

theorem markAll_sameAt (hij : i ≠ j) (test : Car → Bool) (p : Progress) (s : State) :
    SameAt j s (markAll i test p s) where
  washes := markAll_washes ..
  machine := rfl
  faces := by
    have h : ∀ c : Car, (if test c then c.setStatus i p else c).face j = c.face j := fun c => by
      split
      · exact face_iff.mpr ⟨rfl, status_setStatus_other hij c p⟩
      · rfl
    simp [markAll, Function.comp_def, h]

theorem markOldest_sameAt (hij : i ≠ j) (test : Car → Bool) (p : Progress) (s : State) :
    SameAt j s (markOldest i test p s) where
  washes := markOldest_washes ..
  machine := rfl
  faces := mapFirst_map (Car.face j) test (fun c => c.setStatus i p)
    (fun c => face_iff.mpr ⟨rfl, status_setStatus_other hij c p⟩) _

theorem updateMachine_sameAt (hij : i ≠ j) (f : StationMachine → StationMachine) (s : State) :
    SameAt j s (updateMachine i f s) :=
  ⟨updateMachine_washes .., machine_updateMachine_other hij f s, rfl⟩

theorem withdrawArm_sameAt (hij : i ≠ j) (s : State) : SameAt j s (withdrawArm i s) :=
  updateMachine_sameAt hij _ s

theorem endStep_sameAt (hij : i ≠ j) (s : State) : SameAt j s (endStep i s) := by
  unfold endStep
  dsimp only
  split
  · exact markAll_sameAt hij ..
  · split
    · split
      · exact .refl j s
      · exact (markAll_sameAt hij ..).trans (withdrawArm_sameAt hij _)
    · split
      · exact .refl j s
      · split
        · exact (markAll_sameAt hij ..).trans (markOldest_sameAt hij ..)
        · exact (markAll_sameAt hij ..).trans (withdrawArm_sameAt hij _)
    all_goals exact .refl j s

theorem startStep_sameAt (hij : i ≠ j) (s : State) : SameAt j s (startStep i s) := by
  unfold startStep
  split
  · exact markAll_sameAt hij ..
  · split
    · exact (markOldest_sameAt hij ..).trans (updateMachine_sameAt hij ..)
    · exact .refl j s

theorem evalStation_sameAt (hij : i ≠ j) (s : State) : SameAt j s (evalStation i s) := by
  unfold evalStation
  split
  · exact (((markAll_sameAt hij ..).trans (endStep_sameAt hij _)).trans
      (markAll_sameAt hij ..)).trans (startStep_sameAt hij _)
  · exact (markAll_sameAt hij ..).trans (markAll_sameAt hij ..)
  · exact .refl j s

/-! ## The station itself -/

/-- The same operation on two such states, where it changes each by an evaluation. -/
theorem SameAt.after (h : SameAt j s t) {s' t' : State} (hs : Washes s s') (ht : Washes t t')
    (hm : t'.machine j = s'.machine j)
    (hf : t'.track.roster.map (Car.face j) = s'.track.roster.map (Car.face j)) : SameAt j s' t' :=
  ⟨(hs.symm.trans h.washes).trans ht, hm, hf⟩

theorem face_setStatus {c d : Car} (h : c.face j = d.face j) (p : Progress) :
    (c.setStatus j p).face j = (d.setStatus j p).face j := by
  rw [face_iff, status_setStatus_same, status_setStatus_same]
  exact ⟨(face_iff.mp h).1, rfl⟩

theorem SameAt.markAll (h : SameAt j s t) {a b : Car → Bool}
    (hab : ∀ c d : Car, c.face j = d.face j → b c = a d) (p : Progress) :
    SameAt j (markAll j a p s) (markAll j b p t) := by
  refine h.after (markAll_washes ..) (markAll_washes ..) h.machine (map_faces (fun c d hcd => ?_) h.faces)
  rw [hab c d hcd]
  split
  · exact face_setStatus hcd p
  · exact hcd

theorem SameAt.markOldest (h : SameAt j s t) {a b : Car → Bool}
    (hab : ∀ c d : Car, c.face j = d.face j → b c = a d) (p : Progress) :
    SameAt j (markOldest j a p s) (markOldest j b p t) :=
  h.after (markOldest_washes ..) (markOldest_washes ..) h.machine
    (mapFirst_faces hab (fun _ _ hcd => face_setStatus hcd p) h.faces)

theorem SameAt.withdrawArm (h : SameAt j s t) : SameAt j (withdrawArm j s) (withdrawArm j t) := by
  refine h.after (withdrawArm_washes ..) (withdrawArm_washes ..) ?_ h.faces
  unfold Machine.withdrawArm updateMachine
  rw [machine_setMachine_same, machine_setMachine_same, h.machine, h.washes.stowedClosed,
    h.washes.station]

theorem SameAt.due (h : SameAt j s t) (c d : Car) (hcd : c.face j = d.face j) :
    t.due j c = s.due j d := h.washes.due hcd

theorem SameAt.dueOpen (h : SameAt j s t) (c d : Car) (hcd : c.face j = d.face j) :
    t.dueOpen j c = s.dueOpen j d := h.washes.dueOpen hcd

theorem SameAt.anyDueOpen (h : SameAt j s t) :
    t.track.roster.any (t.dueOpen j) = s.track.roster.any (s.dueOpen j) :=
  any_faces h.dueOpen h.faces

theorem SameAt.advanceArm (h : SameAt j s t) : SameAt j (advanceArm j s) (advanceArm j t) := by
  have hmark := h.markOldest h.dueOpen .active
  refine hmark.after (updateMachine_washes ..) (updateMachine_washes ..) ?_ hmark.faces
  unfold Machine.advanceArm updateMachine
  rw [machine_setMachine_same, machine_setMachine_same, hmark.machine, h.washes.station]

theorem SameAt.qualifyStep (h : SameAt j s t) : SameAt j (qualifyStep j s) (qualifyStep j t) :=
  h.markAll (fun c d hcd => by
    obtain ⟨hsight, hstatus⟩ := face_iff.mp hcd
    rw [hstatus, h.washes.reached hsight, h.washes.qualifies hsight]) _

theorem SameAt.missStep (h : SameAt j s t) : SameAt j (missStep j s) (missStep j t) :=
  h.markAll (fun c d hcd => by
    rw [h.due c d hcd, h.washes.windowOpen (face_iff.mp hcd).1]) _

theorem SameAt.endStep (h : SameAt j s t) : SameAt j (endStep j s) (endStep j t) := by
  have hclosed : ∀ c d : Car, c.face j = d.face j →
      (c.status j == .active && !t.windowOpen j c) = (d.status j == .active && !s.windowOpen j d) :=
    fun c d hcd => by
      obtain ⟨hsight, hstatus⟩ := face_iff.mp hcd
      rw [hstatus, h.washes.windowOpen hsight]
  have hserving : t.track.roster.any (fun c => c.status j == .active && t.windowOpen j c) =
      s.track.roster.any (fun c => c.status j == .active && s.windowOpen j c) :=
    any_faces (fun c d hcd => by
      obtain ⟨hsight, hstatus⟩ := face_iff.mp hcd
      rw [hstatus, h.washes.windowOpen hsight]) h.faces
  have hdone := h.markAll hclosed .done
  unfold Machine.endStep
  dsimp only
  rw [h.washes.station, h.machine, hserving]
  split
  · exact hdone
  · split
    · split
      · exact h
      · exact (h.markAll hclosed .missed).withdrawArm
    · split
      · exact h
      · rw [hdone.anyDueOpen]
        split
        · exact hdone.markOldest hdone.dueOpen .active
        · exact hdone.withdrawArm
    all_goals exact h

theorem SameAt.startStep (h : SameAt j s t) : SameAt j (startStep j s) (startStep j t) := by
  unfold Machine.startStep
  rw [h.washes.station, h.machine, h.anyDueOpen]
  split
  · exact h.markAll h.dueOpen .active
  · split
    · exact h.advanceArm
    · exact h

theorem SameAt.evalStation (h : SameAt j s t) : SameAt j (evalStation j s) (evalStation j t) := by
  unfold Machine.evalStation
  rw [h.washes.stationHalt]
  split
  · exact h.qualifyStep.endStep.missStep.startStep
  · exact h.qualifyStep.missStep
  · exact h

/-! ## All stations -/

theorem stationIxs_split (j : StationIx) :
    ∃ l r, stationIxs = l ++ j :: r ∧ j ∉ l ∧ j ∉ r := by
  have hnodup : stationIxs.Nodup := by decide
  obtain ⟨l, r, h⟩ := List.append_of_mem (mem_stationIxs j)
  rw [h, List.nodup_append] at hnodup
  obtain ⟨-, hr, hlr⟩ := hnodup
  exact ⟨l, r, h, fun hj => hlr j hj j List.mem_cons_self rfl, (List.nodup_cons.mp hr).1⟩

/-- An operation made for every station is, of station j, the operation made for j: those for the
others leave what j reads, and that for j sees nothing else. -/
theorem foldl_sameAt {f : State → StationIx → State}
    (hother : ∀ i u, i ≠ j → SameAt j u (f u i))
    (hself : ∀ u v, SameAt j u v → SameAt j (f u j) (f v j)) (s : State) :
    SameAt j (f s j) (stationIxs.foldl f s) := by
  have hpart : ∀ (l : List StationIx) (u : State), j ∉ l → SameAt j u (l.foldl f u) :=
    fun l u hl => List.foldlRecOn (motive := fun v => SameAt j u v) l f (.refl j u)
      fun v hv i hi => hv.trans (hother i v fun h => hl (by rwa [← h]))
  obtain ⟨l, r, hsplit, hl, hr⟩ := stationIxs_split j
  rw [hsplit, List.foldl_append, List.foldl_cons]
  exact (hself _ _ (hpart l s hl)).trans (hpart r _ hr)

/-- R118: of station j an evaluation of all is the evaluation of j. -/
theorem evaluate_sameAt (j : StationIx) (s : State) : SameAt j (evalStation j s) (evaluate s) :=
  foldl_sameAt (f := fun s i => evalStation i s) (fun _ u hij => evalStation_sameAt hij u)
    (fun _ _ h => h.evalStation) s

/-- R118: the evaluation of station j reads and writes what j reads. -/
theorem machine_evaluate (j : StationIx) (s : State) :
    (evaluate s).machine j = (evalStation j s).machine j := (evaluate_sameAt j s).machine

theorem statuses_evaluate (j : StationIx) (s : State) :
    (evaluate s).track.roster.map (fun c => c.status j) =
      (evalStation j s).track.roster.map (fun c => c.status j) :=
  statuses_of_faces (evaluate_sameAt j s).faces

/-! ## Jogs -/

theorem endStep_jog (i : StationIx) (s : State) : (endStep i s).stn.jog = s.stn.jog := by
  unfold endStep
  dsimp only
  repeat' split
  all_goals rfl

theorem startStep_jog (i : StationIx) (s : State) : (startStep i s).stn.jog = s.stn.jog := by
  unfold startStep
  repeat' split
  all_goals rfl

theorem evalStation_jog (i : StationIx) (s : State) : (evalStation i s).stn.jog = s.stn.jog := by
  unfold evalStation
  split
  · rw [startStep_jog]
    exact endStep_jog i (qualifyStep i s)
  · rfl
  · rfl

theorem evaluate_jog (s : State) : (evaluate s).stn.jog = s.stn.jog := by
  unfold evaluate
  exact List.foldlRecOn (motive := fun u : State => u.stn.jog = s.stn.jog) stationIxs
    (fun s i => evalStation i s) (Eq.refl s.stn.jog) fun u hu i _ => (evalStation_jog i u).trans hu

/-- An evaluation writes statuses and machines alone. -/
theorem evaluate_eq (s : State) : evaluate s = { s with
    track := { s.track with roster := (evaluate s).track.roster }
    stn := { s.stn with machines := (evaluate s).stn.machines } } := by
  have hjog := evaluate_jog s
  obtain ⟨r, m, h, -⟩ := evaluate_washes s
  have hm : m = { s.stn with machines := m.machines } := by
    rw [h] at hjog
    exact congrArg (Stations.mk m.machines) hjog
  rw [h]
  exact congrArg (fun m => { s with track := { s.track with roster := r }, stn := m }) hm

end Sys2Proof.Machine
end

section
/-! # Wash stations: what an evaluation makes of a car (R118 to R120) -/

namespace Sys2Proof.Machine

variable {s t u : State} {i j : StationIx} {c d : Car} {p q : Progress}

/-! ## The tests -/

theorem qualifies_iff : s.qualifies j c = true ↔ (s.station j).enabled = true ∧
    (∃ t, s.ticket? c.ticket = some t ∧ t.features.getLsbD (s.station j).feature.val = true) ∧
    ¬ (c.flags.tall = true ∧ (s.station j).exclTall = true) ∧
    ¬ (c.flags.wide = true ∧ (s.station j).exclWide = true) := by
  unfold State.qualifies
  cases s.ticket? c.ticket <;> simp [Set16.has, and_assoc, imp_iff_not_or]

/-- R118: the car is PENDING and has reached the station. -/
abbrev State.ReachesAt (s : State) (j : StationIx) (c : Car) : Prop :=
  c.status j = .pending ∧ s.reached j c = true

/-- R118: the car is due with an open window. -/
abbrev State.WaitsAt (s : State) (j : StationIx) (c : Car) : Prop :=
  s.ReachesAt j c ∧ s.qualifies j c = true ∧ s.windowOpen j c = true

/-- The station serves the car and its window is open. -/
abbrev State.ServesAt (s : State) (j : StationIx) (c : Car) : Prop :=
  c.status j = .active ∧ s.windowOpen j c = true

theorem dueOpen_iff : s.dueOpen j c = true ↔ s.WaitsAt j c := by
  simp [State.dueOpen, State.due, State.WaitsAt, State.ReachesAt, and_assoc]

theorem dueOpen_setStatus (h : p ≠ .pending) : s.dueOpen j (c.setStatus j p) = false := by
  simp [State.dueOpen, State.due, status_setStatus_same, h]

/-! ## The steps that judge (R118 steps 1 and 3) -/

/-- R118, R119: the car once the test and the window have been judged. -/
def State.judged (s : State) (j : StationIx) (c : Car) : Car :=
  if c.status j = .pending ∧ s.reached j c = true then
    if s.qualifies j c = true then
      if s.windowOpen j c = true then c else c.setStatus j .missed
    else c.setStatus j .skipped
  else c

/-- R118 step 1 for one car. -/
def State.tested (s : State) (j : StationIx) (c : Car) : Car :=
  if c.status j == .pending && s.reached j c && !s.qualifies j c then c.setStatus j .skipped else c

/-- R118 step 3 for one car. -/
def State.expired (s : State) (j : StationIx) (c : Car) : Car :=
  if s.due j c && !s.windowOpen j c then c.setStatus j .missed else c

/-- R118 step 2 for one car: its service ends with its window. -/
def State.released (s : State) (j : StationIx) (p : Progress) (c : Car) : Car :=
  if c.status j == .active && !s.windowOpen j c then c.setStatus j p else c

theorem qualifyStep_eq (j : StationIx) (s : State) :
    qualifyStep j s = setRoster (s.track.roster.map (s.tested j)) s := rfl

theorem judged_of_waits (h : s.WaitsAt j c) : s.judged j c = c := by
  obtain ⟨hreaches, hq, hw⟩ := h
  rw [State.judged, if_pos hreaches, if_pos hq, if_pos hw]

theorem expired_tested (c : Car) : s.expired j (s.tested j c) = s.judged j c := by
  unfold State.judged
  split
  · next h =>
    obtain ⟨hp, hr⟩ := h
    cases hq : s.qualifies j c <;> cases hw : s.windowOpen j c <;>
      simp [State.tested, State.expired, State.due, hp, hr, hq, hw, status_setStatus_same]
  · next h =>
    have htest : (c.status j == .pending && s.reached j c) = false := by simpa using h
    simp [State.tested, State.expired, State.due, htest]

/-- R118: the steps that judge, where nothing comes between them. -/
theorem judges_eq (j : StationIx) (s : State) :
    missStep j (qualifyStep j s) = setRoster (s.track.roster.map (s.judged j)) s := by
  have h : missStep j (qualifyStep j s) =
      setRoster ((s.track.roster.map (s.tested j)).map (s.expired j)) s := rfl
  rw [h, List.map_map]
  congr 2
  exact funext expired_tested

/-- R118, R120, R123: the car once the judged service has ended with status p. -/
def State.closedOut (s : State) (j : StationIx) (p : Progress) (c : Car) : Car :=
  if c.status j = .active ∧ s.windowOpen j c = false then c.setStatus j p else s.judged j c

theorem expired_released_tested (hp : p ≠ .pending) (c : Car) :
    s.expired j (s.released j p (s.tested j c)) = s.closedOut j p c := by
  by_cases ha : c.status j = .active
  · cases hw : s.windowOpen j c <;>
      simp [State.tested, State.released, State.expired, State.closedOut, State.due, State.judged,
        ha, hw, status_setStatus_same, hp]
  · have hrel : s.released j p (s.tested j c) = s.tested j c := by
      have hstatus : (s.tested j c).status j ≠ .active := by
        unfold State.tested
        split
        · simp [status_setStatus_same]
        · exact ha
      simp [State.released, hstatus]
    rw [hrel, expired_tested, State.closedOut, if_neg fun h => ha h.1]

/-- R118: the steps that judge and the end of the services whose windows have closed. -/
theorem closesOut_eq (hp : p ≠ .pending) (j : StationIx) (s : State) :
    missStep j (markAll j (fun c => c.status j == .active && !s.windowOpen j c) p
      (qualifyStep j s)) = setRoster (s.track.roster.map (s.closedOut j p)) s := by
  have h : missStep j (markAll j (fun c => c.status j == .active && !s.windowOpen j c) p
      (qualifyStep j s)) = setRoster (((s.track.roster.map (s.tested j)).map
        (s.released j p)).map (s.expired j)) s := rfl
  rw [h, List.map_map, List.map_map]
  congr 2
  exact funext (expired_released_tested hp)

theorem dueOpen_judged (c : Car) : s.dueOpen j (s.judged j c) = s.dueOpen j c := by
  unfold State.judged
  split
  · split
    · split
      · rfl
      · next hw =>
        have hw' : s.windowOpen j c = false := Bool.eq_false_iff.mpr hw
        rw [dueOpen_setStatus (by simp), State.dueOpen, hw', Bool.and_false]
    · next hq =>
      have hq' : s.qualifies j c = false := Bool.eq_false_iff.mpr hq
      rw [dueOpen_setStatus (by simp), State.dueOpen, State.due, hq', Bool.and_false, Bool.false_and]
  · rfl

theorem dueOpen_closedOut (hp : p ≠ .pending) (c : Car) :
    s.dueOpen j (s.closedOut j p c) = s.dueOpen j c := by
  unfold State.closedOut
  split
  · next h =>
    obtain ⟨ha, -⟩ := h
    rw [dueOpen_setStatus hp]
    simp [State.dueOpen, State.due, ha]
  · exact dueOpen_judged c

/-! ## The evaluation of one station, by the halt state -/

theorem stationHalt_of_mode (h : s.mode ≠ .lockout) : s.stationHalt = s.halt.state := if_neg h

theorem stationHalt_stopped (h : s.halt.state = .stopped ∨ s.mode = .lockout) :
    s.stationHalt = .stopped := by
  unfold State.stationHalt
  split
  · rfl
  · next hm => exact h.resolve_right hm

theorem evalStation_running (h : s.stationHalt = .running) : evalStation j s =
    startStep j (missStep j (endStep j (qualifyStep j s))) := by
  simp only [evalStation, h]

theorem evalStation_holding (h : s.stationHalt = .holding) : evalStation j s = s := by
  simp only [evalStation, h]

/-- R118: in STOPPED a station only judges. -/
theorem evalStation_stopped (h : s.stationHalt = .stopped) :
    evalStation j s = setRoster (s.track.roster.map (s.judged j)) s := by
  rw [← judges_eq]
  simp only [evalStation, h]

/-! ## A SWITCHED station (R120) -/

/-- R120: what the evaluation of a SWITCHED station makes of a car. -/
def State.switchedCar (s : State) (j : StationIx) (c : Car) : Car :=
  if s.dueOpen j c then c.setStatus j .active else s.closedOut j .done c

theorem evalStation_switched (hk : (s.station j).kind = .switched) (h : s.stationHalt = .running) :
    evalStation j s = setRoster (s.track.roster.map (s.switchedCar j)) s := by
  have hend : endStep j (qualifyStep j s) =
      markAll j (fun c => c.status j == .active && !s.windowOpen j c) .done (qualifyStep j s) := by
    have hk' : ((qualifyStep j s).station j).kind = .switched := hk
    unfold endStep
    simp only [hk']
    rfl
  have hstart : ∀ r, startStep j (setRoster r s) =
      setRoster (r.map fun c => if s.dueOpen j c then c.setStatus j .active else c) s := fun r => by
    have hk' : ((setRoster r s).station j).kind = .switched := hk
    unfold startStep
    simp only [hk']
    rfl
  rw [evalStation_running h, hend, closesOut_eq (by simp), hstart, List.map_map]
  congr 2
  funext c
  rw [Function.comp_apply, dueOpen_closedOut (by simp), State.switchedCar]
  split
  · next hdue =>
    obtain ⟨hreaches, hq, hw⟩ := dueOpen_iff.mp hdue
    rw [State.closedOut, if_neg (by simp [hw]), judged_of_waits ⟨hreaches, hq, hw⟩]
  · rfl

/-- The same in the order of the rule. -/
theorem switchedCar_eq (s : State) (j : StationIx) (c : Car) : s.switchedCar j c =
    if c.status j = .pending ∧ s.reached j c = true ∧ s.qualifies j c = false then
      c.setStatus j .skipped
    else if c.status j = .active ∧ s.windowOpen j c = false then c.setStatus j .done
    else if c.status j = .pending ∧ s.reached j c = true ∧ s.windowOpen j c = false then
      c.setStatus j .missed
    else if c.status j = .pending ∧ s.reached j c = true then c.setStatus j .active
    else c := by
  unfold State.switchedCar State.closedOut State.judged State.dueOpen State.due
  cases hp : c.status j <;> cases hr : s.reached j c <;> cases hq : s.qualifies j c <;>
    cases hw : s.windowOpen j c <;> simp

theorem judged_eq (s : State) (j : StationIx) (c : Car) : s.judged j c =
    if c.status j = .pending ∧ s.reached j c = true ∧ s.qualifies j c = false then
      c.setStatus j .skipped
    else if c.status j = .pending ∧ s.reached j c = true ∧ s.windowOpen j c = false then
      c.setStatus j .missed
    else c := by
  unfold State.judged
  by_cases h : c.status j = .pending ∧ s.reached j c = true
  · cases hq : s.qualifies j c <;> cases hw : s.windowOpen j c <;> simp [h]
  · simp only [← and_assoc, h, false_and, if_false]

/-- What a car is but for its statuses is what it shows. -/
theorem faceless_of_sights {l r : List Car} (h : l.map Car.sight = r.map Car.sight) :
    l.map (fun c => { c with progress := Vector.replicate 24 .pending }) =
      r.map (fun c => { c with progress := Vector.replicate 24 .pending }) := by
  have hview : (fun c : Car => { c with progress := Vector.replicate 24 .pending }) =
      (fun x : Nat × Nat × Option Nat × VehicleFlags × Vector Bool 4 × Bool =>
        Car.mk x.1 x.2.1 x.2.2.1 x.2.2.2.1 x.2.2.2.2.1 x.2.2.2.2.2
          (Vector.replicate 24 .pending)) ∘ Car.sight := rfl
  rw [hview, ← List.map_map, ← List.map_map, h]

/-- Settles O44: a station's evaluation is one rewriting of every car, by the halt state, and of each
station an evaluation of all is the evaluation of that one. -/
theorem switchedStationsServeDueCars : Obligations.SwitchedStationsServeDueCars := by
  unfold Obligations.SwitchedStationsServeDueCars
  refine ⟨fun j s => ⟨fun hk hrun hmode => ?_, fun hhold hmode => ?_, fun hstop => ?_,
    fun c => qualifies_iff⟩, fun s => ⟨evaluate_eq s, ?_, fun j => ⟨machine_evaluate j s,
      statuses_evaluate j s⟩⟩⟩
  · rw [evalStation_switched hk ((stationHalt_of_mode hmode).trans hrun), setRoster_roster]
    exact List.map_congr_left fun c _ => switchedCar_eq s j c
  · exact evalStation_holding ((stationHalt_of_mode hmode).trans hhold)
  · rw [evalStation_stopped (stationHalt_stopped hstop), funext (judged_eq s j)]
    rfl
  · exact faceless_of_sights (evaluate_washes s).spares.cars

end Sys2Proof.Machine
end

section
/-! # Wash stations: the evaluation of an ARM station in RUNNING (R121 to R124, R126, R127, R129) -/

namespace Sys2Proof.Machine

variable {s t u : State} {j : StationIx} {c : Car} {older newer : List Car} {p : Progress}

/-! ## The arm's movements -/

/-- R126: the machine of an arm that withdraws. -/
def State.withdrawn (s : State) (j : StationIx) : StationMachine :=
  { s.machine j with
    arm := if s.stowedClosed j then .stowed else .withdrawing
    advanceTimer := .stopped
    withdrawTimer := if s.stowedClosed j then .stopped
      else .running ((s.station j).withdrawTimeout * 100) }

theorem withdrawArm_eq (j : StationIx) (s : State) :
    withdrawArm j s = setMachine j (s.withdrawn j) s := rfl

/-- R122: the machine m of station j once the arm advances. -/
def State.setOut (s : State) (j : StationIx) (m : StationMachine) : StationMachine :=
  { m with
    arm := .advancing, opened := false
    advanceTimer := .running ((s.station j).advanceTime * 100) }

/-- R122: the oldest waiting car is served. -/
def State.servesOldest (s : State) (j : StationIx) (l : List Car) : List Car :=
  mapFirst (s.dueOpen j) (fun c => c.setStatus j .active) l

theorem advanceArm_eq (j : StationIx) (s : State) : advanceArm j s =
    setMachine j (s.setOut j (s.machine j)) (setRoster (s.servesOldest j s.track.roster) s) := rfl

/-! ## The steps of the evaluation -/

section
variable (hk : (s.station j).kind = .arm)
include hk

theorem startStep_arm : startStep j s =
    if (s.machine j).arm = .stowed ∧ s.track.roster.any (s.dueOpen j) then advanceArm j s else s := by
  simp only [startStep, hk]

theorem startStep_notStowed (h : (s.machine j).arm ≠ .stowed) : startStep j s = s := by
  rw [startStep_arm hk, if_neg fun e => h e.1]

theorem startStep_noneWaits (h : ∀ c ∈ s.track.roster, ¬ s.WaitsAt j c) : startStep j s = s := by
  rw [startStep_arm hk, if_neg]
  rintro ⟨-, hany⟩
  obtain ⟨c, hc, hdue⟩ := List.any_eq_true.mp hany
  exact h c hc (dueOpen_iff.mp hdue)

theorem startStep_takes (hm : (s.machine j).arm = .stowed) (hc : c ∈ s.track.roster)
    (hw : s.WaitsAt j c) : startStep j s = advanceArm j s := by
  rw [startStep_arm hk, if_pos ⟨hm, List.any_eq_true.mpr ⟨c, hc, dueOpen_iff.mpr hw⟩⟩]

end

/-- R122: the oldest waiting car among cars rewritten by what moves no test. -/
theorem servesOldest_map {f : Car → Car} (hf : ∀ c, s.dueOpen j (f c) = s.dueOpen j c)
    (holder : ∀ o ∈ older, ¬ s.WaitsAt j o) (hc : s.WaitsAt j c) (hfc : f c = c) :
    s.servesOldest j ((older ++ c :: newer).map f) =
      older.map f ++ c.setStatus j .active :: newer.map f := by
  rw [List.map_append, List.map_cons, hfc]
  refine mapFirst_split _ (fun o ho => ?_) (dueOpen_iff.mpr hc)
  obtain ⟨x, hx, rfl⟩ := List.mem_map.mp ho
  rw [hf]
  exact mt dueOpen_iff.mp (holder x hx)

/-! ## The end of a service (R118 step 2) -/

theorem tested_active (c : Car) : (s.tested j c).status j = .active ↔ c.status j = .active := by
  unfold State.tested
  split
  · next h =>
    have hp : c.status j = .pending := by
      simp only [Bool.and_eq_true, beq_iff_eq] at h
      exact h.1.1
    simp [status_setStatus_same, hp]
  · exact Iff.rfl

/-- The test of step 1 changes nothing of what the station serves. -/
theorem serving_iff : (qualifyStep j s).track.roster.any
      (fun c => c.status j == .active && (qualifyStep j s).windowOpen j c) = true ↔
    ∃ c ∈ s.track.roster, s.ServesAt j c := by
  have hopen : ∀ c : Car, s.windowOpen j (s.tested j c) = s.windowOpen j c := fun c => by
    unfold State.tested
    split <;> rfl
  rw [qualifyStep_eq, setRoster_roster, List.any_map, List.any_eq_true]
  refine exists_congr fun c => and_congr_right fun _ => ?_
  rw [Function.comp_apply, Bool.and_eq_true, beq_iff_eq, tested_active, State.ServesAt, ← hopen c]
  rfl

section
variable (hk : (s.station j).kind = .arm)
include hk

/-- An arm with no service, or with a car whose window is open, ends none. -/
theorem endStep_goesOn
    (h : (s.machine j).arm ≠ .advancing ∧ (s.machine j).arm ≠ .engaged ∨
      ∃ c ∈ s.track.roster, s.ServesAt j c) : endStep j (qualifyStep j s) = qualifyStep j s := by
  have hk' : ((qualifyStep j s).station j).kind = .arm := hk
  have hm : (qualifyStep j s).machine j = s.machine j := rfl
  unfold endStep
  simp only [hk', hm]
  rcases h with ⟨hadv, heng⟩ | hserved
  · cases harm : (s.machine j).arm <;> simp only [harm, ne_eq, not_true] at hadv heng ⊢
  · have hany := serving_iff.mpr hserved
    cases (s.machine j).arm <;> simp only [hany, if_true]

variable (hnone : ∀ c ∈ s.track.roster, ¬ s.ServesAt j c)
include hnone

/-- R123: an arm that advances for cars whose windows have closed misses them and withdraws. -/
theorem endStep_advancing (hm : (s.machine j).arm = .advancing) : endStep j (qualifyStep j s) =
    withdrawArm j (markAll j (fun c => c.status j == .active && !s.windowOpen j c) .missed
      (qualifyStep j s)) := by
  have hk' : ((qualifyStep j s).station j).kind = .arm := hk
  have hm' : ((qualifyStep j s).machine j).arm = .advancing := hm
  have hany := mt serving_iff.mp fun ⟨c, hc, h⟩ => hnone c hc h
  unfold endStep
  simp only [hk', hm', hany]
  rfl

/-- R124: an engaged arm hands over to the oldest waiting car, or withdraws. -/
theorem endStep_engaged (hm : (s.machine j).arm = .engaged) : endStep j (qualifyStep j s) =
    if (markAll j (fun c => c.status j == .active && !s.windowOpen j c) .done
        (qualifyStep j s)).track.roster.any (s.dueOpen j) then
      markOldest j (s.dueOpen j) .active
        (markAll j (fun c => c.status j == .active && !s.windowOpen j c) .done (qualifyStep j s))
    else withdrawArm j
      (markAll j (fun c => c.status j == .active && !s.windowOpen j c) .done (qualifyStep j s)) := by
  have hk' : ((qualifyStep j s).station j).kind = .arm := hk
  have hm' : ((qualifyStep j s).machine j).arm = .engaged := hm
  have hany := mt serving_iff.mp fun ⟨c, hc, h⟩ => hnone c hc h
  unfold endStep
  simp only [hk', hm', hany]
  rfl

end

/-- The car once steps 1 and 2 are made. -/
theorem dueOpen_released_tested (hp : p ≠ .pending) (c : Car) :
    s.dueOpen j (s.released j p (s.tested j c)) = s.dueOpen j c := by
  have htested : s.dueOpen j (s.tested j c) = s.dueOpen j c := by
    unfold State.tested
    split
    · next h =>
      simp only [Bool.and_eq_true, Bool.not_eq_true'] at h
      rw [dueOpen_setStatus (by simp), State.dueOpen, State.due, h.2, Bool.and_false, Bool.false_and]
    · rfl
  rw [← htested]
  unfold State.released
  split
  · next h =>
    simp only [Bool.and_eq_true, Bool.not_eq_true'] at h
    rw [dueOpen_setStatus hp, State.dueOpen, h.2, Bool.and_false]
  · rfl

/-! ## The evaluation -/

section
variable (hk : (s.station j).kind = .arm) (hrun : s.stationHalt = .running)
include hk hrun

/-- Where no service ends, the cars are judged before one may start. -/
theorem evalStation_goesOn
    (h : (s.machine j).arm ≠ .advancing ∧ (s.machine j).arm ≠ .engaged ∨
      ∃ c ∈ s.track.roster, s.ServesAt j c) :
    evalStation j s = startStep j (setRoster (s.track.roster.map (s.judged j)) s) := by
  rw [evalStation_running hrun, endStep_goesOn hk h, judges_eq]

/-- Where no service ends and none starts, the cars are judged. -/
theorem evalStation_onlyJudges
    (h : (s.machine j).arm ≠ .advancing ∧ (s.machine j).arm ≠ .engaged ∨
      ∃ c ∈ s.track.roster, s.ServesAt j c)
    (hstart : (s.machine j).arm ≠ .stowed ∨ ∀ c ∈ s.track.roster, ¬ s.WaitsAt j c) :
    evalStation j s = setRoster (s.track.roster.map (s.judged j)) s := by
  rw [evalStation_goesOn hk hrun h]
  rcases hstart with hm | hwaits
  · exact startStep_notStowed (s := setRoster (s.track.roster.map (s.judged j)) s) hk hm
  · refine startStep_noneWaits (s := setRoster (s.track.roster.map (s.judged j)) s) hk
      fun x hx hw => ?_
    obtain ⟨c, hc, rfl⟩ := List.mem_map.mp hx
    exact hwaits c hc (dueOpen_iff.mp ((dueOpen_judged c).symm.trans (dueOpen_iff.mpr hw)))

section
variable (hroster : s.track.roster = older ++ c :: newer) (holder : ∀ o ∈ older, ¬ s.WaitsAt j o)
  (hc : s.WaitsAt j c)
include hroster holder hc

/-- R122: a STOWED arm takes the oldest waiting car. -/
theorem evalStation_takes (hm : (s.machine j).arm = .stowed) : evalStation j s =
    setMachine j (s.setOut j (s.machine j))
      (setRoster (older.map (s.judged j) ++ c.setStatus j .active :: newer.map (s.judged j)) s) := by
  have hmem : c ∈ s.track.roster.map (s.judged j) := by
    rw [hroster]
    exact List.mem_map.mpr ⟨c, by simp, judged_of_waits hc⟩
  rw [evalStation_goesOn hk hrun (Or.inl (by simp [hm])),
    startStep_takes (s := setRoster (s.track.roster.map (s.judged j)) s) hk hm hmem hc,
    advanceArm_eq, ← servesOldest_map dueOpen_judged holder hc (judged_of_waits hc), ← hroster]
  rfl

/-- R124: an ENGAGED arm hands over to the oldest waiting car. -/
theorem evalStation_handsOver (hnone : ∀ c ∈ s.track.roster, ¬ s.ServesAt j c)
    (hm : (s.machine j).arm = .engaged) : evalStation j s =
    setRoster (older.map (s.closedOut j .done) ++
      c.setStatus j .active :: newer.map (s.closedOut j .done)) s := by
  have hsame : s.released j .done (s.tested j c) = c := by
    obtain ⟨⟨hp, -⟩, hq, -⟩ := hc
    simp [State.released, State.tested, hp, hq]
  have hfirst : markOldest j (s.dueOpen j) .active
      (markAll j (fun c => c.status j == .active && !s.windowOpen j c) .done (qualifyStep j s)) =
      setRoster (older.map (s.released j .done ∘ s.tested j) ++
        c.setStatus j .active :: newer.map (s.released j .done ∘ s.tested j)) s := by
    rw [← servesOldest_map (f := s.released j .done ∘ s.tested j)
      (dueOpen_released_tested (by simp)) holder hc hsame, ← hroster, ← List.map_map]
    rfl
  have hany : (markAll j (fun c => c.status j == .active && !s.windowOpen j c) .done
      (qualifyStep j s)).track.roster.any (s.dueOpen j) = true := by
    refine List.any_eq_true.mpr ⟨c, ?_, dueOpen_iff.mpr hc⟩
    have hmem : c ∈ (s.track.roster.map (s.tested j)).map (s.released j .done) := by
      rw [List.map_map, hroster]
      exact List.mem_map.mpr ⟨c, by simp, hsame⟩
    exact hmem
  have hmiss : ∀ r, startStep j (missStep j (setRoster r s)) =
      setRoster (r.map (s.expired j)) s := fun r => by
    rw [startStep_notStowed (s := missStep j (setRoster r s)) hk (by
      have hm' : ((missStep j (setRoster r s)).machine j).arm = .engaged := hm
      simp [hm'])]
    rfl
  have hlast : s.expired j (c.setStatus j .active) = c.setStatus j .active := by
    simp [State.expired, State.due, status_setStatus_same]
  have hcars : s.expired j ∘ (s.released j .done ∘ s.tested j) = s.closedOut j .done :=
    funext (expired_released_tested (by simp))
  rw [evalStation_running hrun, endStep_engaged hk hnone hm, if_pos hany, hfirst, hmiss,
    List.map_append, List.map_cons, hlast, List.map_map, List.map_map, hcars]

end

/-- R123, R126: an ADVANCING arm withdraws, and may set out again. -/
theorem evalStation_givesUp (hnone : ∀ c ∈ s.track.roster, ¬ s.ServesAt j c)
    (hm : (s.machine j).arm = .advancing) : evalStation j s =
    startStep j (setMachine j (s.withdrawn j)
      (setRoster (s.track.roster.map (s.closedOut j .missed)) s)) := by
  rw [evalStation_running hrun, endStep_advancing hk hnone hm, ← closesOut_eq (by simp)]
  rfl

/-- R124, R126: an ENGAGED arm with no car to serve withdraws. -/
theorem evalStation_finishes (hnone : ∀ c ∈ s.track.roster, ¬ s.ServesAt j c)
    (hwaits : ∀ c ∈ s.track.roster, ¬ s.WaitsAt j c) (hm : (s.machine j).arm = .engaged) :
    evalStation j s = startStep j (setMachine j (s.withdrawn j)
      (setRoster (s.track.roster.map (s.closedOut j .done)) s)) := by
  have hany : ¬ (markAll j (fun c => c.status j == .active && !s.windowOpen j c) .done
      (qualifyStep j s)).track.roster.any (s.dueOpen j) = true := by
    intro h
    obtain ⟨x, hx, hdue⟩ := List.any_eq_true.mp h
    have hx' : x ∈ (s.track.roster.map (s.tested j)).map (s.released j .done) := hx
    rw [List.map_map] at hx'
    obtain ⟨c, hc, rfl⟩ := List.mem_map.mp hx'
    exact hwaits c hc (dueOpen_iff.mp ((dueOpen_released_tested (by simp) c).symm.trans hdue))
  rw [evalStation_running hrun, endStep_engaged hk hnone hm, if_neg hany,
    ← closesOut_eq (by simp)]
  rfl

end

/-- A withdrawn arm with no car waiting starts no service. -/
theorem startStep_withdrawn (hk : (s.station j).kind = .arm) (hp : p ≠ .pending)
    (h : s.stowedClosed j = false ∨ ∀ c ∈ s.track.roster, ¬ s.WaitsAt j c) :
    startStep j (setMachine j (s.withdrawn j) (setRoster (s.track.roster.map (s.closedOut j p)) s)) =
      setMachine j (s.withdrawn j) (setRoster (s.track.roster.map (s.closedOut j p)) s) := by
  rcases h with hopen | hwaits
  · refine startStep_notStowed (s := setMachine j (s.withdrawn j) (setRoster _ s)) hk ?_
    rw [machine_setMachine_same]
    simp [State.withdrawn, hopen]
  · refine startStep_noneWaits (s := setMachine j (s.withdrawn j) (setRoster _ s)) hk
      fun x hx hw => ?_
    obtain ⟨c, hc, rfl⟩ := List.mem_map.mp hx
    exact hwaits c hc (dueOpen_iff.mp ((dueOpen_closedOut hp c).symm.trans (dueOpen_iff.mpr hw)))

/-- R122, R126: an arm that its switch stows at once takes the oldest waiting car. -/
theorem startStep_setsOut (hk : (s.station j).kind = .arm)
    (hroster : s.track.roster = older ++ c :: newer) (holder : ∀ o ∈ older, ¬ s.WaitsAt j o)
    (hc : s.WaitsAt j c) (hp : p ≠ .pending) (hclosed : s.stowedClosed j = true) :
    let x := startStep j
      (setMachine j (s.withdrawn j) (setRoster (s.track.roster.map (s.closedOut j p)) s))
    x.track.roster = older.map (s.closedOut j p) ++
        c.setStatus j .active :: newer.map (s.closedOut j p) ∧
      x.machine j = s.setOut j (s.withdrawn j) := by
  have hsame : s.closedOut j p c = c := by
    obtain ⟨⟨hpend, -⟩, -⟩ := id hc
    rw [State.closedOut, if_neg (by simp [hpend]), judged_of_waits hc]
  have hmem : c ∈ s.track.roster.map (s.closedOut j p) := by
    rw [hroster]
    exact List.mem_map.mpr ⟨c, by simp, hsame⟩
  have htakes := startStep_takes
    (s := setMachine j (s.withdrawn j) (setRoster (s.track.roster.map (s.closedOut j p)) s)) hk
    (by rw [machine_setMachine_same]; simp [State.withdrawn, hclosed]) hmem hc
  intro x
  have hx : x = _ := htakes
  rw [hx, advanceArm_eq, machine_setMachine_same, machine_setMachine_same]
  refine ⟨?_, rfl⟩
  rw [← servesOldest_map (dueOpen_closedOut hp) holder hc hsame, ← hroster]
  rfl

end Sys2Proof.Machine
end

section
/-! # Wash stations: the events that evaluate every station (R118)

With the exit eye unbroken a change of the roster that opens no gap is the evaluation alone. -/

namespace Sys2Proof.Machine

variable {s u : State} {j : StationIx} {n : Nat} {older : List Car} {c : Car}

theorem rosterChanged_evaluates (heye : s.inputs.exitEye = false)
    (h : s.gate.state ≠ .spacing ∨ s.gapOpen = false) : rosterChanged s = evaluate s := by
  have hwashes := evaluate_washes s
  rw [rosterChanged, testExitBlocked_restored heye]
  exact testSpacing_standing (by rw [hwashes.gate, hwashes.spares.gapOpen]; exact h)

/-- R92, R118: a car that breaks the entry eye in LOADING joins the roster. -/
theorem exec_entryEyeBreak_evaluates (heye : s.inputs.exitEye = false) (hl : s.gate.state = .loading)
    (hn : s.gate.atGate = some n) (h : s.conv.state ≠ .stopped ∨ s.halt.state = .running) :
    exec .entryEyeBreak s = done (evaluate (entered n (setEntryEye true s))) := by
  have hnoted : eyeNoted true s = setEntryEye true s :=
    noteMoved_moving (s := setEntryEye true s) .entry h
  have hbegin : beginMeasure n (setEntryEye true s) = evaluate (entered n (setEntryEye true s)) := by
    rw [beginMeasure_eq]
    exact rosterChanged_evaluates heye
      (Or.inl (by simp [entered, captureFlags, updateNewest, measuringGate]))
  rw [exec_entryEyeBreak, hnoted, gateEntryBreak_loading (s := setEntryEye true s) hl hn, hbegin]
  exact congrArg done (settleHalted_sameHalt
    (congrArg Halt.state (evaluate_washes (entered n (setEntryEye true s))).halt))

theorem entered_eq (n : Nat) (s : State) : entered n (setEntryEye true s) =
    { updateTicket n (fun t => { t with state := .riding }) s with
      inputs := { s.inputs with entryEye := true }
      gate := measuringGate s.gate
      track := { s.track with roster := s.track.roster ++ [enteringCar n s.inputs] } } := by
  have hroster : (entered n (setEntryEye true s)).track.roster =
      s.track.roster ++ [enteringCar n s.inputs] := entered_roster n (setEntryEye true s)
  rw [← hroster]
  rfl

/-- R60, R118: a flag of the car being measured is written. -/
theorem testCapture_evaluates (b : State) (hhalt : s.halt.state = b.halt.state)
    (heye : s.inputs.exitEye = false) (hm : s.gate.state = .measuring)
    (he : s.inputs.entryEye = true) (hroster : s.track.roster = older ++ [c]) :
    settleHalted b (testCapture s) =
      evaluate (setRoster (older ++ [{ c with flags := addEyes s.inputs c.flags }]) s) := by
  have hcapture : captureFlags s =
      setRoster (older ++ [{ c with flags := addEyes s.inputs c.flags }]) s := by
    rw [← captureFlags_roster hroster]
    rfl
  have hgate : (captureFlags s).gate.state = .measuring := hm
  have heval : testCapture s = evaluate (captureFlags s) := by
    rw [testCapture_made hm he]
    exact rosterChanged_evaluates heye (Or.inl (by simp [hgate]))
  have hstays : (testCapture s).halt.state = b.halt.state := by
    rw [heval, (evaluate_washes _).halt]
    exact hhalt
  rw [settleHalted_sameHalt hstays, heval, hcapture]

/-- R58, R118: a fixed length that leaves the gap closed. -/
theorem fixLength_evaluates {len : Nat} {short : Bool} (heye : s.inputs.exitEye = false)
    (hroster : s.track.roster = older ++ [c])
    (hgap : (c.front : Int) - (len : Int) < s.settings.timing.minGap) :
    fixLength len short s = evaluate
      { setRoster (older ++ [fixedCar len short c]) s with
        gate := { s.gate with state := .spacing, tailgated := false } } := by
  have hcars : (lengthFixed len short s).track.roster = older ++ [fixedCar len short c] :=
    updateNewest_roster hroster _
  have hclosed : (lengthFixed len short s).gapOpen = false := by
    refine Bool.eq_false_iff.mpr fun hopen => ?_
    have hshapes : (lengthFixed len short s).track.roster.map Car.shape =
        older.map Car.shape ++ [(c.ticket, c.front, some len)] := by
      rw [hcars, List.map_append]
      rfl
    exact absurd hgap (Int.not_lt.mpr ((gapOpen_newest hshapes).mp hopen))
  have hfix : fixLength len short s = rosterChanged (lengthFixed len short s) := rfl
  rw [hfix, rosterChanged_evaluates (s := lengthFixed len short s) heye (Or.inr hclosed), ← hcars]
  rfl

/-- R58, R118: the settled gate fixes the length it has counted. -/
theorem exec_settleReached_evaluates (heye : s.inputs.exitEye = false)
    (hroster : s.track.roster = older ++ [c]) (hm : s.gate.state = .measuring)
    (he : s.inputs.entryEye = false) (htail : s.gate.tailgated = false)
    (hsettle : s.settings.timing.settle ≤ s.gate.settleCount)
    (hmin : s.settings.timing.minLen ≤ s.gate.restoreCount)
    (hgap : (c.front : Int) - (s.gate.restoreCount : Int) < s.settings.timing.minGap) :
    exec .settleReached s = done (settle s (evaluate
      { setRoster (older ++ [fixedCar s.gate.restoreCount false c]) s with
        gate := { s.gate with state := .spacing, tailgated := false } })) := by
  have hdue : s.settleDue = true := settleDue_iff.mpr ⟨hm, htail, he, hsettle⟩
  have hshort : s.measuredShort = false := decide_eq_false (Nat.not_lt.mpr hmin)
  have hlength : s.measuredLength = s.gate.restoreCount := by simp [State.measuredLength, hshort]
  have hexec : exec .settleReached s = done (settle s (testSettled s)) :=
    congrArg done (if_pos hdue)
  rw [hexec, testSettled_due hdue, hlength, hshort, fixLength_evaluates heye hroster hgap]

/-- R99, R118: a checkpoint corrects the only car, whose window it breaks in. -/
theorem exec_checkpointEyeBreak_evaluates {k : Checkpoint} {g : CheckpointCfg}
    (heye : s.inputs.exitEye = false) (hroster : s.track.roster = [c]) (hlen : c.length = none)
    (hk : s.settings.geometry.checkpoints[k.val]? = some g) (hconv : s.conv.state ≠ .stopped)
    (hwindow : c.InWindow k g) : exec (.checkpointEyeBreak k) s =
      done (settle s (testSpacing (evaluate (setRoster
        [{ c with marks := vset c.marks k true, front := g.position }]
        (setCheckpointEye k true s))))) := by
  have hkeeps : KeepsOrder [] [] c g.position :=
    ⟨fun o ho => by simp at ho, fun l hl => by simp [hlen] at hl⟩
  rw [exec_checkpointEyeBreak_moving hk hconv,
    verifyCheckpoint_candidate (s := setCheckpointEye k true s) (older := []) (newer := [])
      hroster (by simp) hwindow, if_pos (correctionOk_iff.mpr hkeeps), rosterChanged,
    testExitBlocked_restored (s := setRoster _ (setCheckpointEye k true s)) heye]
  rfl

/-- R106, R118: a removal evaluates once for itself and once for the roster's change. -/
theorem removal_evaluates (heye : s.inputs.exitEye = false) (hm : s.gate.state ≠ .measuring) :
    rosterChanged (dropCar n .removed s) = testSpacing (evaluate (evaluate (carOut n .removed s))) := by
  have hdrop : dropCar n .removed s = evaluate (carOut n .removed s) :=
    dropCar_unmeasured fun h => hm h.1
  have hinputs : (dropCar n .removed s).inputs.exitEye = false := by
    rw [(dropCar_removes n .removed s).inputs]
    exact heye
  rw [rosterChanged, testExitBlocked_restored hinputs, hdrop]

/-- R80, R118: the cleared samples change the averaged period to NominalPeriod. -/
theorem atRest_evaluates (h : s.avgPeriod ≠ s.settings.timing.nominalPeriod) :
    atRest s = evaluate (enterRest s) := by
  have hpace : (enterRest s).avgPeriod = s.settings.timing.nominalPeriod := avgPeriod_noSamples rfl
  exact if_neg fun e => h (e.symm.trans hpace)

end Sys2Proof.Machine
end

section
/-! # Wash stations: the statement of the ARM stations' evaluation -/

namespace Sys2Proof.Machine

/-- Without a served car whose window is open, the cars an arm served all end their service. -/
theorem closedOut_of_noneServed {s : State} {j : StationIx} {c : Car} (h : ¬ s.ServesAt j c)
    (p : Progress) :
    s.closedOut j p c = if c.status j = .active then c.setStatus j p else s.judged j c := by
  rw [State.closedOut]
  refine if_congr ⟨fun hc => hc.1, fun ha => ⟨ha, ?_⟩⟩ rfl rfl
  exact Bool.eq_false_iff.mpr fun hw => h ⟨ha, hw⟩

/-- Settles O45: a service goes on, or ends by what the arm was doing; then the arm, when it is STOWED,
takes the oldest waiting car. With the exit eye unbroken each event's roster change is an
evaluation. -/
theorem armsServeOneCarAtATime : Obligations.ArmsServeOneCarAtATime := by
  unfold Obligations.ArmsServeOneCarAtATime
  refine ⟨fun j s hk hrun hmode => ?_, fun s heye => ?_⟩
  · intro m reaches waiting served judged ended cars back x onlyJudges
    have hhalt : s.stationHalt = .running := (stationHalt_of_mode hmode).trans hrun
    have hended : ∀ (p : Progress) (l : List Car), (∀ o ∈ l, ¬ served o) →
        l.map (s.closedOut j p) = l.map (ended p) := fun p l hnone =>
      List.map_congr_left fun o ho => closedOut_of_noneServed (hnone o ho) p
    have hsplit : ∀ (p : Progress) {older newer : List Car} {c : Car},
        s.track.roster = older ++ c :: newer → (∀ o ∈ s.track.roster, ¬ served o) →
        older.map (s.closedOut j p) ++ c.setStatus j .active :: newer.map (s.closedOut j p) =
          older.map (ended p) ++ c.setStatus j .active :: newer.map (ended p) :=
      fun p {older newer c} hroster hnone => by
        rw [hended p older fun o ho => hnone o (by simp [hroster, ho]),
          hended p newer fun o ho => hnone o (by simp [hroster, ho])]
    refine ⟨fun hm => ?_, fun hserved hm => ?_, fun hm hwaits => ?_,
      fun older c newer hroster holder hc => ⟨fun hm => ?_, fun hnone hm => ?_, fun hnone hm =>
        ⟨fun hopen => ?_, fun hclosed => ?_⟩⟩, fun hnone => ⟨fun hm => ?_, fun hm => ?_⟩⟩
    · have hquiet : m.arm ≠ .advancing ∧ m.arm ≠ .engaged ∧ m.arm ≠ .stowed := by
        rcases hm with hm | hm <;> simp [hm]
      obtain ⟨hadv, heng, hstow⟩ := hquiet
      exact evalStation_onlyJudges hk hhalt (Or.inl ⟨hadv, heng⟩) (Or.inl hstow)
    · have hstow : m.arm ≠ .stowed := by rcases hm with hm | hm <;> simp [hm]
      exact evalStation_onlyJudges hk hhalt (Or.inr hserved) (Or.inl hstow)
    · exact evalStation_onlyJudges hk hhalt (Or.inl (by simp [show (s.machine j).arm = .stowed from hm]))
        (Or.inr hwaits)
    · have hx : x = _ := evalStation_takes hk hhalt hroster holder hc hm
      rw [hx]
      exact ⟨rfl, machine_setMachine_same ..⟩
    · have hx : x = _ := evalStation_handsOver hk hhalt hroster holder hc hnone hm
      rw [hx]
      exact ⟨hsplit .done hroster hnone, rfl⟩
    · have hx : x = _ := evalStation_givesUp hk hhalt hnone hm
      rw [hx, startStep_withdrawn hk (by simp) (Or.inl hopen)]
      exact ⟨hended .missed _ hnone, machine_setMachine_same ..⟩
    · have hx : x = _ := evalStation_givesUp hk hhalt hnone hm
      obtain ⟨hcars, hmachine⟩ :=
        startStep_setsOut hk hroster holder hc (p := .missed) (by simp) hclosed
      rw [hx]
      refine ⟨hcars.trans (hsplit .missed hroster hnone), hmachine.trans ?_⟩
      have hstowed : s.stowedClosed j = true := hclosed
      simp [State.setOut, State.withdrawn, hstowed]
      rfl
    · have hx : x = _ := evalStation_finishes hk hhalt (fun c hc => (hnone c hc).1)
        (fun c hc => (hnone c hc).2) hm
      rw [hx, startStep_withdrawn hk (by simp) (Or.inr fun c hc => (hnone c hc).2)]
      exact ⟨hended .done _ fun c hc => (hnone c hc).1, machine_setMachine_same ..⟩
    · have hx : x = _ := evalStation_givesUp hk hhalt (fun c hc => (hnone c hc).1) hm
      rw [hx, startStep_withdrawn hk (by simp) (Or.inr fun c hc => (hnone c hc).2)]
      exact ⟨hended .missed _ fun c hc => (hnone c hc).1, machine_setMachine_same ..⟩
  · intro cars
    refine ⟨fun n hl hn h => ?_, fun older c hroster hm => ⟨fun he => ⟨?_, ?_⟩,
        fun he htail hsettle hmin hgap => ?_⟩,
      fun k g c hroster hlen hk hconv hmark hlo hhi => ?_,
      fun tag n ht hmode hstop hn hfound hm => ?_, fun left hstate htimer hpace => ?_⟩
    · rw [exec_entryEyeBreak_evaluates heye hl hn h, entered_eq]
      rfl
    · refine (congrArg done (testCapture_evaluates
        (s := { s with inputs := { s.inputs with heightEye := true } }) s rfl heye hm he
        hroster)).trans ?_
      simp only [addEyes, Bool.or_true]
      rfl
    · refine (congrArg done (testCapture_evaluates
        (s := { s with inputs := { s.inputs with widthEye := true } }) s rfl heye hm he
        hroster)).trans ?_
      simp only [addEyes, Bool.or_true]
      rfl
    · rw [exec_settleReached_evaluates heye hroster hm he htail hsettle hmin hgap]
      simp [fixedCar, cars, setRoster]
    · rw [exec_checkpointEyeBreak_evaluates heye hroster hlen hk hconv ⟨hmark, hlo, hhi⟩]
      rfl
    · intro h
      have hword : wordAt (u16 n) 0 = n := wordAt_code hn
      have hexec := request_ok (k := .removeCar) (tag := tag) ht rfl rfl (Or.inl hmode)
        (removeCarRequest_ok (s := hunt .console s) hword hstop hfound)
      rw [removal_evaluates (s := hunt .console s) heye hm] at hexec
      exact hexec
    · rw [exec_atRestTimerExpiry hstate htimer, atRest_evaluates hpace]
      rfl

end Sys2Proof.Machine
end

section
/-! # Wash stations: what an evaluation can do (R118, R122 to R124, R126) -/

namespace Sys2Proof.Machine

variable {s t u : State} {i j : StationIx} {c d : Car} {p : Progress}

/-! ## The machine of a station -/

/-- R123, R124, R126: the end of a service leaves the arm or withdraws it. -/
theorem endStep_machine_cases (j : StationIx) (s : State) :
    (endStep j s).machine j = s.machine j ∨
      ((s.machine j).arm = .advancing ∨ (s.machine j).arm = .engaged) ∧
        (endStep j s).machine j = s.withdrawn j := by
  rcases endStep_machine j j s with hsame | ⟨-, hout⟩
  · exact Or.inl hsame
  · have hback : ∀ u : State, u.machine j = s.machine j → u.stowedClosed j = s.stowedClosed j →
        u.station j = s.station j → (withdrawArm j u).machine j = s.withdrawn j :=
      fun u hm hs hst => by
        rw [withdrawArm_eq, machine_setMachine_same, State.withdrawn, hm, hs, hst, State.withdrawn]
    unfold endStep
    dsimp only
    split
    · exact Or.inl rfl
    · split
      · split
        · exact Or.inl rfl
        · exact Or.inr ⟨hout, hback _ rfl rfl rfl⟩
      · split
        · exact Or.inl rfl
        · split
          · exact Or.inl rfl
          · exact Or.inr ⟨hout, hback _ rfl rfl rfl⟩
      all_goals exact Or.inl rfl

/-- R122: a service starts by an advance from STOWED. -/
theorem startStep_machine_cases (j : StationIx) (s : State) :
    (startStep j s).machine j = s.machine j ∨
      (s.machine j).arm = .stowed ∧ (startStep j s).machine j = s.setOut j (s.machine j) := by
  unfold startStep
  split
  · exact Or.inl rfl
  · split
    · next h => exact Or.inr ⟨h.1, machine_setMachine_same ..⟩
    · exact Or.inl rfl

/-- R118: all that an evaluation can make of a machine: it stays; an arm that is out withdraws, and
may set out again when its switch stows it at once; a STOWED arm sets out. -/
theorem evaluate_machine_cases {motive : StationMachine → Prop} (j : StationIx) (s : State)
    (stays : motive (s.machine j))
    (withdraws : s.stationHalt = .running →
      (s.machine j).arm = .advancing ∨ (s.machine j).arm = .engaged → motive (s.withdrawn j))
    (setsOut : s.stationHalt = .running → (s.machine j).arm = .stowed →
      motive (s.setOut j (s.machine j)))
    (returns : s.stationHalt = .running →
      (s.machine j).arm = .advancing ∨ (s.machine j).arm = .engaged → s.stowedClosed j = true →
      motive (s.setOut j (s.withdrawn j))) :
    motive ((evaluate s).machine j) := by
  rw [machine_evaluate]
  cases hhalt : s.stationHalt with
  | stopped => rw [evalStation_stopped hhalt]; exact stays
  | holding => rw [evalStation_holding hhalt]; exact stays
  | running =>
    have hbetween : Washes s (missStep j (endStep j (qualifyStep j s))) :=
      ((markAll_washes ..).trans (endStep_washes ..)).trans (markAll_washes ..)
    have hmid : (missStep j (endStep j (qualifyStep j s))).machine j =
        (endStep j (qualifyStep j s)).machine j := rfl
    rw [evalStation_running hhalt]
    rcases startStep_machine_cases j (missStep j (endStep j (qualifyStep j s))) with
      hstart | ⟨hstowed, hstart⟩
    · rw [hstart, hmid]
      rcases endStep_machine_cases j (qualifyStep j s) with hend | ⟨hout, hend⟩
      · rw [hend]
        exact stays
      · rw [hend]
        exact withdraws hhalt hout
    · rw [hstart, State.setOut, hbetween.station, hmid]
      rw [hmid] at hstowed
      rcases endStep_machine_cases j (qualifyStep j s) with hend | ⟨hout, hend⟩
      · rw [hend] at hstowed ⊢
        exact setsOut hhalt hstowed
      · rw [hend] at hstowed ⊢
        refine returns hhalt hout (Bool.not_eq_false _ ▸ fun hopen => ?_)
        have hopen' : (qualifyStep j s).stowedClosed j = false := hopen
        simp [State.withdrawn, hopen'] at hstowed

theorem machine_evaluate_back (h : s.armBack j) : (evaluate s).machine j = s.machine j := by
  have hin : ¬ ((s.machine j).arm = .advancing ∨ (s.machine j).arm = .engaged) ∧
      (s.machine j).arm ≠ .stowed := by rcases h with h | h <;> simp [h]
  obtain ⟨hin, hstowed⟩ := hin
  exact evaluate_machine_cases (motive := fun m => m = s.machine j) j s rfl
    (fun _ hout => absurd hout hin) (fun _ hst => absurd hst hstowed) fun _ hout => absurd hout hin

theorem machine_evaluate_notRunning (h : s.stationHalt ≠ .running) (j : StationIx) :
    (evaluate s).machine j = s.machine j :=
  evaluate_machine_cases (motive := fun m => m = s.machine j) j s rfl (fun h' => absurd h' h)
    (fun h' => absurd h' h) fun h' => absurd h' h

theorem trip_evaluate (j : StationIx) (s : State) :
    ((evaluate s).machine j).trip = (s.machine j).trip :=
  evaluate_machine_cases (motive := fun m => m.trip = (s.machine j).trip) j s rfl (fun _ _ => rfl)
    (fun _ _ => rfl) fun _ _ _ => rfl

/-- An evaluation faults no arm. -/
theorem evaluate_noFault (h : (s.machine j).arm ≠ .fault) : ((evaluate s).machine j).arm ≠ .fault := by
  refine evaluate_machine_cases (motive := fun m => m.arm ≠ .fault) j s h (fun _ _ => ?_)
    (fun _ _ => by simp [State.setOut]) fun _ _ _ => by simp [State.setOut]
  unfold State.withdrawn
  dsimp only
  split <;> simp

/-- R122, R126: an arm at its closed switch, or on its way from it. -/
def State.armAtStop (s : State) (j : StationIx) : Prop :=
  s.stowedClosed j = true ∧ ((s.machine j).arm = .stowed ∨ (s.machine j).arm = .advancing)

theorem evaluate_armAtStop (h : s.armAtStop j) : (evaluate s).armAtStop j := by
  obtain ⟨hclosed, harm⟩ := h
  refine ⟨((evaluate_washes s).stowedClosed j).trans hclosed, ?_⟩
  exact evaluate_machine_cases (motive := fun m => m.arm = .stowed ∨ m.arm = .advancing) j s harm
    (fun _ _ => Or.inl (if_pos hclosed)) (fun _ _ => Or.inr rfl) fun _ _ _ => Or.inr rfl

/-! ## The statuses of the cars -/

/-- Every car shows what it showed, and each of its statuses moves by R. -/
def Recasts (R : Progress → Progress → Prop) (l r : List Car) : Prop :=
  List.Forall₂ (fun c d => d.sight = c.sight ∧ ∀ j, R (c.status j) (d.status j)) l r

section
variable {R Q : Progress → Progress → Prop} {l r v : List Car}

theorem Recasts.mono (hRQ : ∀ p q, R p q → Q p q) (h : Recasts R l r) : Recasts Q l r :=
  List.Forall₂.imp (fun _ _ hcd => ⟨hcd.1, fun j => hRQ _ _ (hcd.2 j)⟩) h

theorem Recasts.refl (hR : ∀ p, R p p) (l : List Car) : Recasts R l l :=
  List.forall₂_same.mpr fun _ _ => ⟨rfl, fun _ => hR _⟩

theorem Recasts.trans (hR : ∀ p q q', R p q → R q q' → R p q') (h : Recasts R l r)
    (k : Recasts R r v) : Recasts R l v := by
  unfold Recasts at *
  induction h generalizing v with
  | nil => exact k
  | cons hcd _ ih =>
    obtain ⟨e, v', hde, hrest, rfl⟩ := List.forall₂_cons_left_iff.mp k
    exact .cons ⟨hde.1.trans hcd.1, fun j => hR _ _ _ (hcd.2 j) (hde.2 j)⟩ (ih hrest)

theorem Recasts.get {k : Nat} (h : Recasts R l r) (hc : l[k]? = some c) :
    ∃ d, r[k]? = some d ∧ d.sight = c.sight ∧ ∀ j, R (c.status j) (d.status j) := by
  unfold Recasts at h
  induction h generalizing k with
  | nil => simp at hc
  | cons hcd _ ih =>
    cases k with
    | zero =>
      obtain rfl := Option.some.inj hc
      exact ⟨_, rfl, hcd⟩
    | succ k => exact ih hc

theorem map_recasts {f : Car → Car}
    (hf : ∀ c, (f c).sight = c.sight ∧ ∀ j, R (c.status j) ((f c).status j)) (l : List Car) :
    Recasts R l (l.map f) :=
  List.forall₂_map_right_iff.mpr (List.forall₂_same.mpr fun c _ => hf c)

theorem setStatus_recasts (hR : ∀ p, R p p) (h : R (c.status j) p) :
    (c.setStatus j p).sight = c.sight ∧ ∀ i, R (c.status i) ((c.setStatus j p).status i) := by
  refine ⟨rfl, fun i => ?_⟩
  by_cases hij : j = i
  · subst hij
    rwa [status_setStatus_same]
  · rw [status_setStatus_other hij]
    exact hR _

section
variable (hR : ∀ p, R p p)
include hR

variable {test : Car → Bool} (h : ∀ c, test c = true → R (c.status j) p)
include h

theorem markAll_recasts (s : State) :
    Recasts R s.track.roster (markAll j test p s).track.roster := by
  refine map_recasts (fun c => ?_) _
  split
  · next hc => exact setStatus_recasts hR (h c hc)
  · exact ⟨rfl, fun _ => hR _⟩

theorem markOldest_recasts (s : State) :
    Recasts R s.track.roster (markOldest j test p s).track.roster := by
  have hfirst : ∀ l : List Car, Recasts R l (mapFirst test (fun c => c.setStatus j p) l) := by
    intro l
    induction l with
    | nil => exact .nil
    | cons c l ih =>
      rw [mapFirst]
      split
      · next hc => exact .cons (setStatus_recasts hR (h c hc)) (Recasts.refl hR l)
      · exact .cons ⟨rfl, fun _ => hR _⟩ ih
  exact hfirst _

end

end

/-- R118: an evaluation writes no status but PENDING and ACTIVE. -/
def Settles (p q : Progress) : Prop := p ≠ .pending → p ≠ .active → q = p

theorem Settles.refl (p : Progress) : Settles p p := fun _ _ => rfl

theorem Settles.trans {p q q' : Progress} (h : Settles p q) (k : Settles q q') : Settles p q' :=
  fun hp ha => by
    obtain rfl := h hp ha
    exact k hp ha

theorem settles_of_pending (q : Progress) (h : p = .pending) : Settles p q := fun hp => absurd h hp

theorem settles_of_active (q : Progress) (h : p = .active) : Settles p q := fun _ ha => absurd h ha

theorem pending_of_due (h : s.due j c = true) : c.status j = .pending := by
  simp only [State.due, Bool.and_eq_true, beq_iff_eq] at h
  exact h.1.1

theorem pending_of_dueOpen (h : s.dueOpen j c = true) : c.status j = .pending :=
  (dueOpen_iff.mp h).1.1

theorem judges_recasts {R : Progress → Progress → Prop} (hR : ∀ p, R p p)
    (h : ∀ q, R .pending q) (j : StationIx) (s : State) :
    Recasts R s.track.roster (s.track.roster.map (s.judged j)) := by
  refine map_recasts (fun c => ?_) _
  unfold State.judged
  split
  · next hc =>
    have hp := hc.1
    repeat' split
    · exact ⟨rfl, fun _ => hR _⟩
    · exact setStatus_recasts hR (by rw [hp]; exact h _)
    · exact setStatus_recasts hR (by rw [hp]; exact h _)
  · exact ⟨rfl, fun _ => hR _⟩

theorem endStep_recasts (j : StationIx) (s : State) :
    Recasts Settles s.track.roster (endStep j s).track.roster := by
  have hclosed : ∀ (q : Progress) (u : State), Recasts Settles u.track.roster
      (markAll j (fun c => c.status j == .active && !s.windowOpen j c) q u).track.roster :=
    fun q u => markAll_recasts Settles.refl (fun c hc => settles_of_active q (by
      simp only [Bool.and_eq_true, beq_iff_eq] at hc
      exact hc.1)) u
  have hsame := Recasts.refl Settles.refl s.track.roster
  unfold endStep
  dsimp only
  split
  · exact hclosed ..
  · split
    · split
      · exact hsame
      · exact hclosed ..
    · split
      · exact hsame
      · split
        · exact Recasts.trans (fun _ _ _ => Settles.trans) (hclosed .done s)
            (markOldest_recasts Settles.refl
              (fun c hc => settles_of_pending _ (pending_of_dueOpen hc)) _)
        · exact hclosed ..
    all_goals exact hsame

theorem startStep_recasts (j : StationIx) (s : State) :
    Recasts Settles s.track.roster (startStep j s).track.roster := by
  have hdue : ∀ c, s.dueOpen j c = true → Settles (c.status j) .active :=
    fun c hc => settles_of_pending _ (pending_of_dueOpen hc)
  unfold startStep
  split
  · exact markAll_recasts Settles.refl hdue s
  · split
    · exact markOldest_recasts Settles.refl hdue s
    · exact Recasts.refl Settles.refl _

theorem evalStation_recasts (j : StationIx) (s : State) :
    Recasts Settles s.track.roster (evalStation j s).track.roster := by
  have htrans : ∀ p q q', Settles p q → Settles q q' → Settles p q' := fun _ _ _ => Settles.trans
  cases hhalt : s.stationHalt with
  | holding => rw [evalStation_holding hhalt]; exact Recasts.refl Settles.refl _
  | stopped =>
    rw [evalStation_stopped hhalt]
    exact judges_recasts Settles.refl (fun q => settles_of_pending q rfl) j s
  | running =>
    have hqualify : Recasts Settles s.track.roster (qualifyStep j s).track.roster :=
      markAll_recasts Settles.refl (fun c hc => settles_of_pending _ (by
        simp only [Bool.and_eq_true, beq_iff_eq] at hc
        exact hc.1.1)) s
    have hmiss : ∀ u : State, Recasts Settles u.track.roster (missStep j u).track.roster :=
      fun u => markAll_recasts Settles.refl (fun c hc => settles_of_pending _ (pending_of_due (by
        simp only [Bool.and_eq_true] at hc
        exact hc.1))) u
    rw [evalStation_running hhalt]
    exact ((hqualify.trans htrans (endStep_recasts ..)).trans htrans (hmiss _)).trans htrans
      (startStep_recasts ..)

theorem evaluate_recasts (s : State) :
    Recasts Settles s.track.roster (evaluate s).track.roster := by
  unfold evaluate
  exact List.foldlRecOn (motive := fun u : State => Recasts Settles s.track.roster u.track.roster)
    stationIxs (fun s i => evalStation i s) (Recasts.refl Settles.refl _) fun u hu i _ =>
      Recasts.trans (fun _ _ _ => Settles.trans) hu (evalStation_recasts i u)

/-- R118: in STOPPED an evaluation writes no status but PENDING. -/
theorem evaluate_recasts_stopped (h : s.stationHalt = .stopped) :
    Recasts (fun p q => p ≠ .pending → q = p) s.track.roster (evaluate s).track.roster := by
  have hfold := List.foldlRecOn (motive := fun u : State => u.stationHalt = .stopped ∧
      Recasts (fun p q => p ≠ .pending → q = p) s.track.roster u.track.roster)
    stationIxs (fun s i => evalStation i s) ⟨h, Recasts.refl (fun _ _ => rfl) _⟩ fun u hu i _ => by
      obtain ⟨hstop, hcars⟩ := hu
      refine ⟨(evalStation_washes i u).stationHalt.trans hstop, hcars.trans ?_ ?_⟩
      · intro p q q' hpq hqq' hp
        obtain rfl := hpq hp
        exact hqq' hp
      · rw [evalStation_stopped hstop]
        exact judges_recasts (fun _ _ => rfl) (fun _ hp => absurd rfl hp) i u
  unfold evaluate
  exact hfold.2

/-- R118: in HOLDING an evaluation does nothing. -/
theorem evaluate_holding (h : s.stationHalt = .holding) : evaluate s = s := by
  unfold evaluate
  exact List.foldlRecOn (motive := fun u : State => u = s) stationIxs (fun s i => evalStation i s)
    (Eq.refl s) fun u hu i _ => by
      subst hu
      exact evalStation_holding h

end Sys2Proof.Machine
end

section
/-! # Wash stations: what a change of the halt state makes of a station (R130 to R133) -/

namespace Sys2Proof.Machine

variable {s t u : State} {i j : StationIx} {c d : Car}

/-! ## A stop (R130) -/

/-- R130: the machine of a station that stops. -/
def State.halted (s : State) (j : StationIx) : StationMachine :=
  if (s.machine j).arm = .advancing ∨ (s.machine j).arm = .engaged then s.withdrawn j
  else { s.machine j with withdrawTimer := (s.machine j).withdrawTimer.unpause }

theorem machine_stopArm (j : StationIx) (s : State) : (stopArm s j).machine j = s.halted j := by
  unfold stopArm State.halted
  cases (s.machine j).arm with
  | advancing => exact machine_setMachine_same ..
  | engaged => exact machine_setMachine_same ..
  | _ => exact machine_setMachine_same ..

theorem stopArm_sameAt (hij : i ≠ j) (s : State) : SameAt j s (stopArm s i) := by
  unfold stopArm
  split
  · exact withdrawArm_sameAt hij s
  · exact withdrawArm_sameAt hij s
  all_goals exact updateMachine_sameAt hij _ s

theorem stopArm_track (s : State) (j : StationIx) : (stopArm s j).track = s.track := by
  unfold stopArm
  split <;> rfl

theorem SameAt.halted (h : SameAt j s t) : t.halted j = s.halted j := by
  rw [State.halted, State.withdrawn, h.machine, h.washes.stowedClosed, h.washes.station,
    State.halted, State.withdrawn]

theorem SameAt.stopArm (h : SameAt j s t) : SameAt j (stopArm s j) (stopArm t j) := by
  refine h.after (stopArm_washes ..) (stopArm_washes ..) ?_ ?_
  · rw [machine_stopArm, machine_stopArm, h.halted]
  · rw [stopArm_track, stopArm_track]
    exact h.faces

/-- R130: the car as a stop leaves it. -/
def Car.interrupted (c : Car) : Car :=
  { c with progress := vmap (fun p => if p = .active then .interrupted else p) c.progress }

theorem status_interrupted (c : Car) (j : StationIx) :
    c.interrupted.status j = if c.status j = .active then .interrupted else c.status j :=
  vmap_getElem ..

theorem stopStations_sameAt (j : StationIx) (s : State) :
    SameAt j (stopArm (setRoster (s.track.roster.map Car.interrupted) s) j) (stopStations s) :=
  foldl_sameAt (fun _ u hij => stopArm_sameAt hij u) (fun _ _ h => h.stopArm) _

theorem machine_stopStations (j : StationIx) (s : State) : (stopStations s).machine j = s.halted j := by
  rw [(stopStations_sameAt j s).machine, machine_stopArm]
  rfl

theorem stopStations_roster (s : State) :
    (stopStations s).track.roster = s.track.roster.map Car.interrupted := by
  have hfold : ∀ (l : List StationIx) (u : State), (l.foldl stopArm u).track = u.track := by
    intro l
    induction l with
    | nil => exact fun _ => rfl
    | cons i l ih => exact fun u => (ih _).trans (stopArm_track u i)
  unfold stopStations
  rw [hfold]
  rfl

/-! ## The end of a stop (R132) -/

/-- R132: the car once station j has judged its INTERRUPTED status. -/
def State.rejudged (s : State) (j : StationIx) (c : Car) : Car :=
  if c.status j = .interrupted then
    c.setStatus j (if s.windowOpen j c then .pending else .missed)
  else c

theorem judgeStation_eq (s : State) (j : StationIx) :
    judgeStation s j = setRoster (s.track.roster.map (s.rejudged j)) s := rfl

theorem status_rejudged (s : State) (j : StationIx) (c : Car) : (s.rejudged j c).status j =
    if c.status j = .interrupted then (if s.windowOpen j c = true then .pending else .missed)
    else c.status j := by
  unfold State.rejudged
  split
  · exact status_setStatus_same ..
  · rfl

theorem rejudged_sight (s : State) (j : StationIx) (c : Car) :
    (s.rejudged j c).sight = c.sight := by
  unfold State.rejudged
  split <;> rfl

theorem judgeStation_washes (s : State) (j : StationIx) : Washes s (judgeStation s j) :=
  mapRoster_washes (s.rejudged j) (rejudged_sight s j) s

theorem judgeStation_sameAt (hij : i ≠ j) (s : State) : SameAt j s (judgeStation s i) where
  washes := judgeStation_washes s i
  machine := rfl
  faces := by
    have h : ∀ c : Car, (s.rejudged i c).face j = c.face j := fun c => by
      unfold State.rejudged
      split
      · exact face_iff.mpr ⟨rfl, status_setStatus_other hij c _⟩
      · rfl
    simp [judgeStation_eq, Function.comp_def, h]

theorem SameAt.judgeStation (h : SameAt j s t) :
    SameAt j (judgeStation s j) (judgeStation t j) := by
  refine h.after (judgeStation_washes ..) (judgeStation_washes ..) h.machine
    (map_faces (f := t.rejudged j) (g := s.rejudged j) (fun c d hcd => ?_) h.faces)
  obtain ⟨hsight, hstatus⟩ := face_iff.mp hcd
  rw [face_iff, status_rejudged, status_rejudged, hstatus, h.washes.windowOpen hsight,
    rejudged_sight, rejudged_sight]
  exact ⟨hsight, rfl⟩

theorem judgeStations_stn (s : State) : (judgeStations s).stn = s.stn := by
  unfold judgeStations
  exact List.foldlRecOn (motive := fun u : State => u.stn = s.stn) stationIxs judgeStation
    (Eq.refl s.stn) fun _ hu _ _ => hu

/-- R132: of station j a judgement of all is the judgement of j. -/
theorem judgeStations_faces (j : StationIx) (s : State) :
    (judgeStations s).track.roster.map (Car.face j) =
      (s.track.roster.map (s.rejudged j)).map (Car.face j) :=
  (foldl_sameAt (fun _ u hij => judgeStation_sameAt hij u) (fun _ _ h => h.judgeStation) s).faces

/-- A car of the same place in a roster whose faces are those of another. -/
theorem get_of_faces {l r : List Car} (h : l.map (Car.face j) = r.map (Car.face j)) {k : Nat}
    (hc : r[k]? = some c) :
    ∃ d, l[k]? = some d ∧ d.sight = c.sight ∧ d.status j = c.status j := by
  have hk : (l[k]?).map (Car.face j) = some (c.face j) := by
    rw [← List.getElem?_map, h, List.getElem?_map, hc]
    rfl
  obtain ⟨d, hd, hface⟩ := Option.map_eq_some_iff.mp hk
  exact ⟨d, hd, face_iff.mp hface⟩

/-! ## The reaction to each move of the halt state -/

/-- A moved halt state as CONV has taken it (R141, log entry 6). -/
def demandTaken (new : HaltState) (s : State) : State := testDemand (moveHalt new s)

section
variable (hmode : s.mode ≠ .lockout)
include hmode

theorem haltTaken_eq (new : HaltState) :
    haltTaken new s = stationsHaltChange s.halt.state new (demandTaken new s) := by
  have hnew : (moveHalt new s).stationHalt = new :=
    stationHalt_of_mode (s := moveHalt new s) hmode
  rw [haltTaken, stationHalt_of_mode hmode, hnew]
  rfl

theorem haltTaken_stops (h : s.halt.state ≠ .stopped) :
    haltTaken .stopped s = evaluate (stopStations (demandTaken .stopped s)) := by
  rw [haltTaken_eq hmode]
  cases hs : s.halt.state with
  | running => rfl
  | holding => rfl
  | stopped => exact absurd hs h

theorem haltTaken_holds (h : s.halt.state = .running) :
    haltTaken .holding s = evaluate (holdStations (demandTaken .holding s)) := by
  rw [haltTaken_eq hmode, h]
  rfl

theorem haltTaken_rests (h : s.halt.state = .stopped) :
    haltTaken .holding s = evaluate (holdStations (judgeStations (demandTaken .holding s))) := by
  rw [haltTaken_eq hmode, h]
  rfl

theorem haltTaken_resumes (h : s.halt.state = .stopped) :
    haltTaken .running s = evaluate (judgeStations (demandTaken .running s)) := by
  rw [haltTaken_eq hmode, h]
  rfl

theorem haltTaken_releases (h : s.halt.state = .holding) :
    haltTaken .running s = evaluate (releaseStations (demandTaken .running s)) := by
  rw [haltTaken_eq hmode, h]
  rfl

end

end Sys2Proof.Machine
end

section
/-! # Wash stations: what an event leaves of them (R118, R130 to R133)

The tests that end an event reach the stations through evaluations alone, under one halt state; a
cause or its end reaches them through a reaction and evaluations. What an evaluation and each reaction
keep is therefore kept by all of these. -/

namespace Sys2Proof.Machine

variable {s t u : State} {i j : StationIx} {c d : Car}

/-! ## Evaluations -/

/-- The stations' records and, but for the pace and the tickets, what the stations read. -/
def washView (s : State) := (s.track.roster, s.stn, s.settings, s.inputs, s.stationHalt)

/-- Evaluations of the stations, and between them nothing that changes their view. -/
inductive Evaluates : State → State → Prop where
  | still {s t : State} (h : washView t = washView s) : Evaluates s t
  | evaluates (s : State) : Evaluates s (evaluate s)
  | trans {s t u : State} (h : Evaluates s t) (k : Evaluates t u) : Evaluates s u

theorem Evaluates.refl (s : State) : Evaluates s s := .still rfl

/-- What holds across an evaluation and across whatever keeps the view holds across both in turn. -/
theorem Evaluates.keeps {R : State → State → Prop}
    (hstill : ∀ s t, washView t = washView s → R s t) (heval : ∀ s, R s (evaluate s))
    (htrans : ∀ s t u, R s t → R t u → R s u) (h : Evaluates s t) : R s t := by
  induction h with
  | still h => exact hstill _ _ h
  | evaluates s => exact heval s
  | trans _ _ ih ih' => exact htrans _ _ _ ih ih'

theorem evalIfPaceMoved_evaluates (b s : State) : Evaluates s (evalIfPaceMoved b s) := by
  unfold evalIfPaceMoved
  split
  · exact .refl s
  · exact .evaluates s

theorem testDemand_view (s : State) : washView (testDemand s) = washView s := by
  unfold testDemand startWarning
  repeat' split
  all_goals rfl

theorem retestDemand_evaluates (s : State) : Evaluates s (retestDemand s) :=
  (Evaluates.still (testDemand_view s)).trans (evalIfPaceMoved_evaluates s _)

theorem testTire_view (s : State) : washView (testTire s) = washView s := by
  unfold testTire
  split <;> rfl

theorem gateHaltChange_view (s : State) : washView (gateHaltChange s) = washView s := by
  unfold gateHaltChange
  repeat' split
  · exact (testTire_view _).trans rfl
  · rfl
  · rfl

theorem testSpacing_view (s : State) : washView (testSpacing s) = washView s := by
  unfold testSpacing
  split <;> rfl

theorem testIdleOnce_evaluates (s : State) : Evaluates s (testIdleOnce s) := by
  unfold testIdleOnce
  repeat' split
  · exact .refl s
  · exact .still rfl
  · exact .refl s
  · exact .still rfl
  · exact .still ((testTire_view _).trans rfl)
  · exact Evaluates.trans (t := unparked s) (.still rfl) (retestDemand_evaluates _)
  · exact .refl s
  · exact .refl s

/-- R162: a drain that ends leaves the halt state as the stations take it. -/
theorem testDrain_evaluates (s : State) : Evaluates s (testDrain s) := by
  unfold testDrain
  split
  · next h =>
    have hview : washView (raiseTo .site .closeDone { s with mode := .closed }) = washView s := by
      have hhalt : (raiseTo .site .closeDone { s with mode := .closed }).stationHalt =
          s.stationHalt := by
        have hs : s.stationHalt = s.halt.state := stationHalt_of_mode (by simp [h.1])
        rw [hs]
        rfl
      simp only [washView, hhalt]
      rfl
    exact (Evaluates.still hview).trans (retestDemand_evaluates _)
  · exact .refl s

theorem settleDrain_evaluates (b s : State) : Evaluates s (settleDrain b s) := by
  have hpark : washView (testPark b (testDrain s)) = washView (testDrain s) := by
    unfold testPark
    repeat' split
    all_goals rfl
  exact (testDrain_evaluates s).trans (.still hpark)

theorem drive_view (s : State) : washView (drive s) = washView s := rfl

/-- What every event ends with reaches the stations through evaluations alone. -/
theorem settle_evaluates (b s : State) : Evaluates s (settle b s) :=
  ((testIdleOnce_evaluates s).trans (testIdleOnce_evaluates _)).trans (settleDrain_evaluates b _)

theorem settleHalted_evaluates (b s : State) : Evaluates s (settleHalted b s) := by
  unfold settleHalted
  split
  · exact .refl s
  · exact settle_evaluates b s

/-- R141: the reaction of the gate to a moved halt state leaves the stations. -/
theorem setHalt_evaluates {new : HaltState} (h : haltTaken new s = evaluate u) :
    Evaluates u (setHalt new s) := by
  rw [setHalt_eq, h]
  exact (Evaluates.evaluates u).trans (.still (gateHaltChange_view _))

/-! ## What evaluations keep -/

theorem washView_iff : washView t = washView s ↔ t.track.roster = s.track.roster ∧
    t.stn = s.stn ∧ t.settings = s.settings ∧ t.inputs = s.inputs ∧
    t.stationHalt = s.stationHalt := by
  simp [washView]

theorem machine_of_stn (h : t.stn = s.stn) (j : StationIx) : t.machine j = s.machine j := by
  rw [State.machine, h, State.machine]

theorem Evaluates.stationHalt (h : Evaluates s t) : t.stationHalt = s.stationHalt :=
  h.keeps (R := fun s t => t.stationHalt = s.stationHalt)
    (fun _ _ hv => (washView_iff.mp hv).2.2.2.2) (fun s => (evaluate_washes s).stationHalt)
    fun _ _ _ h k => k.trans h

/-- R126, R128: evaluations leave an arm in WITHDRAWING or FAULT. -/
theorem Evaluates.machine_back (h : Evaluates s t) (hback : s.armBack j) :
    t.machine j = s.machine j :=
  h.keeps (R := fun s t => s.armBack j → t.machine j = s.machine j)
    (fun _ _ hv _ => machine_of_stn (washView_iff.mp hv).2.1 j)
    (fun _ hb => machine_evaluate_back hb)
    (fun s t u h k hb => by
      have hst := h hb
      have hb' : t.armBack j := by rw [State.armBack, hst]; exact hb
      exact (k hb').trans hst) hback

/-- R118: in STOPPED evaluations leave every machine, and of the statuses all but PENDING. -/
theorem Evaluates.stopped (h : Evaluates s t) (hstop : s.stationHalt = .stopped) :
    (∀ j, t.machine j = s.machine j) ∧
      Recasts (fun p q => p ≠ .pending → q = p) s.track.roster t.track.roster := by
  refine h.keeps (R := fun s t => s.stationHalt = .stopped → t.stationHalt = .stopped ∧
    (∀ j, t.machine j = s.machine j) ∧
      Recasts (fun p q => p ≠ .pending → q = p) s.track.roster t.track.roster)
    (fun s t hv hs => ?_) (fun s hs => ?_) (fun s t u h k hs => ?_) hstop |>.2
  · obtain ⟨hroster, hstn, -, -, hhalt⟩ := washView_iff.mp hv
    exact ⟨hhalt.trans hs, machine_of_stn hstn, hroster ▸ Recasts.refl (fun _ _ => rfl) _⟩
  · exact ⟨(evaluate_washes s).stationHalt.trans hs, machine_evaluate_notRunning (by simp [hs]),
      evaluate_recasts_stopped hs⟩
  · obtain ⟨ht, hmachine, hcars⟩ := h hs
    obtain ⟨hu, hmachine', hcars'⟩ := k ht
    refine ⟨hu, fun j => (hmachine' j).trans (hmachine j), hcars.trans (fun p q q' hpq hqq' hp => ?_)
      hcars'⟩
    obtain rfl := hpq hp
    exact hqq' hp

/-- R118: in HOLDING evaluations leave every record of the stations. -/
theorem Evaluates.holding (h : Evaluates s t) (hhold : s.stationHalt = .holding) :
    t.track.roster = s.track.roster ∧ t.stn = s.stn :=
  (h.keeps (R := fun s t => s.stationHalt = .holding → t.stationHalt = .holding ∧
    t.track.roster = s.track.roster ∧ t.stn = s.stn)
    (fun s t hv hs => by
      obtain ⟨hroster, hstn, -, -, hhalt⟩ := washView_iff.mp hv
      exact ⟨hhalt.trans hs, hroster, hstn⟩)
    (fun s hs => by
      rw [evaluate_holding hs]
      exact ⟨hs, rfl, rfl⟩)
    (fun s t u h k hs => by
      obtain ⟨ht, hroster, hstn⟩ := h hs
      obtain ⟨hu, hroster', hstn'⟩ := k ht
      exact ⟨hu, hroster'.trans hroster, hstn'.trans hstn⟩) hhold).2

/-- R122, R126: evaluations leave an arm at its closed switch, or on its way from it. -/
theorem Evaluates.armAtStop (h : Evaluates s t) (hstop : s.armAtStop j) : t.armAtStop j :=
  h.keeps (R := fun s t => s.armAtStop j → t.armAtStop j)
    (fun s t hv hs => by
      obtain ⟨-, hstn, hsettings, hinputs, -⟩ := washView_iff.mp hv
      have hclosed : t.stowedClosed j = s.stowedClosed j := by
        simp only [State.stowedClosed, State.station, hinputs, hsettings]
      rw [State.armAtStop, hclosed, machine_of_stn hstn]
      exact hs)
    (fun _ hs => evaluate_armAtStop hs) (fun _ _ _ h k => k ∘ h) hstop

/-! ## Evaluations and reactions -/

/-- The roster, the stations, the settings and the inputs. -/
def yardView (s : State) := (s.track.roster, s.stn, s.settings, s.inputs)

/-- Evaluations of the stations and reactions to the halt state, and between them nothing that
changes the roster, the stations, the settings or the inputs. -/
inductive Works : State → State → Prop where
  | still {s t : State} (h : yardView t = yardView s) : Works s t
  | evaluates (s : State) : Works s (evaluate s)
  | stops (s : State) : Works s (stopStations s)
  | holds (s : State) : Works s (holdStations s)
  | releases (s : State) : Works s (releaseStations s)
  | judges (s : State) : Works s (judgeStations s)
  | trans {s t u : State} (h : Works s t) (k : Works t u) : Works s u

theorem Works.refl (s : State) : Works s s := .still rfl

theorem yardView_iff : yardView t = yardView s ↔ t.track.roster = s.track.roster ∧
    t.stn = s.stn ∧ t.settings = s.settings ∧ t.inputs = s.inputs := by
  simp [yardView]

theorem Evaluates.works (h : Evaluates s t) : Works s t :=
  h.keeps (fun s t hv => .still (by
    obtain ⟨hroster, hstn, hsettings, hinputs, -⟩ := washView_iff.mp hv
    exact yardView_iff.mpr ⟨hroster, hstn, hsettings, hinputs⟩)) .evaluates fun _ _ _ => .trans

theorem stationsHaltChange_works (old new : HaltState) (s : State) :
    Works s (stationsHaltChange old new s) := by
  unfold stationsHaltChange
  refine Works.trans ?_ (.evaluates _)
  split
  · exact .stops s
  · exact .stops s
  · exact .holds s
  · exact (Works.judges s).trans (.holds _)
  · exact .judges s
  · exact .releases s
  all_goals exact .refl s

theorem setHalt_works (new : HaltState) (s : State) : Works s (setHalt new s) := by
  have hmove : Works s (moveHalt new s) := .still rfl
  rw [setHalt_eq, haltTaken]
  exact ((hmove.trans (Evaluates.still (testDemand_view _)).works).trans
    (stationsHaltChange_works ..)).trans (Evaluates.still (gateHaltChange_view _)).works

theorem joinEpisode_yard (c : Cause) (s : State) : yardView (joinEpisode c s) = yardView s := by
  unfold joinEpisode
  repeat' split
  all_goals rfl

theorem closeEpisode_yard (b : EndedBy) (s : State) : yardView (closeEpisode b s) = yardView s := by
  unfold closeEpisode
  repeat' split
  all_goals rfl

theorem raiseCause_works (c : Cause) (subj : Subject) (s : State) :
    Works s (raiseCause c subj s) := by
  have hjoin : yardView (joinEpisode c (withCause c s)) = yardView s := joinEpisode_yard ..
  exact raiseCause_cases (motive := Works s) (fun _ => .refl s)
    (fun _ => Works.trans (t := openEpisode c subj (withCause c s)) (.still rfl) (setHalt_works ..))
    (fun _ _ => (Works.still hjoin).trans (setHalt_works ..)) fun _ _ => .still hjoin

theorem clearCause_works (c : Cause) (s : State) : Works s (clearCause c s) := by
  have hclose : yardView (closeEpisode .auto (withoutCause c s)) = yardView s :=
    closeEpisode_yard ..
  exact clearCause_cases (motive := Works s) (fun _ => .refl s)
    (fun _ _ => (Works.still hclose).trans (setHalt_works ..)) fun _ => .still rfl

theorem settleHalted_works (b s : State) : Works s (settleHalted b s) :=
  (settleHalted_evaluates b s).works

/-! ## What both keep -/

theorem machine_holdStations (j : StationIx) (s : State) : (holdStations s).machine j =
    { s.machine j with
      advanceTimer := (s.machine j).advanceTimer.pause
      withdrawTimer := (s.machine j).withdrawTimer.pause } := vmap_getElem ..

theorem machine_releaseStations (j : StationIx) (s : State) : (releaseStations s).machine j =
    { s.machine j with
      advanceTimer := (s.machine j).advanceTimer.unpause
      withdrawTimer := (s.machine j).withdrawTimer.unpause } := vmap_getElem ..

theorem stopStations_jog (s : State) : (stopStations s).stn.jog = s.stn.jog := by
  have hstop : ∀ (u : State) i, (stopArm u i).stn.jog = u.stn.jog := fun u i => by
    unfold stopArm
    split <;> rfl
  have hfold : ∀ (l : List StationIx) (u : State), (l.foldl stopArm u).stn.jog = u.stn.jog := by
    intro l
    induction l with
    | nil => exact fun _ => rfl
    | cons i l ih => exact fun u => (ih _).trans (hstop u i)
  unfold stopStations
  rw [hfold]
  rfl

theorem Works.jog (h : Works s t) : t.stn.jog = s.stn.jog := by
  induction h with
  | still h => rw [(yardView_iff.mp h).2.1]
  | evaluates s => exact evaluate_jog s
  | stops s => exact stopStations_jog s
  | holds s => rfl
  | releases s => rfl
  | judges s => rw [judgeStations_stn]
  | trans _ _ ih ih' => exact ih'.trans ih

/-- R125: the trip count is left alone. -/
theorem Works.trip (h : Works s t) (j : StationIx) : (t.machine j).trip = (s.machine j).trip := by
  induction h with
  | still h => rw [machine_of_stn (yardView_iff.mp h).2.1]
  | evaluates s => exact trip_evaluate j s
  | stops s =>
    rw [machine_stopStations, State.halted]
    split <;> rfl
  | holds s => rw [machine_holdStations]
  | releases s => rw [machine_releaseStations]
  | judges s => rw [machine_of_stn (judgeStations_stn s)]
  | trans _ _ ih ih' => exact ih'.trans ih

/-- R128: no arm is faulted. -/
theorem Works.noFault (h : Works s t) (hn : (s.machine j).arm ≠ .fault) :
    (t.machine j).arm ≠ .fault := by
  induction h with
  | still h => rwa [machine_of_stn (yardView_iff.mp h).2.1]
  | evaluates s => exact evaluate_noFault hn
  | stops s =>
    rw [machine_stopStations, State.halted, State.withdrawn]
    split
    · dsimp only
      split <;> simp
    · exact hn
  | holds s => rwa [machine_holdStations]
  | releases s => rwa [machine_releaseStations]
  | judges s => rwa [machine_of_stn (judgeStations_stn s)]
  | trans _ _ ih ih' => exact ih' (ih hn)

/-- R128: an arm in FAULT with its timers stopped. -/
def StationMachine.Faulted (m : StationMachine) : Prop :=
  m.arm = .fault ∧ m.advanceTimer = .stopped ∧ m.withdrawTimer = .stopped

theorem StationMachine.Faulted.rests {m : StationMachine} (h : m.Faulted) :
    { m with advanceTimer := .stopped, withdrawTimer := .stopped } = m := by
  obtain ⟨arm, advance, withdraw, trip, opened⟩ := m
  obtain ⟨-, rfl, rfl⟩ := h
  rfl

/-- R128: an arm in FAULT stays as it is. -/
theorem Works.faulted (h : Works s t) (hm : (s.machine j).Faulted) : t.machine j = s.machine j := by
  induction h with
  | still h => exact machine_of_stn (yardView_iff.mp h).2.1 j
  | evaluates s => exact machine_evaluate_back (Or.inr hm.1)
  | stops s =>
    obtain ⟨harm, -, hw⟩ := hm
    rw [machine_stopStations, State.halted, if_neg (by simp [harm]), hw, Timer.unpause, ← hw]
  | holds s =>
    obtain ⟨-, ha, hw⟩ := id hm
    rw [machine_holdStations, ha, hw]
    exact hm.rests
  | releases s =>
    obtain ⟨-, ha, hw⟩ := id hm
    rw [machine_releaseStations, ha, hw]
    exact hm.rests
  | judges s => exact machine_of_stn (judgeStations_stn s) j
  | trans _ _ ih ih' =>
    have hst := ih hm
    exact (ih' (by rwa [hst])).trans hst

/-- R117: a MISSED status stays. -/
theorem Works.missed (h : Works s t) :
    Recasts (fun p q => p = .missed → q = .missed) s.track.roster t.track.roster := by
  have hrefl : ∀ p : Progress, p = .missed → p = .missed := fun _ => id
  induction h with
  | still h => exact (yardView_iff.mp h).1 ▸ Recasts.refl hrefl _
  | evaluates s =>
    refine (evaluate_recasts s).mono fun p q h hp => ?_
    subst hp
    exact h (by simp) (by simp)
  | stops s =>
    rw [stopStations_roster]
    refine map_recasts (R := fun p q => p = .missed → q = .missed) (f := Car.interrupted)
      (fun c => ⟨rfl, fun j hm => ?_⟩) _
    rw [status_interrupted, if_neg (by simp [hm]), hm]
  | holds s => exact Recasts.refl hrefl _
  | releases s => exact Recasts.refl hrefl _
  | judges s =>
    unfold judgeStations
    refine List.foldlRecOn (motive := fun u : State => Recasts (fun p q => p = .missed → q = .missed)
      s.track.roster u.track.roster) stationIxs judgeStation (Recasts.refl hrefl _)
      fun u hu i _ => hu.trans (fun _ _ _ h k => k ∘ h) (map_recasts (f := u.rejudged i)
        (fun c => ?_) _)
    unfold State.rejudged
    split
    · next hc =>
      exact setStatus_recasts (R := fun p q => p = .missed → q = .missed) hrefl
        fun hm => by simp [hc] at hm
    · exact ⟨rfl, fun _ => hrefl _⟩
  | trans _ _ ih ih' => exact ih.trans (fun _ _ _ h k => k ∘ h) ih'

end Sys2Proof.Machine
end

section
/-! # Wash stations: stowed switches and arm timers (R121 to R123, R126, R128, R136) -/

namespace Sys2Proof.Machine

variable {s t u : State} {i j : StationIx} {ch : Channel} {c : Car}

/-! ## The arm of a channel (R114, R121) -/

/-- R114: station j is an enabled ARM station on channel ch. -/
abbrev State.ArmAt (s : State) (ch : Channel) (j : StationIx) : Prop :=
  (s.station j).enabled = true ∧ (s.station j).kind = .arm ∧ (s.station j).channel = ch

/-- The stations are looked through in order of their numbers. -/
theorem find?_stationIxs {p : StationIx → Bool} :
    stationIxs.find? p = some j ↔ p j = true ∧ ∀ k, k < j → ¬ p k = true := by
  have hsorted : stationIxs.Pairwise (· < ·) := by decide
  obtain ⟨l, r, hsplit⟩ := List.append_of_mem (mem_stationIxs j)
  rw [hsplit, List.pairwise_append, List.pairwise_cons] at hsorted
  obtain ⟨-, ⟨hr, -⟩, hl⟩ := hsorted
  have hbelow : ∀ k, k ∈ l ↔ k < j := fun k => by
    refine ⟨fun hk => hl k hk j List.mem_cons_self, fun hlt => ?_⟩
    have hk : k ∈ l ++ j :: r := hsplit ▸ mem_stationIxs k
    rcases List.mem_append.mp hk with hk | hk
    · exact hk
    · rcases List.mem_cons.mp hk with rfl | hk
      · exact absurd hlt (lt_irrefl _)
      · exact absurd (hr k hk) (lt_asymm hlt)
  constructor
  · intro h
    obtain ⟨hp, l', r', hsplit', hnone⟩ := List.find?_eq_some_iff_append.mp h
    refine ⟨hp, fun k hk => ?_⟩
    have hsorted' : stationIxs.Pairwise (· < ·) := by decide
    rw [hsplit', List.pairwise_append, List.pairwise_cons] at hsorted'
    obtain ⟨-, ⟨hr', -⟩, -⟩ := hsorted'
    have hmem : k ∈ l' ++ j :: r' := hsplit' ▸ mem_stationIxs k
    rcases List.mem_append.mp hmem with hmem | hmem
    · simpa using hnone k hmem
    · rcases List.mem_cons.mp hmem with rfl | hmem
      · exact absurd hk (lt_irrefl _)
      · exact absurd (hr' k hmem) (lt_asymm hk)
  · rintro ⟨hp, hnone⟩
    refine List.find?_eq_some_iff_append.mpr ⟨hp, l, r, hsplit, fun k hk => ?_⟩
    simpa using hnone k ((hbelow k).mp hk)

theorem armAt_iff : (s.isArm j && (s.station j).channel == ch) = true ↔ s.ArmAt ch j := by
  simp [State.isArm, and_assoc]

theorem armOf_eq_some :
    s.armOf ch = some j ↔ s.ArmAt ch j ∧ ∀ k, k < j → ¬ s.ArmAt ch k := by
  rw [State.armOf, find?_stationIxs, armAt_iff]
  exact and_congr_right fun _ => forall_congr' fun k => imp_congr_right fun _ => not_congr armAt_iff

theorem armOf_eq_none : s.armOf ch = none ↔ ∀ j, ¬ s.ArmAt ch j := by
  rw [State.armOf, List.find?_eq_none]
  exact ⟨fun h j => mt armAt_iff.mpr (h j (mem_stationIxs j)),
    fun h j _ => mt armAt_iff.mp (h j)⟩

/-! ## Jogs (R135, R136) -/

theorem jogged_iff : s.jogged j = true ↔ ∃ g, s.stn.jog = some g ∧ g.station = j := by
  unfold State.jogged
  cases s.stn.jog <;> simp

theorem endJogOf_machine (j i : StationIx) (s : State) :
    (endJogOf j s).machine i = s.machine i := by
  unfold endJogOf
  split <;> rfl

theorem endJogOf_jog (j : StationIx) (s : State) :
    (endJogOf j s).stn.jog = if s.jogged j then none else s.stn.jog := by
  unfold endJogOf
  split <;> rfl

theorem endJogOf_track (j : StationIx) (s : State) : (endJogOf j s).track = s.track := by
  unfold endJogOf
  split <;> rfl

theorem endJogOf_halt (j : StationIx) (s : State) : (endJogOf j s).halt = s.halt := by
  unfold endJogOf
  split <;> rfl

/-! ## A fault (R128, R136) -/

/-- R128, R136: the arm in FAULT and its jog at an end, before ARM_STUCK is raised. -/
def armFaulted (j : StationIx) (s : State) : State :=
  endJogOf j (setMachine j { s.machine j with
    arm := .fault, advanceTimer := .stopped, withdrawTimer := .stopped } s)

theorem faultArm_eq (j : StationIx) (s : State) :
    faultArm j s = raiseCause .armStuck (.station j) (armFaulted j s) := rfl

theorem machine_armFaulted (j : StationIx) (s : State) : (armFaulted j s).machine j =
    { s.machine j with arm := .fault, advanceTimer := .stopped, withdrawTimer := .stopped } := by
  rw [armFaulted, endJogOf_machine, machine_setMachine_same]

theorem armFaulted_jog (j : StationIx) (s : State) :
    (armFaulted j s).stn.jog = if s.jogged j then none else s.stn.jog := by
  rw [armFaulted, endJogOf_jog]
  rfl

/-- R128, R136: the arm is in FAULT under ARM_STUCK with its timers stopped, and not jogged. -/
structure ArmStuck (j : StationIx) (s t : State) : Prop where
  machine : (t.machine j).Faulted
  stopped : t.halt.state = .stopped
  cause : t.hasCause .armStuck = true
  jog : t.stn.jog = if s.jogged j then none else s.stn.jog

theorem faultArm_works (j : StationIx) (b s : State) :
    Works (armFaulted j s) (drive (settleHalted b (faultArm j s))) := by
  rw [faultArm_eq]
  exact ((raiseCause_works ..).trans (settleHalted_works ..)).trans
    (Evaluates.still (drive_view _)).works

theorem faultArm_stuck (b : State) (hf : s.causesFit) :
    ArmStuck j s (drive (settleHalted b (faultArm j s))) := by
  have hworks := faultArm_works j b s
  have hfaulted : ((armFaulted j s).machine j).Faulted := by
    rw [machine_armFaulted]
    exact ⟨rfl, rfl, rfl⟩
  have hf' : (armFaulted j s).causesFit := causesFit_congr ((endJogOf_halt ..).trans rfl) hf
  have hstop := (settleHalted_keepsStop b (faultArm j s)).driven
  refine ⟨?_, hstop.stopped (raiseCause_stops hf' rfl _),
    hstop.causes _ (raiseCause_causes ..).1, hworks.jog.trans (armFaulted_jog j s)⟩
  rw [hworks.faulted hfaulted]
  exact hfaulted

/-- The same, in the terms of the statement. -/
theorem ArmStuck.faulted (h : ArmStuck j s t) : (t.machine j).arm = .fault ∧
    (t.machine j).advanceTimer = .stopped ∧ (t.machine j).withdrawTimer = .stopped ∧
    t.halt.state = .stopped ∧ t.hasCause .armStuck = true ∧
    (∀ g, s.stn.jog = some g → g.station = j → t.stn.jog = none) ∧
    ((∀ g, s.stn.jog = some g → g.station ≠ j) → t.stn.jog = s.stn.jog) := by
  obtain ⟨⟨harm, hadvance, hwithdraw⟩, hstopped, hcause, hjog⟩ := h
  refine ⟨harm, hadvance, hwithdraw, hstopped, hcause, fun g hg hj => ?_, fun hnone => ?_⟩
  · rw [hjog, if_pos (jogged_iff.mpr ⟨g, hg, hj⟩)]
  · rw [hjog, if_neg fun h => ?_]
    obtain ⟨g, hg, hj⟩ := jogged_iff.mp h
    exact hnone g hg hj

/-! ## The end of ARM_STUCK (R128) -/

theorem anyFault_iff : s.anyFault = true ↔
    ∃ k, s.isArm k = true ∧ (s.machine k).arm = .fault := by
  simp [State.anyFault, mem_stationIxs]

theorem erase_absent {b : Set16} {d : Cause} (h : Set16.has b d.code = false) :
    Set16.erase b d.code = b := by
  refine BitVec.eq_of_getLsbD_eq fun i hi => ?_
  simp only [Set16.erase, BitVec.getLsbD_and, BitVec.getLsbD_not, hi, decide_true, Bool.true_and]
  by_cases hd : i = d.code
  · subst hd
    rw [Set16.has] at h
    rw [h, Bool.false_and]
  · have hsingle : (Set16.single d.code).getLsbD i = false := by
      have hcode : d.code < 16 := by cases d <;> decide
      rw [Set16.single, BitVec.getLsbD_ofNat, Nat.testBit_two_pow_of_ne (Ne.symm hd), Bool.and_false]
    rw [hsingle, Bool.not_false, Bool.and_true]

/-- R139: a cause that clears itself leaves the set, whatever else it brings about. -/
theorem clearCause_causes (d : Cause) (s : State) :
    (clearCause d s).halt.causes = Set16.erase s.halt.causes d.code := by
  refine clearCause_cases (motive := fun t => t.halt.causes = Set16.erase s.halt.causes d.code)
    (fun h => (erase_absent h).symm) (fun _ _ => ?_) fun _ => rfl
  rw [setHalt_halt]
  exact closeEpisode_causes ..

theorem clearCause_absent {d : Cause} (h : s.hasCause d = false) : clearCause d s = s :=
  if_neg (by simp [h])

/-- R139, R142: as the stations take it, a stop lasts when a cause clears itself. -/
theorem clearCause_evaluates {d : Cause} (h : s.stationHalt = .stopped) :
    Evaluates s (clearCause d s) := by
  refine clearCause_cases (motive := Evaluates s) (fun _ => .refl s) (fun hhold _ => ?_)
    fun _ => .still rfl
  have hlock : s.mode = .lockout := by
    by_contra hmode
    rw [stationHalt_of_mode hmode, hhold] at h
    exact absurd h (by decide)
  have hclose := closeEpisode_spares .auto (withoutCause d s)
  have hstopped : ∀ v : State, v.mode = .lockout → v.stationHalt = .stopped :=
    fun v hv => stationHalt_stopped (Or.inr hv)
  have hmode : (closeEpisode .auto (withoutCause d s)).mode = .lockout := hclose.mode.trans hlock
  have htaken : haltTaken .running (closeEpisode .auto (withoutCause d s)) =
      evaluate (demandTaken .running (closeEpisode .auto (withoutCause d s))) := by
    rw [haltTaken, hstopped _ hmode, hstopped (moveHalt .running _) hmode]
    rfl
  refine Evaluates.trans (.still ?_) (setHalt_evaluates htaken)
  obtain ⟨hroster, hstn, hsettings, hinputs⟩ :=
    yardView_iff.mp (closeEpisode_yard .auto (withoutCause d s))
  refine (testDemand_view _).trans (washView_iff.mpr ⟨hroster, hstn, hsettings, hinputs, ?_⟩)
  rw [h, hstopped (moveHalt .running _) hmode]

/-! ## A stowed switch that closes (R126, R128) -/

/-- The machine of an arm at its stop. -/
def StationMachine.atStop (m : StationMachine) : StationMachine :=
  { m with arm := .stowed, advanceTimer := .stopped, withdrawTimer := .stopped }

theorem stowArm_eq (j : StationIx) (s : State) :
    stowArm j s = setMachine j (s.machine j).atStop s := rfl

/-- R128: the part once a faulted arm is at its stop, ARM_STUCK judged. -/
def unstuck (j : StationIx) (s : State) : State := clearStuck (stowArm j s)

/-- R128: another enabled arm is in FAULT. -/
abbrev State.OtherFault (s : State) (j : StationIx) : Prop :=
  ∃ k, k ≠ j ∧ s.isArm k = true ∧ (s.machine k).arm = .fault

theorem anyFault_stowArm : (stowArm j s).anyFault = true ↔ s.OtherFault j := by
  rw [anyFault_iff]
  refine exists_congr fun k => ?_
  have harm : (stowArm j s).isArm k = s.isArm k := rfl
  rw [harm]
  by_cases hk : k = j
  · subst hk
    rw [stowArm_eq, machine_setMachine_same]
    simp [StationMachine.atStop]
  · rw [stowArm_eq, machine_setMachine_other (Ne.symm hk)]
    simp [hk]

theorem unstuck_other (h : s.OtherFault j) : unstuck j s = stowArm j s :=
  if_pos (anyFault_stowArm.mpr h)

theorem unstuck_last (h : ¬ s.OtherFault j) : unstuck j s = clearCause .armStuck (stowArm j s) :=
  if_neg (mt anyFault_stowArm.mp h)

/-- R140: outside a stop ARM_STUCK is not in the set. -/
theorem unstuck_moving (hf : s.causesFit) (h : s.halt.state ≠ .stopped) :
    unstuck j s = stowArm j s := by
  by_cases hother : s.OtherFault j
  · exact unstuck_other hother
  · have habsent : (stowArm j s).hasCause .armStuck = false :=
      Bool.eq_false_iff.mpr fun hc => h (stopped_of_hasCause hf (c := .armStuck) rfl hc)
    rw [unstuck_last hother, clearCause_absent habsent]

theorem unstuck_works (j : StationIx) (s : State) : Works (stowArm j s) (unstuck j s) := by
  by_cases hother : s.OtherFault j
  · rw [unstuck_other hother]
    exact .refl _
  · rw [unstuck_last hother]
    exact clearCause_works ..

theorem unstuck_evaluates (h : s.stationHalt = .stopped) :
    Evaluates (stowArm j s) (unstuck j s) := by
  by_cases hother : s.OtherFault j
  · rw [unstuck_other hother]
    exact .refl _
  · rw [unstuck_last hother]
    exact clearCause_evaluates (s := stowArm j s) h

/-- R128: the part once a faulted arm's switch has closed and the event is at its end. -/
def stopReached (j : StationIx) (s : State) : State :=
  drive (settleDrain s (evaluate (unstuck j s)))

theorem stopReached_evaluates (j : StationIx) (s : State) :
    Evaluates (unstuck j s) (stopReached j s) :=
  ((Evaluates.evaluates _).trans (settleDrain_evaluates ..)).trans (.still (drive_view _))

theorem stopReached_halt (j : StationIx) (s : State) :
    (stopReached j s).halt = (unstuck j s).halt := by
  rw [stopReached, drive_halt, settleDrain, testPark_halt, testDrain_halt, (evaluate_washes _).halt]

theorem machine_stowArm (j : StationIx) (s : State) :
    (stowArm j s).machine j = (s.machine j).atStop := machine_setMachine_same ..

theorem stopReached_noFault (j : StationIx) (s : State) : ((stopReached j s).machine j).arm ≠ .fault :=
  ((unstuck_works j s).trans (stopReached_evaluates j s).works).noFault (by
    rw [machine_stowArm]
    simp [StationMachine.atStop])

theorem stopReached_stopped (h : s.stationHalt = .stopped) :
    (stopReached j s).machine j = (s.machine j).atStop := by
  have hevals := (unstuck_evaluates (j := j) h).trans (stopReached_evaluates j s)
  rw [(hevals.stopped h).1 j, machine_stowArm]

theorem stopReached_holding (hf : s.causesFit) (h : s.halt.state = .holding) :
    (stopReached j s).machine j = (s.machine j).atStop := by
  by_cases hmode : s.mode = .lockout
  · exact stopReached_stopped (stationHalt_stopped (Or.inr hmode))
  · have hevals := stopReached_evaluates j s
    rw [unstuck_moving hf (by simp [h])] at hevals
    have hhold : (stowArm j s).stationHalt = .holding :=
      (stationHalt_of_mode (s := stowArm j s) hmode).trans h
    rw [machine_of_stn (hevals.holding hhold).2, machine_stowArm]

theorem stopReached_atStop (hf : s.causesFit) (hclosed : s.stowedClosed j = true) :
    ((stopReached j s).machine j).arm = .stowed ∨ ((stopReached j s).machine j).arm = .advancing := by
  by_cases h : s.halt.state = .stopped
  · rw [stopReached_stopped (stationHalt_stopped (Or.inl h))]
    exact Or.inl rfl
  · have hevals := stopReached_evaluates j s
    rw [unstuck_moving hf h] at hevals
    exact (hevals.armAtStop ⟨hclosed, Or.inl (by rw [machine_stowArm]; rfl)⟩).2

/-! ## The switches and the timers as commands -/

theorem exec_stowedSwitchOpens (h : s.armOf ch = some j) : exec (.stowedSwitchOpens ch) s =
    done (settleHalted s (armOpens j (setStowed ch false s))) := by
  have hopens : switchOpens ch s = settleHalted s (armOpens j (setStowed ch false s)) := by
    simp only [switchOpens, h]
  exact congrArg done hopens

theorem exec_stowedSwitchCloses (h : s.armOf ch = some j) :
    exec (.stowedSwitchCloses ch) s = done (armCloses j (setStowed ch true s)) := by
  have hcloses : switchCloses ch s = armCloses j (setStowed ch true s) := by
    simp only [switchCloses, h]
  exact congrArg done hcloses

/-- R121: a channel without an arm. -/
theorem exec_stowedSwitch_none (h : s.armOf ch = none) :
    exec (.stowedSwitchOpens ch) s = done (setStowed ch false s) ∧
      exec (.stowedSwitchCloses ch) s = done (setStowed ch true s) := by
  have hopens : switchOpens ch s = setStowed ch false s := by simp only [switchOpens, h]
  have hcloses : switchCloses ch s = setStowed ch true s := by simp only [switchCloses, h]
  exact ⟨congrArg done hopens, congrArg done hcloses⟩

section
variable (h : s.armOf ch = some j)
include h

/-- R122: a STOWED arm whose switch opens is in FAULT. -/
theorem exec_stowedSwitchOpens_stowed (hm : (s.machine j).arm = .stowed) :
    exec (.stowedSwitchOpens ch) s =
      done (settleHalted s (faultArm j (setStowed ch false s))) := by
  have hm' : ((setStowed ch false s).machine j).arm = .stowed := hm
  rw [exec_stowedSwitchOpens h]
  simp only [armOpens, hm']

theorem exec_stowedSwitchOpens_advancing (hm : (s.machine j).arm = .advancing) :
    exec (.stowedSwitchOpens ch) s =
      done (setMachine j { s.machine j with opened := true } (setStowed ch false s)) := by
  have hm' : ((setStowed ch false s).machine j).arm = .advancing := hm
  rw [exec_stowedSwitchOpens h]
  simp only [armOpens, hm']
  exact congrArg done (settleHalted_sameHalt rfl)

theorem exec_stowedSwitchOpens_ignored (hm : (s.machine j).arm = .engaged ∨
    (s.machine j).arm = .withdrawing ∨ (s.machine j).arm = .fault) :
    exec (.stowedSwitchOpens ch) s = done (setStowed ch false s) := by
  have hopens : armOpens j (setStowed ch false s) = setStowed ch false s := by
    have hm' : (setStowed ch false s).machine j = s.machine j := rfl
    unfold armOpens
    rcases hm with hm | hm | hm <;> simp only [hm', hm]
  rw [exec_stowedSwitchOpens h, hopens]
  exact congrArg done (settleHalted_sameHalt rfl)

theorem exec_stowedSwitchCloses_withdrawing (hm : (s.machine j).arm = .withdrawing) :
    exec (.stowedSwitchCloses ch) s = done (settleDrain (setStowed ch true s)
      (evaluate (stowArm j (setStowed ch true s)))) := by
  have hm' : ((setStowed ch true s).machine j).arm = .withdrawing := hm
  rw [exec_stowedSwitchCloses h]
  simp only [armCloses, hm']

theorem exec_stowedSwitchCloses_fault (hm : (s.machine j).arm = .fault) :
    exec (.stowedSwitchCloses ch) s = done (settleDrain (setStowed ch true s)
      (evaluate (unstuck j (setStowed ch true s)))) := by
  have hm' : ((setStowed ch true s).machine j).arm = .fault := hm
  rw [exec_stowedSwitchCloses h]
  simp only [armCloses, hm']
  rfl

theorem exec_stowedSwitchCloses_ignored (hm : (s.machine j).arm = .stowed ∨
    (s.machine j).arm = .advancing ∨ (s.machine j).arm = .engaged) :
    exec (.stowedSwitchCloses ch) s = done (setStowed ch true s) := by
  have hcloses : armCloses j (setStowed ch true s) = setStowed ch true s := by
    have hm' : (setStowed ch true s).machine j = s.machine j := rfl
    unfold armCloses
    rcases hm with hm | hm | hm <;> simp only [hm', hm]
  rw [exec_stowedSwitchCloses h, hcloses]

theorem stowedClosed_setStowed : (setStowed ch true s).stowedClosed j = true := by
  obtain ⟨-, -, rfl⟩ := (armOf_eq_some.mp h).1
  exact vset_getElem_same ..

end

/-- R123: the advance timer expires. -/
theorem exec_advanceTimerExpiry {left : Nat} (hm : (s.machine j).arm = .advancing)
    (htimer : (s.machine j).advanceTimer = .running left) : exec (.advanceTimerExpiry j) s =
      done (if (s.machine j).opened then engageArm j s
        else settleHalted s (faultArm j (markAll j (fun c => c.status j == .active) .missed s))) :=
  congrArg done (if_pos ⟨hm, by rw [htimer]; rfl⟩)

/-- R126: the withdraw timer expires. -/
theorem exec_withdrawTimerExpiry {left : Nat} (hm : (s.machine j).arm = .withdrawing)
    (htimer : (s.machine j).withdrawTimer = .running left) :
    exec (.withdrawTimerExpiry j) s = done (settleHalted s (faultArm j s)) :=
  congrArg done (if_pos ⟨hm, by rw [htimer]; rfl⟩)

/-- R123: the cars served by an arm that has not left its stop are MISSED, to the end of the event. -/
theorem faultArm_misses (b : State) {k : Nat} (hc : s.track.roster[k]? = some c)
    (hactive : c.status j = .active) :
    ∃ d, (drive (settleHalted b (faultArm j (markAll j (fun c => c.status j == .active) .missed
      s)))).track.roster[k]? = some d ∧ d.ticket = c.ticket ∧ d.status j = .missed := by
  have hmarked : (armFaulted j (markAll j (fun c => c.status j == .active) .missed s)).track.roster[k]? =
      some (c.setStatus j .missed) := by
    have hroster : (armFaulted j (markAll j (fun c => c.status j == .active) .missed s)).track.roster =
        s.track.roster.map (fun c => if c.status j == .active then c.setStatus j .missed else c) := by
      rw [armFaulted, endJogOf_track]
      rfl
    rw [hroster, List.getElem?_map, hc]
    simp [hactive]
  obtain ⟨d, hd, hsight, hstatus⟩ := (faultArm_works j b _).missed.get hmarked
  exact ⟨d, hd, ticket_of_sight hsight, hstatus j (status_setStatus_same ..)⟩

/-- Settles O46: each movement is one write of the machine, or a fault, which lasts to the end of the
event; an arm out of FAULT is at its stop until an evaluation in RUNNING sends it out. -/
theorem armsMoveAndFault : Obligations.ArmsMoveAndFault := by
  unfold Obligations.ArmsMoveAndFault
  refine ⟨fun ch s h => exec_stowedSwitch_none h, fun j ch s h => ?_⟩
  intro m u faulted
  refine ⟨fun hm hf => ?_, fun hm => exec_stowedSwitchOpens_advancing h hm,
    fun hm => exec_stowedSwitchOpens_ignored h hm,
    fun hm => exec_stowedSwitchCloses_withdrawing h hm,
    fun hm => exec_stowedSwitchCloses_ignored h hm, fun hm => ?_,
    fun left hm htimer => ⟨fun hopened => ?_, fun hclosed hf => ?_⟩, fun left hm htimer hf => ?_⟩
  · refine ⟨_, exec_stowedSwitchOpens_stowed h hm,
      (faultArm_stuck (s := setStowed ch false s) s hf).faulted, ?_⟩
    have hinputs : (faultArm j (setStowed ch false s)).inputs = (setStowed ch false s).inputs :=
      (faultArm_reacts ..).inputs
    rw [drive_inputs, settleHalted_inputs, hinputs]
    exact vset_getElem_same ..
  · intro stowed v other c
    have hexec := exec_stowedSwitchCloses_fault h hm
    refine ⟨fun hother => ?_, fun hlast => ?_, stopReached j (u true), hexec,
      stopReached_noFault j (u true), fun hstop => ?_, fun hf hhold => ?_, fun hf => ?_,
      fun hother => ?_, fun hlast => ?_⟩
    · rw [unstuck_other (s := setStowed ch true s) hother] at hexec
      exact hexec
    · rw [unstuck_last (s := setStowed ch true s) hlast] at hexec
      exact hexec
    · exact stopReached_stopped (s := u true) (stationHalt_stopped hstop)
    · exact stopReached_holding (s := u true) hf hhold
    · exact stopReached_atStop (s := u true) hf (stowedClosed_setStowed h)
    · rw [stopReached_halt, unstuck_other (s := u true) hother]
      rfl
    · rw [State.hasCause, stopReached_halt, unstuck_last (s := u true) hlast]
      exact ⟨clearCause_causes .., hasCause_clearCause ..⟩
  · rw [exec_advanceTimerExpiry hm htimer, if_pos hopened]
    rfl
  · have hclosed' : (s.machine j).opened = false := hclosed
    refine ⟨_, ?_, (faultArm_stuck (j := j)
      (s := markAll j (fun c => c.status j == .active) .missed s) s hf).faulted,
      fun k c hc hactive => faultArm_misses s hc hactive⟩
    rw [exec_advanceTimerExpiry hm htimer, hclosed']
    rfl
  · exact ⟨_, exec_withdrawTimerExpiry hm htimer, (faultArm_stuck s hf).faulted⟩

end Sys2Proof.Machine
end

section
/-! # Wash stations: current supervision and jogs (R125, R131, R135, R136) -/

namespace Sys2Proof.Machine

variable {s t u : State} {i j : StationIx} {ch : Channel}

/-! ## Supervision (R125, R131) -/

/-- R108: as the stations take it, the tunnel is RUNNING. -/
theorem stationHalt_eq_running :
    s.stationHalt = .running ↔ s.halt.state = .running ∧ s.mode ≠ .lockout := by
  by_cases hmode : s.mode = .lockout
  · simp [stationHalt_stopped (Or.inr hmode), hmode]
  · simp [stationHalt_of_mode hmode, hmode]

theorem supervised_iff : s.supervised j = true ↔
    ((s.machine j).arm = .engaged ∧ s.halt.state = .running ∧ s.mode ≠ .lockout) ∨
      ∃ g, s.stn.jog = some g ∧ g.station = j := by
  simp [State.supervised, stationHalt_eq_running, jogged_iff]

/-! ## A trip (R125, R135) -/

/-- R125, R135: the count back at 0 and a jog of the arm at an end, before ARM_OVERLOAD is raised. -/
def tripped (j : StationIx) (s : State) : State :=
  endJogOf j (setMachine j { s.machine j with trip := 0 } s)

theorem testTrip_due (h : s.tripDue j = true) :
    testTrip j s = raiseCause .armOverload (.station j) (tripped j s) := if_pos h

theorem testTrip_notDue (h : s.tripDue j = false) : testTrip j s = s := if_neg (by simp [h])

theorem tripDue_iff : s.tripDue j = true ↔
    s.supervised j = true ∧ (s.station j).tripCount ≤ (s.machine j).trip := by
  simp [State.tripDue]

/-- R125: the tunnel is stopped by ARM_OVERLOAD, the count is 0 and the arm is not jogged. -/
structure Overloaded (j : StationIx) (s t : State) : Prop where
  stopped : t.halt.state = .stopped
  cause : t.hasCause .armOverload = true
  trip : (t.machine j).trip = 0
  jog : t.stn.jog = if s.jogged j then none else s.stn.jog

/-- A trip lasts to the end of the event. -/
theorem testTrip_overloads (b : State) (hdue : s.tripDue j = true) (hf : s.causesFit) :
    Overloaded j s (drive (settleHalted b (testTrip j s))) := by
  rw [testTrip_due hdue]
  have hworks : Works (tripped j s)
      (drive (settleHalted b (raiseCause .armOverload (.station j) (tripped j s)))) :=
    ((raiseCause_works ..).trans (settleHalted_works ..)).trans
      (Evaluates.still (drive_view _)).works
  have hf' : (tripped j s).causesFit := causesFit_congr ((endJogOf_halt ..).trans rfl) hf
  have hstop := (settleHalted_keepsStop b
    (raiseCause .armOverload (.station j) (tripped j s))).driven
  refine ⟨hstop.stopped (raiseCause_stops hf' rfl _), hstop.causes _ (raiseCause_causes ..).1, ?_, ?_⟩
  · rw [hworks.trip, tripped, endJogOf_machine, machine_setMachine_same]
  · rw [hworks.jog, tripped, endJogOf_jog]
    rfl

/-! ## Samples (R125) -/

/-- The reading of a channel written. -/
def sampled (ch : Channel) (counts : Nat) (s : State) : State :=
  { s with inputs := { s.inputs with motorCurrent := vset s.inputs.motorCurrent ch counts } }

/-- R125: the trip count after a sample. -/
def State.countAfter (s : State) (j : StationIx) (counts : Nat) : Nat :=
  if (s.station j).tripLevel < counts then (s.machine j).trip + 1 else 0

/-- R125: the reading and the trip count written. -/
def counted (j : StationIx) (ch : Channel) (counts : Nat) (s : State) : State :=
  setMachine j { s.machine j with trip := s.countAfter j counts } (sampled ch counts s)

theorem sample_noArm {x : Nat} (h : s.armOf ch = none) : sample ch x s = sampled ch x s := by
  simp only [sample, h]
  rfl

theorem sample_arm {x : Nat} (h : s.armOf ch = some j) : sample ch x s =
    if s.supervised j then settleHalted s (testTrip j (counted j ch x s)) else sampled ch x s := by
  simp only [sample, h]
  rfl

theorem supervised_counted {x : Nat} : (counted j ch x s).supervised j = s.supervised j := by
  simp only [State.supervised, counted, machine_setMachine_same]
  rfl

theorem trip_counted {x : Nat} : ((counted j ch x s).machine j).trip = s.countAfter j x := by
  rw [counted, machine_setMachine_same]

/-- R125: a supervised arm trips when the count after the sample has reached TripCount. -/
theorem tripDue_counted {x : Nat} (h : s.supervised j = true) :
    (counted j ch x s).tripDue j = true ↔ (s.station j).tripCount ≤ s.countAfter j x := by
  rw [tripDue_iff, supervised_counted, trip_counted]
  exact and_iff_right h

theorem exec_sample_counts {x : Fin 1024} (h : s.armOf ch = some j) (hsup : s.supervised j = true)
    (hbelow : s.countAfter j x.val < (s.station j).tripCount) :
    exec (.motorCurrentSample ch x) s = done (counted j ch x.val s) := by
  have hdue : (counted j ch x.val s).tripDue j = false :=
    Bool.eq_false_iff.mpr fun hdue => absurd ((tripDue_counted hsup).mp hdue) (by omega)
  refine congrArg done ?_
  rw [sample_arm h, if_pos hsup, testTrip_notDue hdue]
  exact settleHalted_sameHalt rfl

theorem exec_sample_trips {x : Fin 1024} (h : s.armOf ch = some j) (hsup : s.supervised j = true)
    (hreached : (s.station j).tripCount ≤ s.countAfter j x.val) (hf : s.causesFit) :
    ∃ t, exec (.motorCurrentSample ch x) s = .next t ∧ Overloaded j s t := by
  have hover := testTrip_overloads (s := counted j ch x.val s) s
    ((tripDue_counted hsup).mpr hreached) hf
  refine ⟨drive (settleHalted s (testTrip j (counted j ch x.val s))), ?_, hover.stopped, hover.cause,
    hover.trip, hover.jog⟩
  refine congrArg done ?_
  rw [sample_arm h, if_pos hsup]

theorem exec_sample_unsupervised {x : Fin 1024} (h : s.armOf ch = some j)
    (hsup : ¬ s.supervised j = true) :
    exec (.motorCurrentSample ch x) s = done (sampled ch x.val s) := by
  refine congrArg done ?_
  rw [sample_arm h, if_neg hsup]

/-! ## JOG (R135) -/

theorem parseJog_eq_none {b : List Byte}
    (h : 23 < byteAt b 0 ∨ byteAt b 1 < 1 ∨ 10 < byteAt b 1) : parseJog b = none := by
  unfold parseJog
  cases hj : fin? 24 (byteAt b 0) with
  | none => rfl
  | some j =>
    have hlt : byteAt b 0 < 24 := fin?_eq_some.mp hj ▸ j.isLt
    have hrange : inRange 1 10 (byteAt b 1) = false :=
      Bool.eq_false_iff.mpr fun hrange => absurd (inRange_iff.mp hrange) (by omega)
    simp [hrange]

/-- A JOG body in range names its station and its time. -/
theorem parseJog_body {secs : Nat} (hlo : 1 ≤ secs) (hhi : secs ≤ 10) :
    parseJog (u8 j.val ++ u8 secs) = some (j, secs) := by
  have hj : byteAt (u8 j.val ++ u8 secs) 0 = j.val := byteAt_u8 (by omega) _
  have hsecs : byteAt (u8 j.val ++ u8 secs) 1 = secs := byteAt_u8 (n := secs) (by omega) []
  simp [parseJog, hj, hsecs, inRange_iff.mpr ⟨hlo, hhi⟩]

theorem joggable_iff : s.joggable j = true ↔ (s.station j).enabled = true ∧
    ((s.station j).kind = .switched ∨ (s.machine j).arm = .stowed) := by
  simp [State.joggable]

section
variable {b : List Byte} {secs : Nat} (h : parseJog b = some (j, secs))
include h

theorem jogRequest_moving (hno : s.halt.state ≠ .stopped ∨ s.inputs.chainClosed = false) :
    jogRequest b s = (refuse .wrongState, s) := by
  simp only [jogRequest, h]
  exact if_pos hno

theorem jogRequest_busy (hstop : s.halt.state = .stopped) (hchain : s.inputs.chainClosed = true)
    (hjog : s.stn.jog ≠ none) : jogRequest b s = (refuse .busy, s) := by
  simp only [jogRequest, h]
  rw [if_neg (by simp [hstop, hchain]), if_pos (Option.isSome_iff_ne_none.mpr hjog)]

theorem jogRequest_notReady (hstop : s.halt.state = .stopped) (hchain : s.inputs.chainClosed = true)
    (hjog : s.stn.jog = none) (hready : ¬ s.joggable j = true) :
    jogRequest b s = (refuse .wrongState, s) := by
  simp only [jogRequest, h]
  rw [if_neg (by simp [hstop, hchain]), if_neg (by simp [hjog]), if_pos (by simpa using hready)]

theorem jogRequest_starts (hstop : s.halt.state = .stopped) (hchain : s.inputs.chainClosed = true)
    (hjog : s.stn.jog = none) (hready : s.joggable j = true) : jogRequest b s =
      (okWith [], { s with stn := { s.stn with jog := some ⟨j, .running (secs * 100000)⟩ } }) := by
  simp only [jogRequest, h]
  rw [if_neg (by simp [hstop, hchain]), if_neg (by simp [hjog]), if_neg (by simp [hready])]
  rfl

end

/-! ## JOG STOP and the jog timer (R136) -/

theorem jogStopRequest_none (h : s.stn.jog = none) : jogStopRequest s = (refuse .notFound, s) := by
  simp only [jogStopRequest, h]

theorem jogStopRequest_some {g : Jog} (h : s.stn.jog = some g) :
    jogStopRequest s = (okWith (u8 g.station.val), endJog s) := by
  simp only [jogStopRequest, h]

theorem jogExpiry_none (h : s.stn.jog = none) : jogExpiry s = s := by
  simp only [jogExpiry, h]

theorem jogExpiry_running {g : Jog} {left : Nat} (h : s.stn.jog = some g)
    (htimer : g.timer = .running left) : jogExpiry s = endJog s := by
  simp only [jogExpiry, h, htimer]
  rfl

/-- Settles O47: a sample changes the count, or trips the arm under ARM_OVERLOAD, which lasts to the
end of the event; JOG and JOG STOP are read off their bodies and the running jog. -/
theorem tripsAndJogs : Obligations.TripsAndJogs := by
  unfold Obligations.TripsAndJogs
  intro jogs supervised armAt
  refine ⟨fun j ch s => armOf_eq_some, fun j ch x s hat hfirst => ?_, fun ch x s hnone => ?_,
    fun j s => ⟨fun hsup hf hreached => ?_, fun hno => ?_⟩, fun tag s ht hmode => ?_,
    fun g left s hg htimer => congrArg done (jogExpiry_running hg htimer),
    fun s hnone => congrArg done (jogExpiry_none hnone)⟩
  · have harm : s.armOf ch = some j := armOf_eq_some.mpr ⟨hat, hfirst⟩
    refine ⟨fun hsup => exec_sample_unsupervised harm (mt supervised_iff.mp hsup),
      fun hsup hbelow => exec_sample_counts harm (supervised_iff.mpr hsup) hbelow,
      fun hsup hreached hf => ?_⟩
    obtain ⟨t, hexec, hstopped, hcause, htrip, hjog⟩ :=
      exec_sample_trips harm (supervised_iff.mpr hsup) hreached hf
    refine ⟨t, hexec, hstopped, hcause, htrip, fun hjogs => ?_, fun hjogs => ?_⟩
    · rw [hjog, if_pos (jogged_iff.mpr hjogs)]
    · rw [hjog, if_neg (mt jogged_iff.mp hjogs)]
  · exact congrArg done (sample_noArm (armOf_eq_none.mpr hnone))
  · have hover := testTrip_overloads s (tripDue_iff.mpr ⟨supervised_iff.mpr hsup, hreached⟩) hf
    exact ⟨_, rfl, hover.stopped, hover.cause, hover.trip⟩
  · have hdue : s.tripDue j = false := Bool.eq_false_iff.mpr fun hdue => by
      obtain ⟨hsup, hreached⟩ := tripDue_iff.mp hdue
      exact hno.elim (absurd (supervised_iff.mp hsup)) (by omega)
    refine congrArg done ?_
    rw [testTrip_notDue hdue, settleHalted_sameHalt rfl]
  · intro no
    have hrefuse : ∀ {b : List Byte} {st : Status}, b.length = 2 →
        jogRequest b (hunt .console s) = (refuse st, hunt .console s) → no b st :=
      fun hlen hserved => request_refused (k := .jog) ht rfl
        (by simp [RequestKind.lengthOk, hlen]) (Or.inl hmode) hserved
    refine ⟨fun b hlen hrange => hrefuse hlen ?_, fun j secs hlo hhi => ?_, fun hnone => ?_,
      fun g hg => ?_⟩
    · simp only [jogRequest, parseJog_eq_none hrange]
    · intro b ready
      have hparse : parseJog b = some (j, secs) := parseJog_body hlo hhi
      refine ⟨fun hmoving => hrefuse rfl (jogRequest_moving hparse hmoving), fun hstop hchain =>
        ⟨fun hjog => hrefuse rfl (jogRequest_busy hparse hstop hchain hjog),
          fun hjog hready => hrefuse rfl (jogRequest_notReady hparse hstop hchain hjog
            (mt joggable_iff.mp hready)), fun hjog hready => ?_⟩⟩
      exact request_ok (k := .jog) ht rfl rfl (Or.inl hmode)
        (jogRequest_starts (s := hunt .console s) hparse hstop hchain hjog
          (joggable_iff.mpr hready))
    · exact request_refused (k := .jogStop) ht rfl rfl (Or.inl hmode)
        (jogStopRequest_none (s := hunt .console s) hnone)
    · exact request_ok (k := .jogStop) ht rfl rfl (Or.inl hmode)
        (jogStopRequest_some (s := hunt .console s) hg)

end Sys2Proof.Machine
end

section
/-! # Wash stations: SET STATION (R114, R121, R128) -/

namespace Sys2Proof.Machine

variable {s t u : State} {i j : StationIx} {st : StationCfg} {b : List Byte}

/-! ## The body (R113, R114 step 2) -/

/-- R113: the ranges of the fields that a body can overstep. -/
structure StationCfg.FieldsFit (st : StationCfg) : Prop where
  offset : st.offset ≤ 8000
  pre : st.pre < 256
  post : st.post < 256
  latency : st.latency ≤ 2000
  leadMax : st.leadMax < 256
  advanceTime : 100 ≤ st.advanceTime ∧ st.advanceTime ≤ 3000
  withdrawTimeout : 500 ≤ st.withdrawTimeout ∧ st.withdrawTimeout ≤ 5000
  tripLevel : st.tripLevel ≤ 1023
  tripCount : 1 ≤ st.tripCount ∧ st.tripCount ≤ 50

/-- R114 step 2: what is left to judge once each field fits. -/
theorem valid_iff (h : st.FieldsFit) {x : Nat} : st.valid x = true ↔
    st.offset + st.post ≤ x ∧ (st.kind = .arm → st.firstLine ≠ st.secondLine) := by
  have hkind : st.kind = .switched ↔ ¬ st.kind = .arm := by cases st.kind <;> simp
  simp [StationCfg.valid, inRange_iff.mpr h.advanceTime, inRange_iff.mpr h.withdrawTimeout,
    inRange_iff.mpr h.tripCount, h.offset, h.latency, h.tripLevel, hkind, imp_iff_not_or]

theorem ofCode_number (k : StationKind) : StationKind.ofCode k.number = some k := by
  cases k <;> rfl

theorem ofCode_le {n : Nat} {k : StationKind} (h : StationKind.ofCode n = some k) : n ≤ 1 := by
  match n, h with
  | 0, _ => decide
  | 1, _ => decide

theorem fin?_byte {n : Nat} (hn : n ≤ 256) (k : Fin n) : fin? n (k.val % 256) = some k := by
  rw [Nat.mod_eq_of_lt (by omega), fin?_val]

theorem exclusionsAt_bits (x y : Bool) (l : List Byte) :
    exclusionsAt (BitVec.ofNat 8 (bitAt x 0 + bitAt y 1) :: l) 0 = some (x, y) := by
  cases x <;> cases y <;> simp [exclusionsAt, bitAt]

theorem exclusionsAt_cons_succ (x : Byte) (l : List Byte) (n : Nat) :
    exclusionsAt (x :: l) (n + 1) = exclusionsAt l n := rfl

theorem number_lt (k : StationKind) : k.number < 256 := by cases k <;> decide

theorem stationBody_length (j : StationIx) (st : StationCfg) : (stationBody j st).length = 22 := by
  simp [stationBody, u8, u16, flagByte]

/-- A SET STATION body is read back. -/
theorem parseStation_body (h : st.FieldsFit) (x : Nat) : parseStation (stationBody j st) x =
    if st.valid x then some (j, st) else none := by
  obtain ⟨hoffset, hpre, hpost, hlatency, hlead, ⟨-, hadvance⟩, ⟨-, hwithdraw⟩, hlevel, -, hcount⟩ :=
    id h
  have hkind := number_lt st.kind
  simp [parseStation, stationBody, u8, u16, flagByte, exclusionsAt_cons_succ, exclusionsAt_bits,
    ofCode_number, fin?_byte, Nat.mod_eq_of_lt, wordAt_pair (n := st.offset) (by omega),
    wordAt_pair (n := st.latency) (by omega), wordAt_pair (n := st.advanceTime) (by omega),
    wordAt_pair (n := st.withdrawTimeout) (by omega), wordAt_pair (n := st.tripLevel) (by omega),
    Nat.mod_eq_of_lt (a := st.tripCount) (b := 256) (by omega), hpre, hpost, hlead, hkind]

/-- A body that is taken holds each field in its range. -/
theorem parseStation_ranges {x : Nat} {r : StationIx × StationCfg} (h : parseStation b x = some r) :
    byteAt b 0 ≤ 23 ∧ byteAt b 1 ≤ 1 ∧ byteAt b 2 ≤ 1 ∧ byteAt b 10 ≤ 15 ∧ byteAt b 11 ≤ 3 ∧
      byteAt b 12 ≤ 39 ∧ byteAt b 13 ≤ 39 ∧ byteAt b 14 ≤ 7 ∧ wordAt b 3 ≤ 8000 ∧
      wordAt b 7 ≤ 2000 ∧ (100 ≤ wordAt b 15 ∧ wordAt b 15 ≤ 3000) ∧
      (500 ≤ wordAt b 17 ∧ wordAt b 17 ≤ 5000) ∧ wordAt b 19 ≤ 1023 ∧
      1 ≤ byteAt b 21 ∧ byteAt b 21 ≤ 50 := by
  simp only [parseStation, Option.bind_eq_bind, Option.bind_eq_some_iff] at h
  obtain ⟨j, hj, en, hen, kind, hkind, feature, hfeature, excl, hexcl, first, hfirst, second,
    hsecond, channel, hchannel, hvalid⟩ := h
  have hen' : byteAt b 1 ≤ 1 := by
    by_contra hover
    rw [flagAt_eq_none (by omega)] at hen
    exact absurd hen nofun
  have hkind' : byteAt b 2 ≤ 1 := ofCode_le hkind
  have hexcl' : byteAt b 11 < 4 := by
    by_contra hover
    rw [exclusionsAt, if_neg hover] at hexcl
    exact absurd hexcl nofun
  obtain ⟨hv, -⟩ := Option.ite_none_right_eq_some.mp hvalid
  simp only [StationCfg.valid, Bool.and_eq_true, decide_eq_true_iff, inRange_iff] at hv
  rw [fin?_eq_some] at hj hfeature hfirst hsecond hchannel
  omega

/-! ## The order of the refusals (R114) -/

theorem drives_eq (st : StationCfg) :
    st.drives = if st.kind = .arm then [st.firstLine, st.secondLine] else [st.firstLine] := by
  unfold StationCfg.drives
  cases st.kind <;> rfl

/-- R114: the lines of a station, in the terms of the statement. -/
abbrev StationCfg.lines (st : StationCfg) : List Line :=
  if st.kind = .arm then [st.firstLine, st.secondLine] else [st.firstLine]

/-- R114 step 3: another enabled station drives one of the lines, or an arm on the channel. -/
abbrev State.ClashAt (s : State) (j : StationIx) (st : StationCfg) : Prop :=
  st.enabled = true ∧ ∃ k, k ≠ j ∧ (s.station k).enabled = true ∧
    ((∃ l, l ∈ st.lines ∧ l ∈ (s.station k).lines) ∨
      (st.kind = .arm ∧ (s.station k).kind = .arm ∧ st.channel = (s.station k).channel))

theorem clash_iff : stationIxs.any (fun k => k != j && st.clashes (s.station k)) = true ↔
    s.ClashAt j st := by
  simp only [List.any_eq_true, StationCfg.clashes, Bool.and_eq_true, Bool.or_eq_true, bne_iff_ne,
    beq_iff_eq, List.contains_iff_mem, and_assoc, mem_stationIxs, true_and, drives_eq]
  exact ⟨fun ⟨k, hk, hen, hrest⟩ => ⟨hen, k, hk, hrest⟩,
    fun ⟨hen, k, hk, hrest⟩ => ⟨k, hk, hen, hrest⟩⟩

/-- R114 step 4: the station is jogged, or a save is in progress. -/
abbrev State.BusyAt (s : State) (j : StationIx) : Prop :=
  (∃ g, s.stn.jog = some g ∧ g.station = j) ∨ s.store.save ≠ none

theorem busyAt_iff : (s.jogged j || s.saving) = true ↔ s.BusyAt j := by
  rw [Bool.or_eq_true, jogged_iff, State.saving, Option.isSome_iff_ne_none]

theorem setStationRequest_wrongState (h : s.mode = .openMode ∨ s.mode = .draining) :
    setStationRequest b s = (refuse .wrongState, s) :=
  if_pos (by rcases h with h | h <;> simp [State.settable, h])

section
variable (hmode : s.settable = true)
include hmode

theorem setStationRequest_outOfRange (h : parseStation b s.settings.geometry.exitPos = none) :
    setStationRequest b s = (refuse .outOfRange, s) := by
  rw [setStationRequest, if_neg (by simp [hmode])]
  simp only [h]

variable (h : parseStation b s.settings.geometry.exitPos = some (j, st))
include h

theorem setStationRequest_inRange : setStationRequest b s =
    if stationIxs.any (fun k => k != j && st.clashes (s.station k)) then (refuse .overlap, s)
    else if s.jogged j || s.saving then (refuse .busy, s)
    else (okWith [], settleHalted s (writeStation j st s)) := by
  rw [setStationRequest, if_neg (by simp [hmode])]
  simp only [h]

theorem setStationRequest_overlap (hclash : s.ClashAt j st) :
    setStationRequest b s = (refuse .overlap, s) := by
  rw [setStationRequest_inRange hmode h, if_pos (clash_iff.mpr hclash)]

variable (hfree : ¬ s.ClashAt j st)
include hfree

theorem setStationRequest_busy (hbusy : s.BusyAt j) :
    setStationRequest b s = (refuse .busy, s) := by
  rw [setStationRequest_inRange hmode h, if_neg (mt clash_iff.mp hfree), if_pos (busyAt_iff.mpr hbusy)]

theorem setStationRequest_writes (hidle : ¬ s.BusyAt j) :
    setStationRequest b s = (okWith [], settleHalted s (writeStation j st s)) := by
  rw [setStationRequest_inRange hmode h, if_neg (mt clash_iff.mp hfree),
    if_neg (mt busyAt_iff.mp hidle)]

end

/-! ## The write (R114, R121) -/

/-- R114: the fields of the station written. -/
def withStation (j : StationIx) (st : StationCfg) (s : State) : State :=
  { s with settings := { s.settings with stations := vset s.settings.stations j st } }

theorem station_withStation_same : (withStation j st s).station j = st := vset_getElem_same ..

theorem station_withStation_other (h : j ≠ i) : (withStation j st s).station i = s.station i :=
  (vset_get ..).trans (if_neg h)

/-- R121: the fields written, and the machine written. -/
def restarted (j : StationIx) (st : StationCfg) (m : StationMachine) (s : State) : State :=
  setMachine j m (withStation j st s)

/-- R114, R121: a switched or disabled station, or an arm at its stop. -/
abbrev State.StartsStowed (s : State) (st : StationCfg) : Prop :=
  st.enabled = false ∨ st.kind = .switched ∨ s.inputs.stowed[st.channel] = true

theorem isArm_withStation : (withStation j st s).isArm j = (st.enabled && st.kind == .arm) := by
  rw [State.isArm, station_withStation_same]

theorem stowedClosed_withStation :
    (withStation j st s).stowedClosed j = s.inputs.stowed[st.channel] := by
  simp only [State.stowedClosed, station_withStation_same]
  rfl

theorem startMachine_stowed (h : s.StartsStowed st) : startMachine j (withStation j st s) =
    restarted j st StationMachine.start s := by
  rw [startMachine, isArm_withStation, stowedClosed_withStation]
  by_cases harm : (st.enabled && st.kind == .arm) = true
  · have hclosed : s.inputs.stowed[st.channel] = true := by
      rcases h with h | h | h
      · simp [h] at harm
      · simp [h] at harm
      · exact h
    rw [if_pos harm, hclosed]
    rfl
  · rw [if_neg harm]
    rfl

theorem startMachine_open (hen : st.enabled = true) (harm : st.kind = .arm)
    (hopen : s.inputs.stowed[st.channel] = false) : startMachine j (withStation j st s) =
      raiseCause .armStuck (.station j)
        (restarted j st (StationMachine.ofSwitch false) s) := by
  rw [startMachine, isArm_withStation, stowedClosed_withStation, hopen, if_pos (by simp [hen, harm])]
  rfl

/-- R128: station j is an enabled arm in FAULT. -/
abbrev State.FaultAt (s : State) (j : StationIx) : Prop :=
  (s.station j).enabled = true ∧ (s.station j).kind = .arm ∧ (s.machine j).arm = .fault

theorem faultAt_iff : (s.isArm j && (s.machine j).arm == .fault) = true ↔ s.FaultAt j := by
  simp [State.isArm, and_assoc]

theorem otherFault_iff : s.OtherFault j ↔ ∃ k, k ≠ j ∧ s.FaultAt k := by
  refine exists_congr fun k => and_congr_right fun _ => ?_
  simp [State.isArm, and_assoc]

theorem writeStation_eq : writeStation j st s = if s.FaultAt j then
    clearStuck (startMachine j (withStation j st s)) else startMachine j (withStation j st s) :=
  if_congr faultAt_iff rfl rfl

theorem startMachine_outer (j : StationIx) (s : State) : outer (startMachine j s) = outer s := by
  unfold startMachine
  split
  · dsimp only
    split
    · rfl
    · exact raiseCause_outer ..
  · rfl

theorem clearStuck_outer (s : State) : outer (clearStuck s) = outer s := by
  unfold clearStuck
  split
  · rfl
  · exact clearCause_outer ..

/-- R114: of the settings, the station alone changes. -/
theorem writeStation_settings (b : State) :
    (settleHalted b (writeStation j st s)).settings = (withStation j st s).settings := by
  have hstart : outer (startMachine j (withStation j st s)) = outer (withStation j st s) :=
    startMachine_outer ..
  have hwrite : outer (writeStation j st s) = outer (withStation j st s) := by
    rw [writeStation_eq]
    split
    · exact (clearStuck_outer _).trans hstart
    · exact hstart
  exact congrArg (fun x => x.2.1) ((reacts_outer (settleHalted_reacts b _)).trans hwrite)

/-! ### An arm at its stop -/

/-- R128: the machine written is not in FAULT, so what is left is that of the other stations. -/
theorem anyFault_restarted : (restarted j st StationMachine.start s).anyFault = true ↔
    s.OtherFault j := by
  rw [anyFault_iff]
  refine exists_congr fun k => ?_
  by_cases hk : k = j
  · subst hk
    rw [restarted, machine_setMachine_same]
    simp [StationMachine.start]
  · have harm : (restarted j st StationMachine.start s).isArm k = s.isArm k := by
      simp only [State.isArm]
      rw [← station_withStation_other (s := s) (st := st) (Ne.symm hk)]
      rfl
    rw [harm, restarted, machine_setMachine_other (Ne.symm hk)]
    simp only [hk, ne_eq, not_false_eq_true, true_and]
    rfl

/-- R140: ARM_STUCK stops the tunnel, and its end does not start it. -/
theorem clearCause_ofStop (hf : s.causesFit) {d : Cause} (hstop : d.isStop = true) :
    clearCause d s = withoutCause d s := by
  cases hcause : s.hasCause d with
  | false =>
    rw [clearCause_absent hcause]
    exact congrArg (fun x => { s with halt := { s.halt with causes := x } })
      (erase_absent hcause).symm
  | true =>
    have hstopped : s.halt.state = .stopped := stopped_of_hasCause hf hstop hcause
    refine (if_pos hcause).trans (if_neg fun hhold => ?_)
    exact absurd (hstopped.symm.trans hhold.1) (by decide)

section
variable (h : s.StartsStowed st)
include h

/-- R128: it took the last arm out of FAULT. -/
theorem writeStation_last (hf : s.causesFit) (hfault : s.FaultAt j) (hother : ¬ s.OtherFault j) :
    writeStation j st s = withoutCause .armStuck (restarted j st StationMachine.start s) := by
  rw [writeStation_eq, if_pos hfault, startMachine_stowed h, clearStuck,
    if_neg (mt anyFault_restarted.mp hother)]
  exact clearCause_ofStop (s := restarted j st StationMachine.start s) hf rfl

theorem writeStation_notLast (hno : ¬ s.FaultAt j ∨ s.OtherFault j) :
    writeStation j st s = restarted j st StationMachine.start s := by
  rw [writeStation_eq, startMachine_stowed h]
  by_cases hfault : s.FaultAt j
  · rw [if_pos hfault, clearStuck,
      if_pos (anyFault_restarted.mpr (hno.resolve_left (not_not_intro hfault)))]
  · rw [if_neg hfault]

/-- R121: the record is the same either way, but for the causes. -/
theorem writeStation_stowed (hf : s.causesFit) :
    (writeStation j st s).machine j = StationMachine.start ∧
      (writeStation j st s).halt.state = s.halt.state := by
  have hmachine : (restarted j st StationMachine.start s).machine j = StationMachine.start :=
    machine_setMachine_same ..
  by_cases hlast : s.FaultAt j ∧ ¬ s.OtherFault j
  · rw [writeStation_last h hf hlast.1 hlast.2]
    exact ⟨hmachine, rfl⟩
  · rw [writeStation_notLast h (by tauto)]
    exact ⟨hmachine, rfl⟩

end

/-! ### An arm away from its stop -/

theorem machine_restarted_open (j : StationIx) (st : StationCfg) (s : State) :
    (restarted j st (StationMachine.ofSwitch false) s).machine j = StationMachine.ofSwitch false ∧
      ((restarted j st (StationMachine.ofSwitch false) s).machine j).Faulted := by
  rw [restarted, machine_setMachine_same]
  exact ⟨rfl, rfl, rfl, rfl⟩

theorem raiseCause_settings (c : Cause) (subj : Subject) (s : State) :
    (raiseCause c subj s).settings = s.settings :=
  congrArg (fun x => x.2.1) (raiseCause_outer c subj s)

section
variable (hen : st.enabled = true) (harm : st.kind = .arm)
  (hopen : s.inputs.stowed[st.channel] = false)
include hen harm hopen

theorem writeStation_open : writeStation j st s = raiseCause .armStuck (.station j)
    (restarted j st (StationMachine.ofSwitch false) s) := by
  rw [writeStation_eq, startMachine_open hen harm hopen]
  split
  · refine if_pos (anyFault_iff.mpr ⟨j, ?_, ?_⟩)
    · have hset : ∀ t : State, t.settings = (withStation j st s).settings → t.isArm j = true := by
        intro t ht
        have hj : t.isArm j = (withStation j st s).isArm j := by
          simp only [State.isArm, State.station, ht]
        rw [hj, isArm_withStation, hen, harm]
        rfl
      exact hset _ (raiseCause_settings ..)
    · rw [(raiseCause_works ..).faulted (machine_restarted_open j st s).2,
        (machine_restarted_open j st s).1]
      rfl
  · rfl

/-- R121: what is then so to the end of the event. -/
theorem settled_open (b : State) (hf : s.causesFit) :
    (settleHalted b (writeStation j st s)).machine j = StationMachine.ofSwitch false ∧
      (settleHalted b (writeStation j st s)).halt.state = .stopped ∧
      (settleHalted b (writeStation j st s)).hasCause .armStuck = true := by
  rw [writeStation_open hen harm hopen]
  obtain ⟨hmachine, hfaulted⟩ := machine_restarted_open j st s
  have hworks := (raiseCause_works .armStuck (.station j)
    (restarted j st (StationMachine.ofSwitch false) s)).trans (settleHalted_works b _)
  have hkeeps := settleHalted_keepsStop b (raiseCause .armStuck (.station j)
    (restarted j st (StationMachine.ofSwitch false) s))
  exact ⟨(hworks.faulted hfaulted).trans hmachine,
    hkeeps.stopped (raiseCause_stops (s := restarted j st (StationMachine.ofSwitch false) s) hf rfl _),
    hkeeps.causes _ (raiseCause_causes ..).1⟩

end

/-! ## The command -/

theorem station_of_settings (h : t.settings = (withStation j st s).settings) :
    t.station j = st ∧ ∀ k, k ≠ j → t.station k = s.station k := by
  have hstation : ∀ k, t.station k = (withStation j st s).station k := fun k => by
    simp only [State.station, h]
  exact ⟨(hstation j).trans station_withStation_same,
    fun k hk => (hstation k).trans (station_withStation_other (Ne.symm hk))⟩

/-- R128: ARM_STUCK after a write that starts the machine STOWED. -/
theorem writeStation_stuck (h : s.StartsStowed st) (hf : s.causesFit) :
    (s.FaultAt j → (∀ k, k ≠ j → ¬ s.FaultAt k) →
      (writeStation j st s).hasCause .armStuck = false) ∧
    ((¬ s.FaultAt j ∨ ∃ k, k ≠ j ∧ s.FaultAt k) →
      (writeStation j st s).hasCause .armStuck = s.hasCause .armStuck) := by
  refine ⟨fun hfault hlast => ?_, fun hno => ?_⟩
  · have hother : ¬ s.OtherFault j := fun hother => by
      obtain ⟨k, hk, hfaultK⟩ := otherFault_iff.mp hother
      exact hlast k hk hfaultK
    rw [writeStation_last h hf hfault hother]
    exact has_erase s.halt.causes .armStuck
  · rw [writeStation_notLast h (hno.imp_right otherFault_iff.mpr)]
    rfl

theorem notLockout_of_settable (h : s.mode = .setup ∨ s.mode = .closed) : s.mode ≠ .lockout := by
  rcases h with h | h <;> simp [h]

section
variable {tag : Byte} (ht : s.takes .site)
include ht

theorem exec_setStation_refused {x : Status} (hlen : b.length = 22) (hmode : s.mode ≠ .lockout)
    (hserved : setStationRequest b (hunt .site s) = (refuse x, hunt .site s)) :
    exec (.setStation .site tag b) s = answered .site 0x46 tag x [] (hunt .site s) :=
  request_refused (k := .setStation) ht rfl (congrArg (fun n => RequestKind.setStation.lengthOk n) hlen)
    (Or.inl hmode) hserved

/-- R114 step 2: a byte outside its range. -/
theorem exec_setStation_outOfRange (hlen : b.length = 22) (hmode : s.mode = .setup ∨ s.mode = .closed)
    (hrange : 23 < byteAt b 0 ∨ 1 < byteAt b 1 ∨ 1 < byteAt b 2 ∨ 8000 < wordAt b 3 ∨
      2000 < wordAt b 7 ∨ 15 < byteAt b 10 ∨ 3 < byteAt b 11 ∨ 39 < byteAt b 12 ∨
      39 < byteAt b 13 ∨ 7 < byteAt b 14 ∨ wordAt b 15 < 100 ∨ 3000 < wordAt b 15 ∨
      wordAt b 17 < 500 ∨ 5000 < wordAt b 17 ∨ 1023 < wordAt b 19 ∨ byteAt b 21 < 1 ∨
      50 < byteAt b 21) :
    exec (.setStation .site tag b) s = answered .site 0x46 tag .outOfRange [] (hunt .site s) := by
  refine exec_setStation_refused ht hlen (notLockout_of_settable hmode)
    (setStationRequest_outOfRange (s := hunt .site s) (settable_iff.mpr hmode) ?_)
  refine Option.eq_none_iff_forall_ne_some.mpr fun r hr => ?_
  have hranges := parseStation_ranges hr
  omega

/-- R114: the part once a station is written. -/
def stationWritten (tag : Byte) (j : StationIx) (st : StationCfg) (s : State) : State :=
  drive (setRequest .site (.replying ⟨0xC6, tag, u8 0⟩)
    (settleHalted (hunt .site s) (writeStation j st (hunt .site s))))

omit ht in
theorem stationWritten_records (tag : Byte) (j : StationIx) (st : StationCfg) (s : State) :
    ((stationWritten tag j st s).port .site).request = .replying ⟨0xC6, tag, u8 0⟩ ∧
      (stationWritten tag j st s).station j = st ∧
      ∀ k, k ≠ j → (stationWritten tag j st s).station k = s.station k :=
  ⟨request_replied .., station_of_settings
    (writeStation_settings (j := j) (st := st) (s := hunt .site s) (hunt .site s))⟩

theorem exec_setStation_writes (hmode : s.mode ≠ .lockout)
    (hserved : setStationRequest (stationBody j st) (hunt .site s) =
      (okWith [], settleHalted (hunt .site s) (writeStation j st (hunt .site s)))) :
    exec (.setStation .site tag (stationBody j st)) s = .next (stationWritten tag j st s) :=
  request_ok (k := .setStation) (tag := tag) ht rfl
    (congrArg (fun n => RequestKind.setStation.lengthOk n) (stationBody_length j st))
    (Or.inl hmode) hserved

end

/-- R121, R128: a machine that starts STOWED, and ARM_STUCK then. -/
theorem stationWritten_stowed (tag : Byte) (h : s.StartsStowed st) (hf : s.causesFit) :
    (stationWritten tag j st s).machine j = StationMachine.start ∧
      (s.FaultAt j → (∀ k, k ≠ j → ¬ s.FaultAt k) →
        (stationWritten tag j st s).hasCause .armStuck = false) ∧
      ((¬ s.FaultAt j ∨ ∃ k, k ≠ j ∧ s.FaultAt k) →
        (stationWritten tag j st s).hasCause .armStuck = s.hasCause .armStuck) := by
  obtain ⟨hmachine, hhalt⟩ := writeStation_stowed (j := j) (s := hunt .site s) h hf
  rw [stationWritten, settleHalted_sameHalt hhalt, hasCause_replied]
  exact ⟨hmachine, writeStation_stuck (s := hunt .site s) h hf⟩

/-- R121: a machine that starts in FAULT. -/
theorem stationWritten_open (tag : Byte) (hen : st.enabled = true) (harm : st.kind = .arm)
    (hopen : s.inputs.stowed[st.channel] = false) (hf : s.causesFit) :
    (stationWritten tag j st s).machine j = ⟨.fault, .stopped, .stopped, 0, false⟩ ∧
      (stationWritten tag j st s).halt.state = .stopped ∧
      (stationWritten tag j st s).hasCause .armStuck = true := by
  obtain ⟨hmachine, hstopped, hcause⟩ :=
    settled_open (j := j) (s := hunt .site s) hen harm hopen (hunt .site s) hf
  rw [stationWritten, hasCause_replied, drive_halt, setRequest_halt]
  exact ⟨hmachine, hstopped, hcause⟩

/-- Settles O48: a body is read back field by field; the write restarts one machine, and raises or
withdraws ARM_STUCK, which lasts to the end of the event. -/
theorem stationsAreWritten : Obligations.StationsAreWritten := by
  unfold Obligations.StationsAreWritten
  refine ⟨fun tag j st s ht ho hpre hpost hlat hlead ha ha' hw hw' hlevel hc hc' => ?_,
    fun tag b s ht hmode hlen hrange => exec_setStation_outOfRange ht hlen hmode hrange⟩
  intro h c no agrees lines clash jogged
  have hfits : st.FieldsFit :=
    ⟨ho, hpre, hpost, hlat, hlead, ⟨ha, ha'⟩, ⟨hw, hw'⟩, hlevel, ⟨hc, hc'⟩⟩
  have hagrees : st.valid h.settings.geometry.exitPos = true ↔ agrees := valid_iff hfits
  have hrefuse : ∀ {x : Status}, s.mode ≠ .lockout →
      setStationRequest (stationBody j st) h = (refuse x, h) → no x :=
    fun hmode hserved => exec_setStation_refused ht (stationBody_length j st) hmode hserved
  refine ⟨fun hmode => hrefuse (by rcases hmode with hm | hm <;> simp [hm])
    (setStationRequest_wrongState (s := h) hmode), fun hmode => ?_⟩
  have hlock := notLockout_of_settable hmode
  have hset : h.settable = true := settable_iff.mpr hmode
  have hparse : agrees → parseStation (stationBody j st) h.settings.geometry.exitPos =
      some (j, st) := fun hyes => by rw [parseStation_body hfits, if_pos (hagrees.mpr hyes)]
  refine ⟨fun hno => hrefuse hlock (setStationRequest_outOfRange hset ?_), fun hyes hoverlap =>
      hrefuse hlock (setStationRequest_overlap hset (hparse hyes) hoverlap),
    fun hyes hfree hbusy => hrefuse hlock (setStationRequest_busy hset (hparse hyes) hfree hbusy),
    fun hyes hfree hidle hnosave => ?_⟩
  · rw [parseStation_body hfits, if_neg (mt hagrees.mp hno)]
  · have hserved := setStationRequest_writes hset (hparse hyes) hfree
      (fun hbusy => hbusy.elim hidle (absurd hnosave))
    obtain ⟨hreply, hstation, hothers⟩ := stationWritten_records tag j st s
    exact ⟨_, exec_setStation_writes ht hlock hserved, hreply, hstation, hothers,
      fun hstowed hf => stationWritten_stowed tag hstowed hf,
      fun hen harm hopen hf => stationWritten_open tag hen harm hopen hf⟩

end Sys2Proof.Machine
end

section
/-! # Wash stations: the reaction to a move of the halt state (R130 to R133, R141) -/

namespace Sys2Proof.Machine

variable {s t u : State} {j : StationIx} {c d : Car}

/-! ## A move of the halt state as a whole (R141, log entry 6) -/

/-- R72, R75: run demand moves the conveyor alone. -/
theorem testDemand_eq (s : State) : testDemand s = { s with conv := (testDemand s).conv } := by
  unfold testDemand startWarning
  repeat' split
  all_goals rfl

theorem gateHaltChange_keeps (s : State) : (gateHaltChange s).conv = s.conv ∧
    (gateHaltChange s).track = s.track ∧ (gateHaltChange s).stn = s.stn := by
  unfold gateHaltChange testTire
  repeat' split
  all_goals exact ⟨rfl, rfl, rfl⟩

/-- The conveyor after a move of the halt state is the one the stations see. -/
theorem setHalt_conv (new : HaltState) (s : State) :
    (setHalt new s).conv = (demandTaken new s).conv := by
  have htaken : (haltTaken new s).conv = (demandTaken new s).conv :=
    (stationsHaltChange_washes s.stationHalt (moveHalt new s).stationHalt (demandTaken new s)).conv
  exact (gateHaltChange_keeps (haltTaken new s)).1.trans htaken

theorem demandTaken_eq (new : HaltState) (s : State) : demandTaken new s =
    { s with halt := { s.halt with state := new }, conv := (setHalt new s).conv } := by
  rw [setHalt_conv, demandTaken]
  exact testDemand_eq (moveHalt new s)

theorem demandTaken_halt (new : HaltState) (s : State) :
    (demandTaken new s).halt = { s.halt with state := new } := testDemand_halt _

theorem demandTaken_yard (new : HaltState) (s : State) :
    yardView (demandTaken new s) = yardView s := by
  obtain ⟨hroster, hstn, hsettings, hinputs, -⟩ := washView_iff.mp (testDemand_view (moveHalt new s))
  exact yardView_iff.mpr ⟨hroster, hstn, hsettings, hinputs⟩

/-- The stations and the roster are what the reaction makes of them. -/
theorem setHalt_makes {new : HaltState} (h : haltTaken new s = evaluate u) :
    (setHalt new s).track = (evaluate u).track ∧ (setHalt new s).stn = (evaluate u).stn := by
  have hset : setHalt new s = gateHaltChange (evaluate u) := congrArg gateHaltChange h
  rw [hset]
  exact (gateHaltChange_keeps _).2

/-! ## Stations that are stopped (R130) -/

/-- R130: what a stop makes of station j's cars and machine, and evaluations in STOPPED leave. -/
structure InterruptsAt (j : StationIx) (s t : State) : Prop where
  cars : ∀ (k : Nat) (c : Car), s.track.roster[k]? = some c → ∃ d, t.track.roster[k]? = some d ∧
    d.sight = c.sight ∧ (c.status j = .active → d.status j = .interrupted) ∧
    (c.status j ≠ .active → c.status j ≠ .pending → d.status j = c.status j)
  machine : t.machine j = s.halted j

theorem stopStations_interrupts (j : StationIx) (s : State) : InterruptsAt j s (stopStations s) where
  cars k c hc := by
    refine ⟨c.interrupted, by rw [stopStations_roster, List.getElem?_map, hc]; rfl, rfl,
      fun hactive => ?_, fun hno _ => ?_⟩
    · rw [status_interrupted, if_pos hactive]
    · rw [status_interrupted, if_neg hno]
  machine := machine_stopStations j s

/-- What a stop of a station reads. -/
structure SameYard (s u : State) : Prop where
  roster : u.track.roster = s.track.roster
  machines : u.stn.machines = s.stn.machines
  settings : u.settings = s.settings
  inputs : u.inputs = s.inputs

theorem sameYard_of_view (h : yardView u = yardView s) : SameYard s u := by
  obtain ⟨hroster, hstn, hsettings, hinputs⟩ := yardView_iff.mp h
  exact ⟨hroster, by rw [hstn], hsettings, hinputs⟩

theorem SameYard.halted (h : SameYard s u) : u.halted j = s.halted j := by
  have hmachine : u.machine j = s.machine j := by rw [State.machine, h.machines, State.machine]
  have hstation : u.station j = s.station j := by rw [State.station, h.settings, State.station]
  have hclosed : u.stowedClosed j = s.stowedClosed j := by
    simp only [State.stowedClosed, h.inputs, hstation]
  rw [State.halted, State.withdrawn, hmachine, hstation, hclosed, State.halted, State.withdrawn]

/-- R130, R118: a stop as the event that brings it leaves the station. -/
theorem interruptsAt_of_evaluates (h : SameYard s u) (hstop : u.stationHalt = .stopped)
    (heval : Evaluates (stopStations u) t) (j : StationIx) : InterruptsAt j s t := by
  obtain ⟨hcars, hmachine⟩ := stopStations_interrupts j u
  obtain ⟨hmachine', hrecasts⟩ :=
    heval.stopped ((stopStations_washes u).stationHalt.trans hstop)
  refine ⟨fun k c hc => ?_, ((hmachine' j).trans hmachine).trans h.halted⟩
  obtain ⟨d, hd, hsight, hactive, hother⟩ := hcars k c (h.roster ▸ hc)
  obtain ⟨e, he, hsight', hstatus⟩ := hrecasts.get hd
  refine ⟨e, he, hsight'.trans hsight, fun hc => ?_, fun hc hp => ?_⟩
  · rw [hstatus j (by rw [hactive hc]; decide), hactive hc]
  · rw [hstatus j (by rw [hother hc hp]; exact hp), hother hc hp]

theorem front_of_sight (h : d.sight = c.sight) : d.front = c.front := congrArg (fun x => x.2.1) h

theorem halted_out (h : (s.machine j).arm = .advancing ∨ (s.machine j).arm = .engaged) :
    s.halted j = { s.machine j with
      arm := if s.inputs.stowed[(s.station j).channel] = true then .stowed else .withdrawing
      advanceTimer := .stopped
      withdrawTimer := if s.inputs.stowed[(s.station j).channel] = true then .stopped
        else .running ((s.station j).withdrawTimeout * 100) } := by
  rw [State.halted, if_pos h]
  rfl

/-- R130: a paused withdraw timer runs on. -/
theorem halted_withdrawing {left : Nat} (h : (s.machine j).arm = .withdrawing)
    (htimer : (s.machine j).withdrawTimer = .paused left) :
    s.halted j = { s.machine j with withdrawTimer := .running left } := by
  rw [State.halted, if_neg (by simp [h]), htimer]
  rfl

/-- The same, in the terms of the statement. -/
theorem InterruptsAt.stopped (h : InterruptsAt j s t) :
    (∀ (k : Nat) (c : Car), s.track.roster[k]? = some c → ∃ d, t.track.roster[k]? = some d ∧
      d.ticket = c.ticket ∧ d.front = c.front ∧
      (c.status j = .active → d.status j = .interrupted) ∧
      (c.status j ≠ .active → c.status j ≠ .pending → d.status j = c.status j)) ∧
    ((s.machine j).arm = .advancing ∨ (s.machine j).arm = .engaged →
      t.machine j = { s.machine j with
        arm := if s.inputs.stowed[(s.station j).channel] = true then .stowed else .withdrawing
        advanceTimer := .stopped
        withdrawTimer := if s.inputs.stowed[(s.station j).channel] = true then .stopped
          else .running ((s.station j).withdrawTimeout * 100) }) ∧
    (∀ left, (s.machine j).arm = .withdrawing → (s.machine j).withdrawTimer = .paused left →
      t.machine j = { s.machine j with withdrawTimer := .running left }) := by
  refine ⟨fun k c hc => ?_, fun hout => h.machine.trans (halted_out hout),
    fun left hback htimer => h.machine.trans (halted_withdrawing hback htimer)⟩
  obtain ⟨d, hd, hsight, hstatuses⟩ := h.cars k c hc
  exact ⟨d, hd, ticket_of_sight hsight, front_of_sight hsight, hstatuses⟩

/-! ## The commands that stop the stations (R133, R149, R156) -/

theorem haltCause_isStop (p : Port) : (haltCause p).isStop = true := by cases p <;> rfl

/-- R140, R130: a STOP cause raised while the tunnel is not stopped stops the stations. -/
theorem raiseCause_interrupts (hf : s.causesFit) (hmode : s.mode ≠ .lockout)
    (hhalt : s.halt.state ≠ .stopped) {x : Cause} (hstop : x.isStop = true) (subj : Subject)
    (heval : Evaluates (raiseCause x subj s) t) (j : StationIx) : InterruptsAt j s t := by
  have hmoves : ∀ v : State, yardView v = yardView s → v.mode = s.mode →
      v.halt.state = s.halt.state → Evaluates (setHalt .stopped v) t → InterruptsAt j s t := by
    intro v hview hvmode hvhalt hsettle
    have htaken := haltTaken_stops (s := v) (by rwa [hvmode]) (by rwa [hvhalt])
    exact interruptsAt_of_evaluates (sameYard_of_view ((demandTaken_yard ..).trans hview))
      (stationHalt_stopped (Or.inl (by rw [demandTaken_halt])))
      ((setHalt_evaluates htaken).trans hsettle) j
  refine raiseCause_cases (motive := fun v => Evaluates v t → InterruptsAt j s t)
    (fun hpresent => absurd (stopped_of_hasCause hf hstop hpresent) hhalt) (fun _ hsettle => ?_)
    (fun _ _ hsettle => ?_) (fun hrun hhold => ?_) heval
  · rw [if_pos hstop] at hsettle
    exact hmoves (openEpisode x subj (withCause x s)) rfl rfl rfl hsettle
  · exact hmoves _ (joinEpisode_yard x (withCause x s)) (joinEpisode_spares ..).mode
      (joinEpisode_leaves ..).2.1 hsettle
  · cases hstate : s.halt.state with
    | running => exact absurd hstate hrun
    | holding => exact absurd (hhold hstate) (by simp [hstop])
    | stopped => exact absurd hstate hhalt

/-- R149: the part once HALT is carried out. -/
theorem haltRequest_interrupts (p : Port) (hf : s.causesFit) (hmode : s.mode ≠ .lockout)
    (hhalt : s.halt.state ≠ .stopped) (heval : Evaluates (haltRequest p s).2 t) (j : StationIx) :
    InterruptsAt j s t :=
  raiseCause_interrupts hf hmode hhalt (haltCause_isStop p) .none
    ((settleHalted_evaluates ..).trans heval) j

/-- R156: no reaction of the blocks leaves LOCKOUT. -/
theorem Reacts.lockout (h : Reacts s t) (hlock : s.mode = .lockout) : t.mode = .lockout := by
  induction h with
  | quiet h => exact (congrArg (fun x => x.2.1) h).trans hlock
  | trans _ _ ih ih' => exact ih' (ih hlock)
  | notice => exact hlock
  | demand s => exact (testDemand_spares s).mode.trans hlock
  | unpark => exact hlock
  | drained s h => exact absurd (h.symm.trans hlock) (by decide)
  | cause c subj s => exact (raiseCause_spares c subj s).mode.trans hlock
  | clear c s => exact (clearCause_spares c s).mode.trans hlock

/-- R156: LOCKOUT as the conveyor has taken it, before the stations do. -/
def lockedOut (s : State) : State :=
  testDemand (endJog (raiseAll .lockout { s with
    mode := .lockout
    halt := { s.halt with mismatchTimer := .stopped } }))

theorem lockedOut_mode (s : State) : (lockedOut s).mode = .lockout := (testDemand_spares _).mode

theorem lockedOut_yard (s : State) : SameYard s (lockedOut s) := by
  rw [lockedOut, testDemand_eq]
  exact ⟨rfl, rfl, rfl, rfl⟩

/-- R133: the entry to LOCKOUT stops the stations. -/
theorem enterLockout_stops (hmode : s.mode ≠ .lockout) (hhalt : s.halt.state ≠ .stopped) :
    enterLockout s = settle s (evaluate (stopStations (lockedOut s))) := by
  have hchange : stationsHaltChange s.stationHalt .stopped (lockedOut s) =
      evaluate (stopStations (lockedOut s)) := by
    rw [stationHalt_of_mode hmode]
    cases hs : s.halt.state with
    | running => rfl
    | holding => rfl
    | stopped => exact absurd hs hhalt
  exact congrArg (settle s) hchange

theorem enterLockout_mode (hmode : s.mode ≠ .lockout) (hhalt : s.halt.state ≠ .stopped) :
    (enterLockout s).mode = .lockout := by
  rw [enterLockout_stops hmode hhalt]
  refine (settle_reacts ..).lockout ?_
  have hwashes := (stopStations_washes (lockedOut s)).trans (evaluate_washes _)
  exact hwashes.spares.mode.trans (lockedOut_mode s)

theorem enterLockout_interrupts (hmode : s.mode ≠ .lockout) (hhalt : s.halt.state ≠ .stopped)
    (heval : Evaluates (enterLockout s) t) (j : StationIx) : InterruptsAt j s t := by
  rw [enterLockout_stops hmode hhalt] at heval
  exact interruptsAt_of_evaluates (lockedOut_yard s)
    (stationHalt_stopped (Or.inr (lockedOut_mode s)))
    (((Evaluates.evaluates _).trans (settle_evaluates ..)).trans heval) j

theorem exec_mismatchTimerExpiry {left : Nat} (hmode : s.mode ≠ .lockout)
    (h : s.halt.mismatchTimer = .running left) :
    exec .mismatchTimerExpiry s = done (enterLockout s) := by
  have hrunning : s.halt.mismatchTimer.isRunning = true := by
    rw [h]
    rfl
  exact congrArg done ((if_pos hrunning).trans (if_neg hmode))

end Sys2Proof.Machine
end

section
/-! # Wash stations: the exit holds the tunnel and lets it run on (R98, R109, R131, R133) -/

namespace Sys2Proof.Machine

variable {s t u : State} {j : StationIx} {c : Car} {older newer rest : List Car}

/-! ## A hold (R131) -/

/-- R131: the timers of the arms pause, and nothing else of the stations and the cars changes. -/
structure HoldsStill (s t : State) : Prop where
  roster : t.track.roster = s.track.roster
  machine : ∀ j, t.machine j = { s.machine j with
    advanceTimer := (s.machine j).advanceTimer.pause
    withdrawTimer := (s.machine j).withdrawTimer.pause }

/-- R109, R131: EXIT_BLOCKED raised in RUNNING, to the end of the event. -/
theorem raiseExitBlocked_holdsStill (hmode : s.mode ≠ .lockout) (hrun : s.halt.state = .running)
    (hf : s.causesFit) (subj : Subject) (heval : Evaluates (raiseCause .exitBlocked subj s) t) :
    HoldsStill s t := by
  have hnone : s.hasCause .exitBlocked = false := by simp [State.hasCause, hf.1 hrun, Set16.has]
  refine raiseCause_cases (motive := fun v => Evaluates v t → HoldsStill s t)
    (fun h => by simp [hnone] at h) (fun _ hsettle => ?_) (fun h => by simp [hrun] at h)
    (fun h => absurd hrun h) heval
  have hmode' : (openEpisode .exitBlocked subj (withCause .exitBlocked s)).mode ≠ .lockout := by
    rw [(openEpisode_spares ..).mode]
    exact hmode
  have htaken := haltTaken_holds hmode' hrun
  have hyard : yardView (demandTaken .holding (openEpisode .exitBlocked subj
      (withCause .exitBlocked s))) = yardView s := (demandTaken_yard ..).trans rfl
  have hhold : (holdStations (demandTaken .holding (openEpisode .exitBlocked subj
      (withCause .exitBlocked s)))).stationHalt = .holding := by
    rw [(holdStations_washes _).stationHalt, stationHalt_of_mode, demandTaken_halt]
    rw [demandTaken, (testDemand_spares _).mode]
    exact hmode'
  obtain ⟨hroster, hstn⟩ := ((setHalt_evaluates htaken).trans hsettle).holding hhold
  obtain ⟨hroster', hstn', -, -⟩ := yardView_iff.mp hyard
  refine ⟨hroster.trans hroster', fun j => ?_⟩
  rw [machine_of_stn hstn, machine_holdStations, machine_of_stn hstn']

/-- R131: a pause, timer by timer. -/
theorem pause_eq (x : Timer) : x.pause = match x with
    | .running left => .paused left
    | .stopped => .stopped
    | .paused left => .paused left := by cases x <;> rfl

/-- R131: the end of a pause, timer by timer. -/
theorem unpause_eq (x : Timer) : x.unpause = match x with
    | .paused left => .running left
    | .stopped => .stopped
    | .running left => .running left := by cases x <;> rfl

/-! ## A break of the exit eye at rest (R98, R109) -/

/-- R109: with no car seen at the exit, the oldest one blocks it. -/
theorem exitBlockedBy_oldest (hroster : s.track.roster = c :: rest)
    (hunseen : ∀ d ∈ s.track.roster, d.exitMark = false)
    (hguard : s.settings.geometry.exitPos ≤ c.front + s.settings.geometry.exitGuard) :
    (setExitEye true s).exitBlockedBy = some c :=
  exitBlockedBy_approaching (s := setExitEye true s) (older := []) rfl hroster (by simp)
    (hunseen c (by simp [hroster])) hguard fun d hd hspans => by
      have hmark := hunseen d hd
      simp [hspans.1] at hmark

theorem exitEyeBreak_blocks (hrun : s.halt.state = .running) (hconv : s.conv.state = .stopped)
    (hroster : s.track.roster = c :: rest)
    (hunseen : ∀ d ∈ s.track.roster, d.exitMark = false)
    (hguard : s.settings.geometry.exitPos ≤ c.front + s.settings.geometry.exitGuard) :
    exec .exitEyeBreak s = done (settleHalted s
      (raiseCause .exitBlocked (.ticket c.ticket) (setExitEye true s))) := by
  have htest : testExitBlocked (setExitEye true s) =
      raiseCause .exitBlocked (.ticket c.ticket) (setExitEye true s) := by
    simp only [testExitBlocked, exitBlockedBy_oldest hroster hunseen hguard]
  rw [exec_exitEyeBreak_atRest hconv,
    noteMoved_moving (s := setExitEye true s) _ (Or.inr hrun), htest]

theorem settleHalted_holding (b : State) (hrun : s.halt.state = .running) (hf : s.causesFit)
    (subj : Subject) :
    (settleHalted b (raiseCause .exitBlocked subj s)).halt.state = .holding := by
  rw [settleHalted_halt]
  exact (raiseExitBlocked_holds hrun hf subj).1

/-! ## A pulse that blocks the exit (R94, R109) -/

section
variable (elapsed : Nat) (heye : s.inputs.exitEye = true)
  (hroster : s.track.roster = older ++ c :: newer) (hseen : ∀ d ∈ older, d.exitMark = true)
  (hc : c.exitMark = false)
  (hguard : s.settings.geometry.exitPos ≤ c.front + 1 + s.settings.geometry.exitGuard)
  (hlimit : ∀ d ∈ s.track.roster, d.front < 16383)
  (hclear : ∀ d ∈ s.track.roster, ¬ s.SpansExit d.ahead)
include heye hroster hseen hc hguard hlimit hclear

/-- R109: once the fronts have advanced, the car blocks the exit. -/
theorem exitBlockedBy_ahead :
    (advanceFronts (pulsed elapsed s)).exitBlockedBy = some c.ahead := by
  have hlimit' : ∀ d ∈ (pulsed elapsed s).track.roster, d.front < 16383 := by simpa using hlimit
  have hadvanced : (advanceFronts (pulsed elapsed s)).track.roster =
      older.map Car.ahead ++ c.ahead :: newer.map Car.ahead := by
    rw [advanceFronts_roster hlimit', pulsed_track, hroster, List.map_append, List.map_cons]
  have hsettings : (advanceFronts (pulsed elapsed s)).settings = s.settings := pulsed_settings ..
  have hinputs : (advanceFronts (pulsed elapsed s)).inputs = s.inputs := pulsed_inputs ..
  refine exitBlockedBy_approaching (by rw [hinputs]; exact heye) hadvanced ?_ hc
    (by rw [hsettings]; exact hguard) ?_
  · simpa [Car.ahead] using hseen
  · rw [advanceFronts_roster hlimit', pulsed_track]
    simpa [State.SpansExit, hsettings] using hclear

variable (htracked : ∀ d ∈ s.track.roster, s.Tracked d.ahead)
include htracked

/-- Log entry 5: the halt reaches the stations before the evaluation of the pulse. -/
theorem pulseAtGate_raises : pulseAtGate elapsed s =
    evaluate (raiseCause .exitBlocked (.ticket c.ticket) (advanceFronts (pulsed elapsed s))) := by
  have hlimit' : ∀ d ∈ (pulsed elapsed s).track.roster, d.front < 16383 := by simpa using hlimit
  have heye' : (advanceFronts (pulsed elapsed s)).inputs.exitEye = true := by
    rw [show (advanceFronts (pulsed elapsed s)).inputs = s.inputs from pulsed_inputs ..]
    exact heye
  rw [pulseAtGate_eq, slipTested_quiet hlimit' (by simpa [State.Tracked] using htracked),
    testOverdue_none (Or.inl heye'), testExitBlocked,
    exitBlockedBy_ahead elapsed heye hroster hseen hc hguard hlimit hclear]
  rfl

end

/-- R131: the timers as they stand when the pulse arrives. -/
theorem machine_advance (elapsed : Nat) (s : State) (j : StationIx) :
    (advanceFronts (pulsed elapsed s)).machine j = { s.machine j with
      advanceTimer := (s.machine j).advanceTimer.elapse elapsed
      withdrawTimer := (s.machine j).withdrawTimer.elapse elapsed } := by
  have hpulsed : (advanceFronts (pulsed elapsed s)).machine j = (advance elapsed s).machine j := by
    rw [pulsed_eq]
    rfl
  rw [hpulsed]
  exact vmap_getElem ..

theorem statuses_ahead (j : StationIx) (l : List Car) :
    (l.map Car.ahead).map (fun d => d.status j) = l.map (fun d => d.status j) := by
  rw [List.map_map]
  rfl

/-! ## A restore of the exit eye (R104, R131, R142) -/

theorem carOut_machine (n : Nat) (r : Result) (s : State) (j : StationIx) :
    (carOut n r s).machine j = s.machine j := by
  obtain ⟨a, m, c, p, hwrites⟩ :=
    retireTicket_writes n r (setRoster (s.track.roster.filter (fun c => c.ticket ≠ n)) s)
  rw [carOut, hwrites]
  rfl

/-- R106: a removal leaves an arm in WITHDRAWING or FAULT. -/
theorem machine_dropCar (n : Nat) (r : Result) (hback : s.armBack j) :
    (dropCar n r s).machine j = s.machine j := by
  have hout : (carOut n r s).machine j = s.machine j := carOut_machine ..
  have hback' : (carOut n r s).armBack j := by rwa [State.armBack, hout]
  by_cases h : s.Measures n
  · rw [dropCar_measured h]
    exact (machine_evaluate_back (s := abandonMeasure (carOut n r s)) hback').trans hout
  · rw [dropCar_unmeasured h]
    exact (machine_evaluate_back hback').trans hout

theorem machine_clearExit (fuel : Nat) (hback : s.armBack j) :
    (clearExit fuel s).machine j = s.machine j :=
  clearExit_keeps (motive := fun u => u.machine j = s.machine j)
    (fun n r u hu => (machine_dropCar n r (by rwa [State.armBack, hu])).trans hu) fuel rfl

theorem machine_rosterChanged (heye : s.inputs.exitEye = false) (hback : s.armBack j) :
    (rosterChanged s).machine j = s.machine j := by
  rw [rosterChanged, testExitBlocked_restored heye]
  exact ((Evaluates.evaluates s).trans (.still (testSpacing_view _))).machine_back hback

/-- R104, R109: on a turning conveyor the judgement of a restored eye removes cars and nothing else
that the halt unit or an arm on its way back sees. -/
theorem exitJudged_turning (hconv : s.conv.state ≠ .stopped) :
    Outlives (setExitEye false s) (exitJudged s) ∧
      (s.armBack j → (exitJudged s).machine j = s.machine j) := by
  have hclear := clearExit_outlives s.track.roster.length (setExitEye false s)
  have heye : (clearExit s.track.roster.length (setExitEye false s)).inputs.exitEye = false := by
    rw [hclear.inputs]
    rfl
  have hmachine : s.armBack j → (clearExit s.track.roster.length (setExitEye false s)).machine j =
      s.machine j := fun hback => machine_clearExit (s := setExitEye false s) _ hback
  have hback' : s.armBack j → (clearExit s.track.roster.length (setExitEye false s)).armBack j :=
    fun hback => by rwa [State.armBack, hmachine hback]
  unfold exitJudged
  split
  · exact ⟨hclear.trans (rosterChanged_outlives heye), fun hback =>
      (machine_rosterChanged heye (hback' hback)).trans (hmachine hback)⟩
  · rw [noteMoved_moving _ (Or.inl (by rw [hclear.conv]; exact hconv))]
    exact ⟨hclear, hmachine⟩

theorem closeEpisode_keeps (b : EndedBy) (s : State) :
    (closeEpisode b s).halt.state = s.halt.state ∧ (closeEpisode b s).conv = s.conv ∧
      (closeEpisode b s).gate = s.gate := by
  unfold closeEpisode
  repeat' split
  all_goals exact ⟨rfl, rfl, rfl⟩

/-- R142: in HOLDING the end of EXIT_BLOCKED moves the halt state to RUNNING. -/
theorem clearExitBlocked_releases (hmode : s.mode ≠ .lockout) (hhold : s.halt.state = .holding)
    (hf : s.causesFit) : (clearCause .exitBlocked s).halt.state = .running ∧
      ∀ j, (s.machine j).arm = .withdrawing →
        (clearCause .exitBlocked s).machine j = { s.machine j with
          advanceTimer := (s.machine j).advanceTimer.unpause
          withdrawTimer := (s.machine j).withdrawTimer.unpause } := by
  have hcauses : s.halt.causes = Set16.single Cause.exitBlocked.code := hf.2 hhold
  have hnone : (withoutCause .exitBlocked s).halt.causes = 0 := by
    show Set16.erase s.halt.causes Cause.exitBlocked.code = 0
    rw [hcauses]
    decide
  refine clearCause_cases (motive := fun t => t.halt.state = .running ∧
      ∀ j, (s.machine j).arm = .withdrawing → t.machine j = { s.machine j with
        advanceTimer := (s.machine j).advanceTimer.unpause
        withdrawTimer := (s.machine j).withdrawTimer.unpause })
    (fun h => ?_) (fun _ _ => ⟨by rw [setHalt_halt], fun j hback => ?_⟩)
    (fun h => absurd ⟨hhold, hnone⟩ h)
  · rw [State.hasCause, hcauses] at h
    exact absurd h (by decide)
  · have hclose := closeEpisode_yard .auto (withoutCause .exitBlocked s)
    have htaken := haltTaken_releases (s := closeEpisode .auto (withoutCause .exitBlocked s))
      (by rwa [(closeEpisode_spares ..).mode]) ((closeEpisode_keeps ..).1.trans hhold)
    have hreleased : (releaseStations (demandTaken .running
        (closeEpisode .auto (withoutCause .exitBlocked s)))).machine j = { s.machine j with
          advanceTimer := (s.machine j).advanceTimer.unpause
          withdrawTimer := (s.machine j).withdrawTimer.unpause } := by
      rw [machine_releaseStations,
        machine_of_stn (yardView_iff.mp ((demandTaken_yard ..).trans hclose)).2.1]
      rfl
    rw [(setHalt_evaluates htaken).machine_back (Or.inl (by rw [hreleased]; exact hback)), hreleased]

end Sys2Proof.Machine
end

section
/-! # Wash stations: the end of a stop, and the halt state's statement (R132, R133, R151) -/

namespace Sys2Proof.Machine

variable {s t u : State} {i j : StationIx} {c d : Car} {p : Progress}

/-! ## A window that is open through an evaluation (R118) -/

/-- A status that an evaluation can give to a PENDING one whose window is open. -/
def Progress.early (p : Progress) : Prop := p = .pending ∨ p = .skipped ∨ p = .active

/-- A car whose window at station j is open keeps an early status there. -/
def KeepsEarly (j : StationIx) (s t : State) : Prop :=
  ∀ (k : Nat) (c : Car), s.track.roster[k]? = some c → s.windowOpen j c = true →
    (c.status j).early → ∃ d, t.track.roster[k]? = some d ∧ d.sight = c.sight ∧ (d.status j).early

theorem KeepsEarly.of_roster (h : t.track.roster = s.track.roster) : KeepsEarly j s t :=
  fun _ c hc _ hearly => ⟨c, h ▸ hc, rfl, hearly⟩

theorem KeepsEarly.trans (hw : Washes s t) (h : KeepsEarly j s t) (k : KeepsEarly j t u) :
    KeepsEarly j s u := fun n c hc hopen hearly => by
  obtain ⟨d, hd, hsight, hearly'⟩ := h n c hc hopen hearly
  obtain ⟨e, he, hsight', hearly''⟩ := k n d hd ((hw.windowOpen hsight j).trans hopen) hearly'
  exact ⟨e, he, hsight'.trans hsight, hearly''⟩

/-- What marks no car whose window is open, or gives an early status, keeps early ones. -/
theorem markAll_keepsEarly {test : Car → Bool}
    (h : p.early ∨ ∀ c, test c = true → s.windowOpen j c = false) :
    KeepsEarly j s (markAll j test p s) := fun k c hc hopen hearly => by
  refine ⟨if test c then c.setStatus j p else c, ?_, by split <;> rfl, ?_⟩
  · have hroster : (markAll j test p s).track.roster =
        s.track.roster.map (fun c => if test c then c.setStatus j p else c) := rfl
    rw [hroster, List.getElem?_map, hc]
    rfl
  · split
    · next htest =>
      rw [status_setStatus_same]
      refine h.resolve_right fun hclosed => ?_
      simp [hclosed c htest] at hopen
    · exact hearly

theorem markOldest_keepsEarly (test : Car → Bool) (hp : p.early) :
    KeepsEarly j s (markOldest j test p s) := fun k c hc _ hearly => by
  obtain ⟨d, hd, hsight, hstatus⟩ := (markOldest_recasts (j := j) (p := p) (test := test)
    (R := fun q q' => q.early → q'.early) (fun _ => id) (fun _ _ _ => hp) s).get hc
  exact ⟨d, hd, hsight, hstatus j hearly⟩

theorem early_skipped : Progress.skipped.early := Or.inr (Or.inl rfl)

theorem early_active : Progress.active.early := Or.inr (Or.inr rfl)

/-- R118 step 2: only windows that have closed are closed out. -/
theorem endStep_keepsEarly (j : StationIx) (s : State) : KeepsEarly j s (endStep j s) := by
  have hclosed : ∀ q : Progress, KeepsEarly j s
      (markAll j (fun c => c.status j == .active && !s.windowOpen j c) q s) :=
    fun q => markAll_keepsEarly (Or.inr fun c hc => by
      simp only [Bool.and_eq_true, Bool.not_eq_true'] at hc
      exact hc.2)
  unfold endStep
  dsimp only
  split
  · exact hclosed _
  · split
    · split
      · exact .of_roster rfl
      · exact hclosed _
    · split
      · exact .of_roster rfl
      · split
        · exact (hclosed .done).trans (markAll_washes ..) (markOldest_keepsEarly _ early_active)
        · exact hclosed _
    all_goals exact .of_roster rfl

theorem startStep_keepsEarly (j : StationIx) (s : State) : KeepsEarly j s (startStep j s) := by
  unfold startStep
  split
  · exact markAll_keepsEarly (Or.inl early_active)
  · split
    · exact markOldest_keepsEarly _ early_active
    · exact .of_roster rfl

theorem evalStation_keepsEarly (j : StationIx) (s : State) : KeepsEarly j s (evalStation j s) := by
  have hqualify : KeepsEarly j s (qualifyStep j s) := markAll_keepsEarly (Or.inl early_skipped)
  have hmiss : ∀ u : State, KeepsEarly j u (missStep j u) := fun u =>
    markAll_keepsEarly (Or.inr fun c hc => by
      simp only [Bool.and_eq_true, Bool.not_eq_true'] at hc
      exact hc.2)
  have hq : Washes s (qualifyStep j s) := markAll_washes ..
  have he := hq.trans (endStep_washes j (qualifyStep j s))
  have hm : Washes s (missStep j (endStep j (qualifyStep j s))) := he.trans (markAll_washes ..)
  cases hhalt : s.stationHalt with
  | holding => rw [evalStation_holding hhalt]; exact .of_roster rfl
  | stopped =>
    have heval : evalStation j s = missStep j (qualifyStep j s) := by
      unfold evalStation
      rw [hhalt]
    rw [heval]
    exact hqualify.trans hq (hmiss _)
  | running =>
    rw [evalStation_running hhalt]
    exact ((hqualify.trans hq (endStep_keepsEarly j _)).trans he (hmiss _)).trans hm
      (startStep_keepsEarly j _)

/-- Of station j an evaluation of all is the evaluation of j. -/
theorem evaluate_keepsEarly (j : StationIx) (s : State) : KeepsEarly j s (evaluate s) :=
  fun k c hc hopen hearly => by
    obtain ⟨d, hd, hsight, hearly'⟩ := evalStation_keepsEarly j s k c hc hopen hearly
    obtain ⟨e, he, hsight', hstatus⟩ := get_of_faces (evaluate_sameAt j s).faces hd
    exact ⟨e, he, hsight'.trans hsight, hstatus ▸ hearly'⟩

/-! ## RESUME to RUNNING (R132, R151) -/

/-- R151: the causes and a jog at an end, and the episode closed. -/
def resumed (s : State) : State :=
  closeEpisode .console { endJog s with halt := { s.halt with causes := s.heldCauses } }

theorem ledOut_eq (hblocked : s.hasCause .exitBlocked = false) :
    ledOut s = setHalt .running (resumed s) := by
  have hto : s.resumeTo = .running := by simp [State.resumeTo, hblocked]
  rw [ledOut, if_pos hto, hto, resumed]

theorem resumed_keeps (s : State) : (resumed s).halt.state = s.halt.state ∧
    (resumed s).conv = s.conv ∧ (resumed s).gate = s.gate := closeEpisode_keeps ..

theorem resumed_spares (s : State) : Spares s (resumed s) := by
  have hcleared : Spares s { endJog s with halt := { s.halt with causes := s.heldCauses } } :=
    ⟨rfl, rfl, rfl, rfl, rfl, rfl, fun _ => rfl⟩
  exact hcleared.trans (closeEpisode_spares ..)

theorem resumed_roster (s : State) : (resumed s).track.roster = s.track.roster :=
  (yardView_iff.mp (closeEpisode_yard .console
    { endJog s with halt := { s.halt with causes := s.heldCauses } })).1

/-- R72, R75: a conveyor at rest or coasting keeps its samples when run demand is tested. -/
theorem testDemand_samples (h : s.conv.state = .stopped ∨ s.conv.state = .stopping) :
    (testDemand s).conv.samples = s.conv.samples := by
  rcases h with h | h
  · exact (testDemand_fromRest h).1
  · have hsame : testDemand s = s := by
      unfold testDemand
      simp [h]
    rw [hsame]

theorem windowOpen_congr (hsettings : u.settings = s.settings)
    (hsamples : u.conv.samples = s.conv.samples) (j : StationIx) (c : Car) :
    u.windowOpen j c = s.windowOpen j c := by
  have hperiod : u.avgPeriod = s.avgPeriod := by
    simp only [State.avgPeriod, hsettings, hsamples]
  have hoff : u.offPoint j = s.offPoint j := by
    simp only [State.offPoint, State.station, hsettings, hperiod]
  rw [State.windowOpen, hoff, State.windowOpen]

theorem windowOpen_resumed (h : s.conv.state = .stopped ∨ s.conv.state = .stopping)
    (j : StationIx) (c : Car) :
    (demandTaken .running (resumed s)).windowOpen j c = s.windowOpen j c := by
  obtain ⟨-, hconv, -⟩ := resumed_keeps s
  refine windowOpen_congr ?_ ?_ j c
  · exact (testDemand_spares _).settings.trans (resumed_spares s).settings
  · exact (testDemand_samples (s := moveHalt .running (resumed s)) (by
      rw [show (moveHalt .running (resumed s)).conv = s.conv from hconv]
      exact h)).trans (congrArg Conveyor.samples hconv)

/-- R132: what the resume makes of an INTERRUPTED status, in the evaluation that follows it. -/
theorem ledOut_judges (hmode : s.mode ≠ .lockout) (hstop : s.halt.state = .stopped)
    (hblocked : s.hasCause .exitBlocked = false)
    (hconv : s.conv.state = .stopped ∨ s.conv.state = .stopping) {k : Nat}
    (hc : s.track.roster[k]? = some c) (hj : c.status j = .interrupted) :
    ∃ d, (ledOut s).track.roster[k]? = some d ∧ d.sight = c.sight ∧
      (s.windowOpen j c = false → d.status j = .missed) ∧
      (s.windowOpen j c = true → (d.status j).early) := by
  obtain ⟨hhalt, -, -⟩ := resumed_keeps s
  have htaken := haltTaken_resumes (s := resumed s) (by rwa [(resumed_spares s).mode])
    (hhalt.trans hstop)
  have htrack : (ledOut s).track =
      (evaluate (judgeStations (demandTaken .running (resumed s)))).track := by
    rw [ledOut_eq hblocked]
    exact (setHalt_makes htaken).1
  have hroster : (demandTaken .running (resumed s)).track.roster = s.track.roster :=
    (yardView_iff.mp (demandTaken_yard ..)).1.trans (resumed_roster s)
  have hrejudged : ((demandTaken .running (resumed s)).track.roster.map
      ((demandTaken .running (resumed s)).rejudged j))[k]? =
        some ((demandTaken .running (resumed s)).rejudged j c) := by
    rw [hroster, List.getElem?_map, hc]
    rfl
  obtain ⟨d, hd, hsight, hstatus⟩ := get_of_faces (judgeStations_faces j _) hrejudged
  rw [rejudged_sight] at hsight
  rw [status_rejudged, if_pos hj, windowOpen_resumed hconv] at hstatus
  rw [htrack]
  cases hopen : s.windowOpen j c with
  | false =>
    have hmissed : d.status j = .missed := by simpa [hopen] using hstatus
    obtain ⟨e, he, hsight', hsettles⟩ := (evaluate_recasts _).get hd
    refine ⟨e, he, hsight'.trans hsight, fun _ => ?_, nofun⟩
    rw [hsettles j (by simp [hmissed]) (by simp [hmissed]), hmissed]
  | true =>
    have hpending : d.status j = .pending := by simpa [hopen] using hstatus
    have hopen' : (judgeStations (demandTaken .running (resumed s))).windowOpen j d = true := by
      rw [(judgeStations_washes _).windowOpen hsight, windowOpen_resumed hconv, hopen]
    obtain ⟨e, he, hsight', hearly⟩ := evaluate_keepsEarly j _ k d hd hopen' (Or.inl hpending)
    exact ⟨e, he, hsight'.trans hsight, nofun, fun _ => hearly⟩

/-! ### The end of the event -/

theorem gateHaltChange_notMeasuring (h : s.gate.state ≠ .measuring) :
    (gateHaltChange s).gate.state ≠ .measuring := by
  unfold gateHaltChange testTire
  repeat' split
  all_goals simp_all

/-- R59: only a measurement that a TAILGATE stop left is fixed. -/
theorem fixTailgated_ledOut (hblocked : s.hasCause .exitBlocked = false)
    (h : ¬ (s.gate.state = .measuring ∧ s.gate.tailgated = true)) :
    fixTailgated (ledOut s) = ledOut s := by
  refine if_neg fun hfix => h ?_
  by_cases hm : s.gate.state = .measuring
  · rwa [(ledOut_spares s).gate (by simp [hm])] at hfix
  · refine absurd hfix.1 ?_
    rw [ledOut_eq hblocked, setHalt_eq]
    refine gateHaltChange_notMeasuring ?_
    rw [haltTaken_gate, (resumed_keeps s).2.2]
    exact hm

/-- R78: a conveyor that is unparked with the chain closed takes run demand at once, so that its
samples stay and no evaluation follows. -/
theorem retestDemand_unparked_track (hw : s.offerWanted = true)
    (hchain : s.inputs.chainClosed = true) :
    (retestDemand (unparked s)).track = s.track := by
  obtain ⟨hmode, hhalt, -⟩ := offerWanted_iff.mp hw
  have hdemand : (unparked s).runDemand = true := (runDemand_unparked hmode hhalt).trans hchain
  have hsamples : (testDemand (unparked s)).conv.samples = (unparked s).conv.samples := by
    unfold testDemand startWarning
    rw [if_pos hdemand]
    repeat' split
    all_goals rfl
  rw [retestDemand_samePace hsamples, testDemand_eq]
  rfl

theorem testIdleOnce_roster (hchain : s.inputs.chainClosed = true) :
    (testIdleOnce s).track.roster = s.track.roster := by
  unfold testIdleOnce
  repeat' split
  · rfl
  · rfl
  · rfl
  · rfl
  · exact (washView_iff.mp (testTire_view _)).1
  · next hw _ _ => exact congrArg Track.roster (retestDemand_unparked_track hw hchain)
  · rfl
  · rfl

theorem settle_roster (b : State) (hchain : s.inputs.chainClosed = true)
    (hcars : s.track.roster ≠ []) : (settle b s).track.roster = s.track.roster := by
  have honce := testIdleOnce_roster hchain
  have hchain' : (testIdleOnce s).inputs.chainClosed = true := by
    rw [(testIdleOnce_reacts s).inputs]
    exact hchain
  have htwice : (testIdle s).track.roster = s.track.roster :=
    (testIdleOnce_roster hchain').trans honce
  have hdrain : testDrain (testIdle s) = testIdle s := testDrain_notDrained fun hdrained => by
    obtain ⟨-, -, -, -, -, hempty, -⟩ := drained_iff.mp hdrained
    exact hcars (htwice.symm.trans hempty)
  rw [settle, settleDrain, testPark_track, hdrain, htwice]

end Sys2Proof.Machine
end

section
/-! # Wash stations: the commands that move the halt state (R133, R149 to R151, R156) -/

namespace Sys2Proof.Machine

variable {s t u : State} {j : StationIx} {c : Car} {older newer rest : List Car} {p : Port}
  {tag : Byte}

/-! ## HALT -/

theorem InterruptsAt.hunted (h : InterruptsAt j (hunt p s) t) : InterruptsAt j s t :=
  ⟨h.cars, h.machine⟩

/-- R149: the part once HALT is answered. -/
def haltAnswered (p : Port) (tag : Byte) (s : State) : State :=
  let u := (haltRequest p (hunt p s)).2
  drive (setRequest p (.replying ⟨0xA0, tag,
    u8 0 ++ (u8 u.halt.state.code ++ u8 u.episodeNumber)⟩) u)

theorem exec_halt (hp : p = .console ∨ p = .site) (ht : s.takes p) (hmode : s.mode ≠ .lockout) :
    exec (.halt p tag []) s = .next (haltAnswered p tag s) := by
  have hpermitted : RequestKind.halt.permitted p.cls = true := by rcases hp with rfl | rfl <;> rfl
  exact request_ok (k := .halt) ht hpermitted rfl (Or.inl hmode) rfl

section
variable (hf : s.causesFit) (hmode : s.mode ≠ .lockout) (hhalt : s.halt.state ≠ .stopped)
include hf

theorem haltAnswered_stopped (p : Port) (tag : Byte) :
    (haltAnswered p tag s).halt.state = .stopped := by
  have hstop := (settleHalted_keepsStop (hunt p s) (raiseCause (haltCause p) .none (hunt p s))).stopped
    (raiseCause_stops (s := hunt p s) hf (haltCause_isStop p) .none)
  exact hstop

include hmode hhalt

theorem haltAnswered_interrupts (p : Port) (tag : Byte) (j : StationIx) :
    InterruptsAt j s (haltAnswered p tag s) :=
  (haltRequest_interrupts (s := hunt p s) (t := haltAnswered p tag s) p hf hmode hhalt
    (.still rfl) j).hunted

end

/-! ## The exit -/

/-- A hold, in the terms of the statement. -/
theorem HoldsStill.pauses (h : HoldsStill s t) (j : StationIx) : ∃ a w,
    a = (match (s.machine j).advanceTimer with
      | .running left => .paused left
      | .stopped => .stopped
      | .paused left => .paused left) ∧
    w = (match (s.machine j).withdrawTimer with
      | .running left => .paused left
      | .stopped => .stopped
      | .paused left => .paused left) ∧
    t.machine j = { s.machine j with advanceTimer := a, withdrawTimer := w } :=
  ⟨_, _, pause_eq _, pause_eq _, h.machine j⟩

section
variable (hmode : s.mode ≠ .lockout) (hrun : s.halt.state = .running) (hf : s.causesFit)
include hmode hrun hf

/-- R98, R109: the break at rest. -/
theorem exitEyeBreak_holdsStill (hconv : s.conv.state = .stopped)
    (hroster : s.track.roster = c :: rest) (hunseen : ∀ d ∈ s.track.roster, d.exitMark = false)
    (hguard : s.settings.geometry.exitPos ≤ c.front + s.settings.geometry.exitGuard) :
    ∃ t, exec .exitEyeBreak s = .next t ∧ t.halt.state = .holding ∧ HoldsStill s t := by
  have hstill := raiseExitBlocked_holdsStill (s := setExitEye true s) hmode hrun hf
    (.ticket c.ticket) ((settleHalted_evaluates s _).trans (.still (drive_view _)))
  exact ⟨_, exitEyeBreak_blocks hrun hconv hroster hunseen hguard,
    settleHalted_holding (s := setExitEye true s) s hrun hf _, hstill.roster, hstill.machine⟩

/-- R94, R109: the pulse. -/
theorem encoderPulse_holdsStill (elapsed : Nat) (heye : s.inputs.exitEye = true)
    (hload : s.gate.state ≠ .loading) (hmeas : s.gate.state ≠ .measuring)
    (hroster : s.track.roster = older ++ c :: newer) (hseen : ∀ d ∈ older, d.exitMark = true)
    (hc : c.exitMark = false)
    (hguard : s.settings.geometry.exitPos ≤ c.front + 1 + s.settings.geometry.exitGuard)
    (hlimit : ∀ d ∈ s.track.roster, d.front < 16383)
    (htracked : ∀ d ∈ s.track.roster, s.Tracked d.ahead)
    (hclear : ∀ d ∈ s.track.roster, ¬ s.SpansExit d.ahead) :
    ∃ t, exec (.encoderPulse elapsed) s = .next t ∧ t.halt.state = .holding ∧
      HoldsStill (advanceFronts (pulsed elapsed s)) t := by
  obtain ⟨hholds, tm, hgate⟩ := pulseAtGate_blocked elapsed heye hrun hf hroster hseen hc hguard
    hlimit htracked hclear
  have hload' : (pulseAtGate elapsed s).gate.state ≠ .loading := by rw [hgate]; exact hload
  have hmeas' : (pulseAtGate elapsed s).gate.state ≠ .measuring := by rw [hgate]; exact hmeas
  refine ⟨_, exec_encoderPulse elapsed s, (hholds.ends s hload' hmeas').holding, ?_⟩
  have heval : Evaluates (raiseCause .exitBlocked (.ticket c.ticket)
      (advanceFronts (pulsed elapsed s))) (drive (settle s (gatePulse (pulseAtGate elapsed s)))) := by
    rw [gatePulse_other hload' hmeas', pulseAtGate_raises elapsed heye hroster hseen hc hguard hlimit
      hclear htracked]
    exact (((Evaluates.evaluates _).trans (.still (testSpacing_view _))).trans
      (settle_evaluates s _)).trans (.still (drive_view _))
  have hmode' : (advanceFronts (pulsed elapsed s)).mode ≠ .lockout := by
    rw [show (advanceFronts (pulsed elapsed s)).mode = s.mode by rw [pulsed_eq]; rfl]
    exact hmode
  exact raiseExitBlocked_holdsStill hmode' ((pulsed_haltState ..).trans hrun)
    (pulsed_causesFit elapsed hf) _ heval

end

/-- R109: a car whose front or rear lies outside the exit's window one pulse on. -/
theorem not_spansExit_ahead {x tx : Nat} (hx : s.settings.geometry.exitPos = x)
    (htx : s.settings.geometry.exitTol = tx)
    (h : c.exitMark = true → (c.front : Int) + 1 < (x : Int) - tx ∨
      ∃ l, c.length = some l ∧ (x : Int) + tx < (c.front : Int) + 1 - (l : Int)) :
    ¬ s.SpansExit c.ahead := by
  subst hx htx
  rintro ⟨hmark, hfront, hrear⟩
  rcases h hmark with hshort | ⟨l, hl, hbeyond⟩
  · simp only [Car.ahead] at hfront
    omega
  · simp only [Car.rear, Car.ahead, hl] at hrear
    omega

/-- R104, R142, R131: the restore that ends the hold. -/
theorem exitEyeRestore_releases (hmode : s.mode ≠ .lockout) (hhold : s.halt.state = .holding)
    (hf : s.causesFit) (hconv : s.conv.state ≠ .stopped) :
    ∃ t, exec .exitEyeRestore s = .next t ∧ t.halt.state = .running ∧
      ∀ j, (s.machine j).arm = .withdrawing → t.machine j = { s.machine j with
        advanceTimer := (s.machine j).advanceTimer.unpause
        withdrawTimer := (s.machine j).withdrawTimer.unpause } := by
  have houtlives : Outlives (setExitEye false s) (exitJudged s) :=
    (exitJudged_turning (j := 0) hconv).1
  have hhalt : (exitJudged s).halt = s.halt := houtlives.halt
  have hmode' : (exitJudged s).mode ≠ .lockout := by
    rw [houtlives.mode]
    exact hmode
  obtain ⟨hrunning, hreleased⟩ := clearExitBlocked_releases hmode' (by rw [hhalt, hhold])
    (causesFit_congr hhalt hf)
  have heval : Evaluates (clearCause .exitBlocked (exitJudged s))
      (drive (settle s (clearCause .exitBlocked (exitJudged s)))) :=
    (settle_evaluates ..).trans (.still (drive_view _))
  refine ⟨_, exec_exitEyeRestore s, ?_, fun j hback => ?_⟩
  · rw [drive_halt, settle_halt]
    exact hrunning
  · have hkept : (exitJudged s).machine j = s.machine j :=
      (exitJudged_turning hconv).2 (Or.inl hback)
    have hreleased' := hreleased j (by rw [hkept]; exact hback)
    rw [hkept] at hreleased'
    rw [heval.machine_back (Or.inl (by rw [hreleased']; exact hback)), hreleased']

/-! ## RESUME -/

section
variable (hblocked : s.hasCause .exitBlocked = false)
  (hgate : ¬ (s.gate.state = .measuring ∧ s.gate.tailgated = true))
include hblocked hgate

theorem carryOutResume_running : (carryOutResume s).halt.state = .running := by
  rw [carryOutResume_eq, fixTailgated_ledOut hblocked hgate, settle_halt, ledOut_eq hblocked,
    setHalt_halt]

variable (hchain : s.inputs.chainClosed = true)
include hchain

/-- R151: after a resume to RUNNING nothing at the end of the event moves a status. -/
theorem carryOutResume_roster (hcars : s.track.roster ≠ []) :
    (carryOutResume s).track.roster = (ledOut s).track.roster := by
  have hspares := ledOut_spares s
  rw [carryOutResume_eq, fixTailgated_ledOut hblocked hgate]
  refine settle_roster s (by rw [hspares.inputs]; exact hchain) fun hempty => hcars ?_
  have hsights := hspares.cars
  rw [hempty] at hsights
  exact List.map_eq_nil_iff.mp hsights.symm

/-- R132: every INTERRUPTED status is judged. -/
theorem carryOutResume_judges (hmode : s.mode ≠ .lockout) (hstop : s.halt.state = .stopped)
    (hconv : s.conv.state = .stopped ∨ s.conv.state = .stopping) {k : Nat}
    (hc : s.track.roster[k]? = some c) (hj : c.status j = .interrupted) :
    ∃ d, (carryOutResume s).track.roster[k]? = some d ∧ d.ticket = c.ticket ∧
      (s.windowOpen j c = false → d.status j = .missed) ∧
      (s.windowOpen j c = true → (d.status j).early) := by
  have hcars : s.track.roster ≠ [] := by
    rintro hempty
    simp [hempty] at hc
  rw [carryOutResume_roster hblocked hgate hchain hcars]
  obtain ⟨d, hd, hsight, hjudged⟩ := ledOut_judges hmode hstop hblocked hconv hc hj
  exact ⟨d, hd, ticket_of_sight hsight, hjudged⟩

end

/-- R151: the part once RESUME is answered. -/
def resumeAnswered (tag : Byte) (s : State) : State :=
  drive (setRequest .console (.replying ⟨0xA1, tag, u8 0 ++
    (u8 (hunt .console s).episodeNumber ++ u8 (hunt .console s).resumeTo.code)⟩)
    (carryOutResume (hunt .console s)))

theorem exec_resume (ht : s.takes .console) (hmode : s.mode ≠ .lockout)
    (h : (hunt .console s).resumeRefusal = none) :
    exec (.resume .console tag []) s = .next (resumeAnswered tag s) :=
  request_ok (k := .resume) ht rfl rfl (Or.inl hmode) (resumeRequest_carried h)

theorem resumeAnswered_halt (tag : Byte) (s : State) :
    (resumeAnswered tag s).halt = (carryOutResume (hunt .console s)).halt := by
  rw [resumeAnswered, drive_halt, setRequest_halt]

theorem resumeAnswered_track (tag : Byte) (s : State) :
    (resumeAnswered tag s).track = (carryOutResume (hunt .console s)).track := by
  rw [resumeAnswered, drive_track, setRequest_track]

/-- R132: the judgement of a car's INTERRUPTED status. -/
theorem judgeStations_get (j : StationIx) {k : Nat} (hc : s.track.roster[k]? = some c) :
    ∃ d, (judgeStations s).track.roster[k]? = some d ∧ d.ticket = c.ticket ∧ d.front = c.front ∧
      d.status j = (if c.status j = .interrupted then
        (if s.windowOpen j c = true then .pending else .missed) else c.status j) := by
  have hrejudged : (s.track.roster.map (s.rejudged j))[k]? = some (s.rejudged j c) := by
    rw [List.getElem?_map, hc]
    rfl
  obtain ⟨d, hd, hsight, hstatus⟩ := get_of_faces (judgeStations_faces j s) hrejudged
  rw [rejudged_sight] at hsight
  exact ⟨d, hd, ticket_of_sight hsight, front_of_sight hsight, hstatus.trans (status_rejudged ..)⟩

/-- R141: each move of the halt state makes the reaction of its kind and then an evaluation. -/
theorem setHalt_reactions (hmode : s.mode ≠ .lockout) (new : HaltState) :
    let v := demandTaken new s
    let makes (u : State) : Prop :=
      (setHalt new s).track = (evaluate u).track ∧ (setHalt new s).stn = (evaluate u).stn
    (s.halt.state ≠ .stopped → new = .stopped → makes (stopStations v)) ∧
    (s.halt.state = .running → new = .holding → makes (holdStations v)) ∧
    (s.halt.state = .stopped → new = .holding → makes (holdStations (judgeStations v))) ∧
    (s.halt.state = .stopped → new = .running → makes (judgeStations v)) ∧
    (s.halt.state = .holding → new = .running → makes (releaseStations v)) := by
  refine ⟨?_, ?_, ?_, ?_, ?_⟩
  all_goals
    rintro hold rfl
  · exact setHalt_makes (haltTaken_stops hmode hold)
  · exact setHalt_makes (haltTaken_holds hmode hold)
  · exact setHalt_makes (haltTaken_rests hmode hold)
  · exact setHalt_makes (haltTaken_resumes hmode hold)
  · exact setHalt_makes (haltTaken_releases hmode hold)

/-- Settles O50: the reactions are read off station by station; each command that moves the halt
state makes one of them, and what follows to the end of the event is evaluations. -/
theorem stationsReactToTheHaltState : Obligations.StationsReactToTheHaltState := by
  unfold Obligations.StationsReactToTheHaltState
  intro stopped pauses runsOn
  refine ⟨fun j s => ⟨stopStations_roster s, fun i => (stopStations_interrupts i s).stopped,
      ⟨_, _, pause_eq _, pause_eq _, machine_holdStations j s⟩, rfl,
      ⟨_, _, unpause_eq _, unpause_eq _, machine_releaseStations j s⟩, rfl, judgeStations_stn s,
      fun k c hc => judgeStations_get j hc⟩,
    fun new s hmode => ?_, fun s hhalt hmode hf => ⟨fun p tag hp ht => ?_, fun left htimer => ?_⟩,
    fun c rest s hrun hmode hf hconv hroster hunseen hguard => ?_, fun elapsed older newer c s => ?_,
    fun s hhold hmode hf hconv => ?_,
    fun tag s ht hmode hstop hmoved hchain hdrive hstuck hblocked hconv hgate => ?_⟩
  · intro t v makes
    have hv : v = demandTaken new s := (demandTaken_eq new s).symm
    refine ⟨setHalt_halt new s, ?_⟩
    rw [hv]
    exact setHalt_reactions hmode new
  · exact ⟨_, exec_halt hp ht hmode, haltAnswered_stopped hf p tag,
      fun j => (haltAnswered_interrupts hf hmode hhalt p tag j).stopped⟩
  · refine ⟨_, exec_mismatchTimerExpiry hmode htimer, ?_,
      fun j => (enterLockout_interrupts hmode hhalt (.still (drive_view _)) j).stopped⟩
    rw [drive_mode]
    exact enterLockout_mode hmode hhalt
  · obtain ⟨t, hexec, hholding, hstill⟩ :=
      exitEyeBreak_holdsStill hmode hrun hf hconv hroster hunseen hguard
    exact ⟨t, hexec, hholding, hstill.roster, hstill.pauses⟩
  · intro x tx heye hrun hmode hf hload hmeas hroster hseen hc hguard hcars
    have hlimit : ∀ d ∈ s.track.roster, d.front < 16383 := fun d hd => (hcars d hd).1
    have htracked : ∀ d ∈ s.track.roster, s.Tracked d.ahead := fun d hd => by
      obtain ⟨-, hexit, -, hcheck⟩ := hcars d hd
      exact ⟨hexit, hcheck⟩
    have hclear : ∀ d ∈ s.track.roster, ¬ s.SpansExit d.ahead := fun d hd => by
      obtain ⟨-, -, hpast, -⟩ := hcars d hd
      exact not_spansExit_ahead rfl rfl hpast
    obtain ⟨t, hexec, hholding, hstill⟩ := encoderPulse_holdsStill hmode hrun hf elapsed heye hload
      hmeas hroster hseen hc hguard hlimit htracked hclear
    refine ⟨t, hexec, hholding, fun j => ⟨?_, ?_⟩⟩
    · have hpauses := hstill.pauses j
      rw [machine_advance] at hpauses
      exact hpauses
    · rw [hstill.roster, advanceFronts_roster (by simpa using hlimit), pulsed_track, statuses_ahead]
  · obtain ⟨t, hexec, hrunning, hreleased⟩ := exitEyeRestore_releases hmode hhold hf hconv
    refine ⟨t, hexec, hrunning, fun j left hback hadvance htimer => ?_⟩
    rw [hreleased j hback]
    simp [hadvance, htimer, Timer.unpause]
  · have hrefusal : (hunt .console s).resumeRefusal = none :=
      resumeRefusal_eq_none hstop hmoved hchain hdrive hstuck
    refine ⟨_, exec_resume ht hmode hrefusal, ?_, fun j k c hc hj => ?_⟩
    · rw [resumeAnswered_halt]
      exact carryOutResume_running (s := hunt .console s) hblocked hgate
    · rw [resumeAnswered_track]
      exact carryOutResume_judges (s := hunt .console s) hblocked hgate hchain hmode hstop hconv hc hj

end Sys2Proof.Machine
end

section
/-! # Halts: the cause set and the history agree with the halt state (R140, R143, R146)

What a raised cause, a cleared cause and a RESUME do to the three halt records, and that no other
part of a command writes them. -/

namespace Sys2Proof.Machine

variable {s t : State} {c d : Cause} {new : HaltState}

/-! ## The records by themselves -/

/-- R140, R143, R146: the cause set and the history agree with the halt state. -/
def State.haltFits (s : State) : Prop := s.causesFit ∧ s.episodesFit

/-- The records that haltFits reads. -/
def haltView (s : State) := (s.halt.state, s.halt.causes, s.halt.history)

theorem episodesFit_congr (hstate : t.halt.state = s.halt.state)
    (hhistory : t.halt.history = s.halt.history) (h : s.episodesFit) : t.episodesFit := by
  rw [State.episodesFit, hstate, hhistory]
  exact h

theorem haltFits_congr (h : haltView t = haltView s) (hs : s.haltFits) : t.haltFits := by
  simp only [haltView, Prod.mk.injEq] at h
  obtain ⟨hstate, hcauses, hhistory⟩ := h
  refine ⟨?_, episodesFit_congr hstate hhistory hs.2⟩
  rw [State.causesFit, hstate, hcauses]
  exact hs.1

/-- R143, R146: the history that fits, by its head and the older records. -/
theorem episodesFit_iff : s.episodesFit ↔ ∃ ep older, s.halt.history = ep :: older ∧
    older.length < 4 ∧ (ep.closing = none ↔ s.halt.state ≠ .running) ∧
    ∀ e ∈ older, e.closing ≠ none := by
  rw [State.episodesFit]
  cases hhistory : s.halt.history with
  | nil => simp
  | cons ep older => simp [Config.historyMax, Nat.lt_succ_iff]

/-- R140: EXIT_BLOCKED is the one HOLD cause. -/
theorem exitBlocked_of_hold (h : c.isStop = false) : c = .exitBlocked := by
  revert h
  cases c <;> decide

/-! ## A raised cause (R140, R143, R144) -/

/-- R143, R146: under RUNNING every record is closed, and a new open one joins at the head. -/
theorem openEpisode_episodesFit (hrun : s.halt.state = .running) (he : s.episodesFit)
    (hnew : new ≠ .running) (c : Cause) (subj : Subject) :
    (setHalt new (openEpisode c subj s)).episodesFit := by
  obtain ⟨ep, older, hhistory, -, hhead, holder⟩ := episodesFit_iff.mp he
  have hclosed : ∀ e ∈ s.halt.history, e.closing ≠ none := by
    rw [hhistory]
    exact List.forall_mem_cons.mpr ⟨fun hnone => hhead.mp hnone hrun, holder⟩
  rw [episodesFit_iff, setHalt_halt]
  exact ⟨_, s.halt.history.take 3, rfl, Nat.lt_succ_of_le (List.length_take_le _ _),
    ⟨fun _ => hnew, fun _ => rfl⟩, fun e hmem => hclosed e (List.mem_of_mem_take hmem)⟩

/-- R144: a cause that joins the open episode leaves its number, its end and the older records. -/
theorem joinEpisode_episodesFit (c : Cause) (he : s.episodesFit) :
    (joinEpisode c s).episodesFit := by
  obtain ⟨ep, older, hhistory, hrest⟩ := episodesFit_iff.mp he
  unfold joinEpisode
  simp only [hhistory]
  split
  · exact episodesFit_iff.mpr ⟨_, older, rfl, hrest⟩
  · exact he

/-- R143: a move between HOLDING and STOPPED keeps the episode open. -/
theorem setHalt_episodesFit (hnew : new ≠ .running) (hs : s.halt.state ≠ .running)
    (he : s.episodesFit) : (setHalt new s).episodesFit := by
  obtain ⟨ep, older, hhistory, hlen, hhead, holder⟩ := episodesFit_iff.mp he
  rw [episodesFit_iff, setHalt_halt]
  exact ⟨ep, older, hhistory, hlen, ⟨fun _ => hnew, fun _ => hhead.mpr hs⟩, holder⟩

theorem raiseCause_episodesFit (c : Cause) (subj : Subject) (he : s.episodesFit) :
    (raiseCause c subj s).episodesFit :=
  raiseCause_cases (fun _ => he)
    (fun hrun => openEpisode_episodesFit (s := withCause c s) hrun he (by split <;> simp) c subj)
    (fun hhold _ => setHalt_episodesFit (by simp)
      (by rw [(joinEpisode_leaves ..).2.1]; simp [withCause, hhold])
      (joinEpisode_episodesFit (s := withCause c s) c he))
    fun _ _ => joinEpisode_episodesFit (s := withCause c s) c he

/-- R140: in RUNNING a HOLD cause joins the empty set; in HOLDING it is the one that stands there. -/
theorem raiseCause_causesFit (c : Cause) (subj : Subject) (hf : s.causesFit) :
    (raiseCause c subj s).causesFit := by
  cases hstop : c.isStop with
  | true => exact causesFit_of_stopped (raiseCause_stops hf hstop subj)
  | false =>
    obtain rfl := exitBlocked_of_hold hstop
    refine raiseCause_cases (motive := State.causesFit) (fun _ => hf) (fun hrun => ?_)
      (fun _ h => absurd h (by simp [hstop])) (fun hmoving _ => ?_)
    · have hcauses : (withCause .exitBlocked s).halt.causes = Set16.single Cause.exitBlocked.code := by
        show Set16.insert s.halt.causes Cause.exitBlocked.code = _
        rw [hf.1 hrun]
        decide
      rw [State.causesFit, setHalt_halt]
      exact ⟨fun h => by simp [hstop] at h, fun _ => hcauses⟩
    · obtain ⟨-, hstate, hcauses⟩ := joinEpisode_leaves .exitBlocked (withCause .exitBlocked s)
      rw [State.causesFit, hstate, hcauses]
      refine ⟨fun hrun => absurd hrun hmoving, fun hhold => ?_⟩
      show Set16.insert s.halt.causes Cause.exitBlocked.code = _
      rw [hf.2 hhold]
      decide

/-! ## The end of a halt (R142, R145, R151) -/

/-- R145: with the episode closed the tunnel may run. -/
theorem closeEpisode_episodesFit (b : EndedBy) (hs : s.halt.state ≠ .running)
    (he : s.episodesFit) : (setHalt .running (closeEpisode b s)).episodesFit := by
  obtain ⟨ep, older, hhistory, hlen, hhead, holder⟩ := episodesFit_iff.mp he
  have hclosed := closeEpisode_history b hhistory (hhead.mpr hs)
  rw [episodesFit_iff, setHalt_halt]
  exact ⟨_, older, hclosed, hlen, by simp, holder⟩

theorem clearCause_episodesFit (d : Cause) (he : s.episodesFit) : (clearCause d s).episodesFit :=
  clearCause_cases (fun _ => he)
    (fun hhold _ => closeEpisode_episodesFit (s := withoutCause d s) .auto
      (by simp [withoutCause, hhold]) he)
    fun _ => he

/-- R142: what leaves the set in HOLDING is the last cause. -/
theorem clearCause_causesFit (d : Cause) (hf : s.causesFit) : (clearCause d s).causesFit := by
  refine clearCause_cases (motive := State.causesFit) (fun _ => hf) (fun _ hlast => ?_)
    (fun hleft => ⟨fun hrun => ?_, fun hhold => ?_⟩)
  · rw [State.causesFit, setHalt_halt]
    exact ⟨fun _ => (closeEpisode_causes .auto _).trans hlast, nofun⟩
  · show Set16.erase s.halt.causes d.code = 0
    rw [hf.1 hrun]
    cases d <;> decide
  · have hleft' : Set16.erase s.halt.causes d.code ≠ 0 := fun hlast => hleft ⟨hhold, hlast⟩
    show Set16.erase s.halt.causes d.code = _
    rw [hf.2 hhold] at hleft' ⊢
    revert hleft'
    cases d <;> decide

/-- R151: a RESUME leaves EXIT_BLOCKED alone, where it is present. -/
theorem heldCauses_eq (s : State) : s.heldCauses =
    if s.hasCause .exitBlocked then Set16.single Cause.exitBlocked.code else 0 :=
  BitVec.and_twoPow s.halt.causes Cause.exitBlocked.code

/-- R151: the STOP causes have left the set. -/
def keepHeld (s : State) : State := { s with halt := { s.halt with causes := s.heldCauses } }

theorem resumes_haltFits (hstop : s.halt.state = .stopped) (h : s.haltFits) :
    (setHalt s.resumeTo
      (if s.resumeTo = .running then closeEpisode .console (keepHeld s) else keepHeld s)).haltFits := by
  have hheld := heldCauses_eq s
  have hmoving : (keepHeld s).halt.state ≠ .running := by simp [keepHeld, hstop]
  have he : (keepHeld s).episodesFit := h.2
  cases hblocked : s.hasCause .exitBlocked with
  | true =>
    have hto : s.resumeTo = .holding := if_pos hblocked
    rw [hto, if_neg (by simp)]
    refine ⟨?_, setHalt_episodesFit (by simp) hmoving he⟩
    rw [State.causesFit, setHalt_halt]
    exact ⟨nofun, fun _ => hheld.trans (if_pos hblocked)⟩
  | false =>
    have hto : s.resumeTo = .running := if_neg (by simp [hblocked])
    rw [hto, if_pos rfl]
    refine ⟨?_, closeEpisode_episodesFit .console hmoving he⟩
    rw [State.causesFit, setHalt_halt]
    exact ⟨fun _ => (closeEpisode_causes ..).trans (hheld.trans (if_neg (by simp [hblocked]))), nofun⟩

/-! ## Every step keeps them -/

theorem testDemand_haltView (s : State) : haltView (testDemand s) = haltView s := by
  rw [haltView, testDemand_halt, haltView]

theorem Reacts.haltFits (h : Reacts s t) : s.haltFits → t.haltFits := by
  induction h with
  | @quiet s t h =>
    have hhalt : t.halt = s.halt := congrArg Prod.fst h
    exact haltFits_congr (by rw [haltView, hhalt, haltView])
  | trans _ _ h k => exact k ∘ h
  | notice p n s => exact id
  | demand s => exact haltFits_congr (testDemand_haltView s)
  | unpark s => exact id
  | drained s _ => exact haltFits_congr (testDemand_haltView { s with mode := .closed })
  | cause c subj s =>
    exact fun h => ⟨raiseCause_causesFit c subj h.1, raiseCause_episodesFit c subj h.2⟩
  | clear c s => exact fun h => ⟨clearCause_causesFit c h.1, clearCause_episodesFit c h.2⟩

/-- R158: episode 1, opened by POWER_UP. -/
theorem resetRecords_haltFits (s : State) : (resetRecords s).haltFits := by
  have hhalt : (resetRecords s).halt = Halt.start := by
    unfold resetRecords
    dsimp only
    split <;> rfl
  rw [State.haltFits, State.causesFit, State.episodesFit, hhalt]
  decide

theorem testMismatch_haltView (s : State) : haltView (testMismatch s) = haltView s := by
  unfold testMismatch
  repeat' split
  all_goals rfl

theorem deviceReset_haltFits (s : State) : (deviceReset s).haltFits := by
  have hstart := (startCauses_reacts (resetRecords (abandonSave s))).trans
    (Reacts.foldl (fun s j => startMachine_reacts j s) stationIxs _)
  exact (raiseAll_reacts (.halt .powerUp 1) _).haltFits
    (haltFits_congr (testMismatch_haltView _) (hstart.haltFits (resetRecords_haltFits _)))

theorem Does.haltFits (h : Does s t) : s.haltFits → t.haltFits := by
  induction h with
  | reacts h => exact h.haltFits
  | trans _ _ h k => exact k ∘ h
  | chain b s => exact haltFits_congr (testDemand_haltView _)
  | opens s _ => exact haltFits_congr (testDemand_haltView _)
  | lockout s => exact haltFits_congr (testDemand_haltView _)
  | parks s => exact haltFits_congr (testDemand_haltView _)
  | resumes s hstop => exact resumes_haltFits hstop
  | resets s => exact fun _ => deviceReset_haltFits s
  | _ => exact id

/-- Settles O59: the three records over what a command is made of; only a cause, its end, a RESUME
and a device reset write them. -/
theorem theHaltRecordsStayInAgreement : Obligations.TheHaltRecordsStayInAgreement := by
  unfold Obligations.TheHaltRecordsStayInAgreement
  intro s t hcauses hepisodes hstep
  have hfits : s.haltFits := ⟨hcauses, hepisodes⟩
  unfold step at hstep
  split at hstep
  · obtain rfl : advance 1 s = t := by simpa using hstep
    exact (Does.time 1 s).haltFits hfits
  · next c rest _ =>
    obtain ⟨u, hexec, hdoes⟩ := exec_does c { s with pending := rest }
    obtain rfl : drive u = t := by simpa using hexec.symm.trans hstep
    exact hdoes.haltFits hfits

end Sys2Proof.Machine
end

section
/-! # Halts: a raised cause (R139, R140, R143, R144, R147) -/

namespace Sys2Proof.Machine

variable {s t : State} {c : Cause} {subj : Subject} {ep : Episode} {older : List Episode}

/-! ## Notices to all ports (R147, R184) -/

/-- R147: a notice to all ports is pending at each. -/
theorem mem_notices_raiseAll (x : Notice) (s : State) (p : Port) :
    x ∈ ((raiseAll x s).port p).notices := by
  have hport : ((raiseAll x s).port p).notices = addNotice x (s.port p).notices := by
    simp [raiseAll, State.port, vmap_getElem]
  rw [hport]
  exact mem_addNotice x _

theorem ports_of_frame (h : t.frame = s.frame) : t.ports = s.ports :=
  congrArg (fun x => x.2.2.2.2.2.2.1) h

/-- R141: a move of the halt state raises no notice by itself. -/
theorem setHalt_ports (new : HaltState) (s : State) : (setHalt new s).ports = s.ports := by
  have hframe : (setHalt new s).frame = (testDemand (moveHalt new s)).frame :=
    (gateHaltChange_frame _).trans (stationsHaltChange_frame ..)
  have hdemand : (testDemand (moveHalt new s)).ports = s.ports := by rw [testDemand_eq]; rfl
  exact (ports_of_frame hframe).trans hdemand

/-! ## What a raised cause does, by the halt state (R140) -/

theorem isStop_of_ne (h : c ≠ .exitBlocked) : c.isStop = true := bne_iff_ne.mpr h

theorem raiseCause_present (h : s.hasCause c = true) : raiseCause c subj s = s := if_pos h

section
variable (habsent : s.hasCause c = false)
include habsent

theorem raiseCause_running (h : s.halt.state = .running) : raiseCause c subj s =
    setHalt (if c.isStop then .stopped else .holding) (openEpisode c subj (withCause c s)) := by
  simp [raiseCause, habsent, h, withCause]

/-! ## The set, the halt state and the episode -/

/-- R139: a new cause joins the set. -/
theorem raiseCause_joins_causes (subj : Subject) :
    (raiseCause c subj s).halt.causes = Set16.insert s.halt.causes c.code :=
  raiseCause_cases (motive := fun t => t.halt.causes = _) (fun h => by simp [habsent] at h)
    (fun _ => congrArg Halt.causes (setHalt_halt ..))
    (fun _ _ => (congrArg Halt.causes (setHalt_halt ..)).trans (joinEpisode_leaves ..).2.2)
    fun _ _ => (joinEpisode_leaves ..).2.2

/-- R140: the halt state after a new cause. -/
theorem raiseCause_state (subj : Subject) : (raiseCause c subj s).halt.state =
    if c.isStop then .stopped else if s.halt.state = .running then .holding else s.halt.state := by
  have hjoined : (joinEpisode c (withCause c s)).halt.state = s.halt.state :=
    (joinEpisode_leaves ..).2.1
  refine raiseCause_cases (motive := fun t => t.halt.state = _) (fun h => by simp [habsent] at h)
    (fun hrun => ?_) (fun _ hstop => ?_) (fun hmoving hhold => ?_)
  · rw [setHalt_halt, if_pos hrun]
  · rw [setHalt_halt, if_pos hstop]
  · rw [hjoined, if_neg hmoving]
    cases hstate : s.halt.state with
    | running => exact absurd hstate hmoving
    | holding => rw [hhold hstate]; rfl
    | stopped => exact (ite_self _).symm

/-- R143, R147: the episode that a cause opens. -/
theorem raiseCause_opening (hrun : s.halt.state = .running) (subj : Subject) :
    let n := (s.halt.counter + 1) % 256
    (raiseCause c subj s).halt.counter = n ∧
    (raiseCause c subj s).halt.history = ((⟨n, c, 0, s.sales.clock.stamp, s.conv.pulseTotal, subj,
      none⟩ : Episode) :: s.halt.history).take 4 ∧
    ∀ p : Port, .halt c n ∈ ((raiseCause c subj s).port p).notices := by
  intro n
  rw [raiseCause_running habsent hrun, setHalt_halt]
  refine ⟨rfl, rfl, fun p => ?_⟩
  rw [State.port, setHalt_ports]
  exact mem_notices_raiseAll (.halt c n) _ p

/-- R144, R147: a cause that joins the open episode writes its further causes alone, and raises no
notice. -/
theorem raiseCause_joined (hmoving : s.halt.state ≠ .running) (h : s.halt.history = ep :: older)
    (hopen : ep.closing = none) (subj : Subject) :
    (raiseCause c subj s).halt.history = (if ep.first = c then ep else
      { ep with further := Set16.insert ep.further c.code }) :: older ∧
    (raiseCause c subj s).ports = s.ports ∧
    (raiseCause c subj s).halt.counter = s.halt.counter := by
  have hjoin : (joinEpisode c (withCause c s)).halt.history = (if ep.first = c then ep else
        { ep with further := Set16.insert ep.further c.code }) :: older ∧
      (joinEpisode c (withCause c s)).ports = s.ports ∧
      (joinEpisode c (withCause c s)).halt.counter = s.halt.counter := by
    by_cases hfirst : ep.first = c <;> simp [joinEpisode, withCause, h, hopen, hfirst]
  obtain ⟨hhistory, hports, hcounter⟩ := hjoin
  refine raiseCause_cases (motive := fun t => t.halt.history = _ ∧ t.ports = _ ∧
    t.halt.counter = _) (fun h => by simp [habsent] at h) (fun hrun => absurd hrun hmoving)
    (fun _ _ => ?_) (fun _ _ => ⟨hhistory, hports, hcounter⟩)
  rw [setHalt_halt, setHalt_ports]
  exact ⟨hhistory, hports, hcounter⟩

end

/-- Settles O49: a cause that is present changes nothing; a new one by the halt state it finds. -/
theorem causesMoveTheHaltState : Obligations.CausesMoveTheHaltState := by
  unfold Obligations.CausesMoveTheHaltState
  intro c subj s t
  refine ⟨raiseCause_present, fun habsent => ?_⟩
  have hstate : t.halt.state = _ := raiseCause_state habsent subj
  refine ⟨raiseCause_joins_causes habsent subj, fun hstop => ?_, fun hhold => ?_,
    fun hrun => raiseCause_opening habsent hrun subj,
    fun ep older hmoving h hopen => raiseCause_joined habsent hmoving h hopen subj⟩
  · rw [hstate, if_pos (isStop_of_ne hstop)]
  · rw [hstate, hhold]
    rfl

end Sys2Proof.Machine
end

section
/-! # Halts: the notices that outlast an event (R147, R163, R184)

The tests that end an event raise GATE_HOLD and CLOSE_DONE alone, so every other notice that is pending
before them is pending after them. -/

namespace Sys2Proof.Machine

variable {s t u : State} {x n : Notice}

/-- R184: a notice is replaced only by one of its kind. -/
theorem mem_addNotice_of_mem (hkind : x.kind ≠ n.kind) :
    ∀ {l : List Notice}, x ∈ l → x ∈ addNotice n l
  | y :: l, h => by
    unfold addNotice
    split
    · exact List.mem_cons_of_mem _ h
    · rcases List.mem_cons.mp h with rfl | hl
      · split
        · next hsame => exact absurd hsame.symm hkind
        · exact List.mem_cons_self
      · split
        · exact List.mem_cons_of_mem _ hl
        · exact List.mem_cons_of_mem _ (mem_addNotice_of_mem hkind hl)

/-- The notice stays pending at every port that holds it. -/
def KeepsNotice (x : Notice) (s t : State) : Prop :=
  ∀ p : Port, x ∈ (s.port p).notices → x ∈ (t.port p).notices

theorem KeepsNotice.of_ports (h : t.ports = s.ports) : KeepsNotice x s t := fun p hx => by
  rw [State.port, h]
  exact hx

theorem KeepsNotice.trans (h : KeepsNotice x s t) (k : KeepsNotice x t u) : KeepsNotice x s u :=
  fun p => k p ∘ h p

theorem raiseTo_keepsNotice (hkind : x.kind ≠ n.kind) (p : Port) (s : State) :
    KeepsNotice x s (raiseTo p n s) := fun q hx => by
  by_cases hq : p = q
  · subst hq
    rw [raiseTo, port_setPort_same]
    exact mem_addNotice_of_mem hkind hx
  · rwa [port_raiseTo_other hq]

/-- R51, R53, R162: a notice of a kind that no event ends with. -/
structure Notice.Outlasts (x : Notice) : Prop where
  gateHold : ∀ r n, x.kind ≠ (Notice.gateHold r n).kind
  closeDone : x.kind ≠ Notice.closeDone.kind

theorem halt_of_frame (h : t.frame = s.frame) : t.halt = s.halt := congrArg Prod.fst h

theorem testDemand_ports (s : State) : (testDemand s).ports = s.ports := by rw [testDemand_eq]

theorem retestDemand_ports (s : State) : (retestDemand s).ports = s.ports :=
  (ports_of_frame (evalIfPaceMoved_frame s _)).trans (testDemand_ports s)

theorem testIdleOnce_keepsNotice (hx : x.Outlasts) (s : State) :
    KeepsNotice x s (testIdleOnce s) := by
  have hhold : ∀ r m v, KeepsNotice x v (holdGate r m v) := fun r m v =>
    raiseTo_keepsNotice (hx.gateHold r m) .console { v with gate := { v.gate with state := .held r } }
  have hquiet : ∀ {v w : State}, w.frame = v.frame → KeepsNotice x v w :=
    fun h => .of_ports (ports_of_frame h)
  unfold testIdleOnce
  repeat' split
  · exact hquiet rfl
  · exact hhold _ _ _
  · exact hquiet rfl
  · exact KeepsNotice.trans (hquiet (takeHead_frame ..)) (hhold _ _ _)
  · exact hquiet ((enterOffer_frame _).trans (takeHead_frame ..))
  · exact .of_ports (retestDemand_ports (unparked s))
  · exact hquiet rfl
  · exact hquiet rfl

theorem testDrain_keepsNotice (hx : x.Outlasts) (s : State) : KeepsNotice x s (testDrain s) := by
  unfold testDrain
  split
  · exact (raiseTo_keepsNotice hx.closeDone .site { s with mode := .closed }).trans
      (.of_ports (retestDemand_ports _))
  · exact .of_ports rfl

theorem settle_keepsNotice (hx : x.Outlasts) (b s : State) : KeepsNotice x s (settle b s) :=
  (((testIdleOnce_keepsNotice hx s).trans (testIdleOnce_keepsNotice hx _)).trans
    (testDrain_keepsNotice hx _)).trans (.of_ports (ports_of_frame (testPark_frame b _)))

theorem resumed_outlasts (n : Nat) : (Notice.resumed n).Outlasts :=
  ⟨fun _ _ => by simp [Notice.kind], by simp [Notice.kind]⟩

theorem lockout_outlasts : Notice.lockout.Outlasts :=
  ⟨fun _ _ => by simp [Notice.kind], by simp [Notice.kind]⟩

end Sys2Proof.Machine
end

section
/-! # Halts: HALT and RESUME (R149 to R151) -/

namespace Sys2Proof.Machine

variable {s t : State} {p : Port} {tag : Byte} {ep : Episode} {older : List Episode}

/-! ## HALT (R149) -/

theorem haltCause_eq (hp : p = .console ∨ p = .site) :
    haltCause p = if p = .console then .consoleStop else .siteStop := by
  rcases hp with rfl | rfl <;> rfl

/-- R149: the halt unit after a HALT is what the cause makes of it. -/
theorem haltRequest_halt (p : Port) (s : State) :
    (haltRequest p s).2.halt = (raiseCause (haltCause p) .none s).halt := settleHalted_halt ..

/-- R149: HALT stops the tunnel under its cause, within an open episode. -/
theorem haltRequest_stops (p : Port) (hf : s.causesFit) (he : s.episodesFit) :
    (haltRequest p s).2.halt.state = .stopped ∧
      (haltRequest p s).2.hasCause (haltCause p) = true ∧
      ∃ ep older, (haltRequest p s).2.halt.history = ep :: older ∧ ep.closing = none := by
  have hstop := raiseCause_stops hf (haltCause_isStop p) .none
  obtain ⟨ep, older, hhistory, -, hhead, -⟩ :=
    episodesFit_iff.mp (raiseCause_episodesFit (haltCause p) .none he)
  rw [State.hasCause, haltRequest_halt]
  exact ⟨hstop, (raiseCause_causes ..).1, ep, older, hhistory, hhead.mpr (by simp [hstop])⟩

theorem episodeNumber_of_history (h : s.halt.history = ep :: older) :
    s.episodeNumber = ep.number := by
  rw [State.episodeNumber, h]

/-- R149: HALT as a command. -/
theorem exec_halt_stops (hp : p = .console ∨ p = .site) (ht : s.takes p) (hmode : s.mode ≠ .lockout)
    (hf : s.causesFit) (he : s.episodesFit) (tag : Byte) : ∃ t ep older,
      exec (.halt p tag []) s = .next t ∧ t.halt.history = ep :: older ∧ ep.closing = none ∧
      (t.port p).request = .replying ⟨0xA0, tag, u8 0 ++ (u8 2 ++ u8 ep.number)⟩ ∧
      t.halt.state = .stopped ∧
      t.hasCause (if p = .console then .consoleStop else .siteStop) = true := by
  obtain ⟨hstop, hcause, ep, older, hhistory, hopen⟩ :=
    haltRequest_stops (s := hunt p s) p hf he
  refine ⟨_, ep, older, exec_halt hp ht hmode, hhistory, hopen, ?_, hstop, ?_⟩
  · rw [haltAnswered, request_replied, hstop, episodeNumber_of_history hhistory]
    rfl
  · rw [← haltCause_eq hp]
    exact hcause

/-! ## RESUME refused (R150) -/

/-- R150: a cause is present that a RESUME cannot take out. -/
def State.condStands (s : State) : Prop :=
  s.inputs.chainClosed = false ∨ s.inputs.driveFault = true ∨ s.hasCause .armStuck = true

theorem resumeRefusal_moving (h : s.halt.state ≠ .stopped) :
    s.resumeRefusal = some .wrongState := if_pos h

theorem resumeRefusal_moved (hstop : s.halt.state = .stopped) (h : s.track.moved = true) :
    s.resumeRefusal = some .unconfirmed := by
  simp [State.resumeRefusal, hstop, h]

theorem resumeRefusal_stands (hstop : s.halt.state = .stopped) (hmoved : s.track.moved = false)
    (h : s.condStands) : s.resumeRefusal = some .causePresent := by
  rcases h with h | h | h <;> simp [State.resumeRefusal, hstop, hmoved, h]

theorem resumeRefusal_clear (hstop : s.halt.state = .stopped) (hmoved : s.track.moved = false)
    (h : ¬ s.condStands) : s.resumeRefusal = none := by
  simp only [State.condStands, not_or, Bool.not_eq_false, Bool.not_eq_true] at h
  obtain ⟨hchain, hdrive, hstuck⟩ := h
  exact resumeRefusal_eq_none hstop hmoved hchain hdrive hstuck

/-- R150: a refused RESUME changes nothing but the receiver. -/
theorem exec_resume_refused (ht : s.takes .console) (hmode : s.mode ≠ .lockout) {st : Status}
    (h : s.resumeRefusal = some st) : exec (.resume .console tag []) s =
      answered .console 0x21 tag st [] (hunt .console s) := by
  have hrefused : resumeRequest (hunt .console s) = (refuse st, hunt .console s) := by
    have hhunt : (hunt .console s).resumeRefusal = some st := h
    simp [resumeRequest, hhunt]
  exact request_refused (k := .resume) ht rfl rfl (Or.inl hmode) hrefused

/-! ## A tailgated length after RESUME (R59, R109) -/

/-- R59: a RESUME fixes no length, or the tailgated car's. -/
theorem fixTailgated_cases {motive : State → Prop} (untouched : motive s)
    (fixed : motive (rosterChanged (lengthFixed s.settings.timing.maxLen false s))) :
    motive (fixTailgated s) := by
  unfold fixTailgated
  split
  · exact fixed
  · exact untouched

/-- R109: with the exit eye clear, or EXIT_BLOCKED present, the exit blocked test changes nothing. -/
theorem testExitBlocked_quiet (h : s.inputs.exitEye = false ∨ s.hasCause .exitBlocked = true) :
    testExitBlocked s = s := by
  rcases h with heye | hpresent
  · exact testExitBlocked_restored heye
  · unfold testExitBlocked
    split
    · exact raiseCause_present hpresent
    · rfl

/-- R58: a fixed length writes the roster and the gate alone. -/
theorem lengthFixed_frame (len : Nat) (short : Bool) (s : State) :
    (lengthFixed len short s).frame = s.frame := rfl

theorem fixTailgated_quiet (h : s.inputs.exitEye = false ∨ s.hasCause .exitBlocked = true) :
    (fixTailgated s).halt = s.halt ∧ (fixTailgated s).ports = s.ports := by
  refine fixTailgated_cases (motive := fun t => t.halt = s.halt ∧ t.ports = s.ports) ⟨rfl, rfl⟩ ?_
  have hframe : (rosterChanged (lengthFixed s.settings.timing.maxLen false s)).frame = s.frame := by
    rw [rosterChanged, testExitBlocked_quiet (s := lengthFixed _ false s) h, testSpacing_frame,
      evaluate_frame, lengthFixed_frame]
  exact ⟨halt_of_frame hframe, ports_of_frame hframe⟩

theorem rosterChanged_jog (s : State) : (rosterChanged s).stn.jog = s.stn.jog := by
  have hblocked : (testExitBlocked s).stn.jog = s.stn.jog := by
    unfold testExitBlocked
    split
    · exact (raiseCause_works ..).jog
    · rfl
  have hspacing : ∀ u, (testSpacing u).stn = u.stn := fun u => by
    unfold testSpacing
    split <;> rfl
  rw [rosterChanged, hspacing, evaluate_jog, hblocked]

theorem fixTailgated_keeps (s : State) : (fixTailgated s).stn.jog = s.stn.jog ∧
    (fixTailgated s).track.moved = s.track.moved :=
  fixTailgated_cases (motive := fun t => t.stn.jog = s.stn.jog ∧ t.track.moved = s.track.moved)
    ⟨rfl, rfl⟩ ⟨rosterChanged_jog _, (rosterChanged_keepsStop _).moved⟩

/-! ## RESUME carried out (R151) -/

/-- R136, R151: a RESUME ends a jog. -/
theorem ledOut_jog (s : State) : (ledOut s).stn.jog = none := by
  have hclosed : ∀ b u, (closeEpisode b u).stn = u.stn := fun b u =>
    (yardView_iff.mp (closeEpisode_yard b u)).2.1
  unfold ledOut
  rw [(setHalt_works ..).jog]
  split
  · rw [hclosed]
    rfl
  · rfl

theorem carryOutResume_keeps (s : State) : (carryOutResume s).stn.jog = none ∧
    (carryOutResume s).track.moved = s.track.moved := by
  obtain ⟨hjog, hmoved⟩ := fixTailgated_keeps (ledOut s)
  rw [carryOutResume_eq, (settle_evaluates ..).works.jog, hjog, ledOut_jog,
    (settle_keepsStop ..).moved, hmoved, (ledOut_spares s).moved]
  exact ⟨rfl, rfl⟩

/-- R145, R147: the episode that a RESUME to RUNNING closes. -/
theorem resumed_closes (hhistory : s.halt.history = ep :: older) (hopen : ep.closing = none) :
    (resumed s).halt = { s.halt with
      causes := s.heldCauses
      history := { ep with closing := some (s.sales.clock.stamp, .console) } :: older } ∧
    ∀ q : Port, .resumed ep.number ∈ ((resumed s).port q).notices := by
  have hclosed : resumed s = raiseAll (.resumed ep.number) { endJog s with halt := { s.halt with
      causes := s.heldCauses
      history := { ep with closing := some (s.sales.clock.stamp, .console) } :: older } } := by
    simp [resumed, closeEpisode, hhistory, hopen, endJog, State.stamp]
  rw [hclosed]
  exact ⟨rfl, mem_notices_raiseAll (.resumed ep.number) _⟩

/-- R151: with EXIT_BLOCKED present a RESUME leads to HOLDING, within the open episode. -/
theorem carryOutResume_holds (hblocked : s.hasCause .exitBlocked = true) :
    (carryOutResume s).halt.state = .holding ∧
      (carryOutResume s).halt.causes = Set16.single Cause.exitBlocked.code ∧
      (carryOutResume s).halt.history = s.halt.history := by
  have hto : s.resumeTo = .holding := if_pos hblocked
  have hcauses : s.heldCauses = Set16.single Cause.exitBlocked.code :=
    (heldCauses_eq s).trans (if_pos hblocked)
  have hled : (ledOut s).halt = { s.halt with
      state := .holding, causes := Set16.single Cause.exitBlocked.code } := by
    rw [ledOut, hto, if_neg (by simp), setHalt_halt, hcauses]
  have hpresent : (ledOut s).hasCause .exitBlocked = true := by
    rw [State.hasCause, hled]
    show Set16.has (Set16.single Cause.exitBlocked.code) Cause.exitBlocked.code = true
    decide
  rw [carryOutResume_eq, settle_halt, (fixTailgated_quiet (Or.inr hpresent)).1, hled]
  exact ⟨rfl, rfl, rfl⟩

/-- R151, R145: without it the tunnel runs, and CONSOLE ends the episode. -/
theorem carryOutResume_runs (hhistory : s.halt.history = ep :: older) (hopen : ep.closing = none)
    (hblocked : s.hasCause .exitBlocked = false)
    (heye : s.inputs.exitEye = false) : (carryOutResume s).halt.state = .running ∧
      (carryOutResume s).halt.causes = 0 ∧
      (carryOutResume s).halt.history =
        { ep with closing := some (s.sales.clock.stamp, .console) } :: older ∧
      ∀ q : Port, .resumed ep.number ∈ ((carryOutResume s).port q).notices := by
  have hcauses : s.heldCauses = 0 := (heldCauses_eq s).trans (if_neg (by simp [hblocked]))
  obtain ⟨hhalt, hnotice⟩ := resumed_closes hhistory hopen
  have hled := ledOut_eq hblocked
  have heye' : (ledOut s).inputs.exitEye = false := by rw [(ledOut_spares s).inputs, heye]
  obtain ⟨hfixed, hports⟩ := fixTailgated_quiet (Or.inl heye')
  have hnotice' : ∀ q, .resumed ep.number ∈ ((fixTailgated (ledOut s)).port q).notices := fun q => by
    rw [State.port, hports, hled, setHalt_ports]
    exact hnotice q
  have hrun : (carryOutResume s).halt = { s.halt with
      state := .running
      causes := 0
      history := { ep with closing := some (s.sales.clock.stamp, .console) } :: older } := by
    rw [carryOutResume_eq, settle_halt, hfixed, hled, setHalt_halt, hhalt, hcauses]
  refine ⟨by rw [hrun], by rw [hrun], by rw [hrun], fun q => ?_⟩
  rw [carryOutResume_eq]
  exact settle_keepsNotice (resumed_outlasts ep.number) s _ q (hnotice' q)

theorem resumeAnswered_stn (tag : Byte) (s : State) :
    (resumeAnswered tag s).stn = (carryOutResume (hunt .console s)).stn := by
  rw [resumeAnswered, drive_stn, setRequest_stn]

/-- R178: a reply that begins to be sent leaves the notices. -/
theorem setRequest_notices (p q : Port) (r : RequestState) (s : State) :
    ((setRequest p r s).port q).notices = (s.port q).notices := by
  by_cases hq : p = q
  · subst hq
    rw [setRequest, port_setPort_same]
  · rw [setRequest, port_setPort_other s _ hq]

theorem drive_port (s : State) (q : Port) : (drive s).port q = s.port q := rfl

theorem resumeAnswered_notices (tag : Byte) (s : State) (q : Port) :
    ((resumeAnswered tag s).port q).notices = ((carryOutResume (hunt .console s)).port q).notices := by
  rw [resumeAnswered, drive_port]
  exact setRequest_notices ..

/-- Settles O51: HALT is its cause and the end of the event; RESUME by its refusals in order, and
then by whether EXIT_BLOCKED remains. -/
theorem haltAndResume : Obligations.HaltAndResume := by
  unfold Obligations.HaltAndResume
  refine ⟨fun p tag s hp ht hmode hf he => exec_halt_stops hp ht hmode hf he tag,
    fun tag s ht hmode => ?_⟩
  intro c no stands
  refine ⟨fun hmoving => exec_resume_refused ht hmode (resumeRefusal_moving hmoving),
    fun hstop hmoved => exec_resume_refused ht hmode (resumeRefusal_moved hstop hmoved),
    fun hstop hmoved h => exec_resume_refused ht hmode (resumeRefusal_stands hstop hmoved h),
    fun ep older hstop hmoved hclear hhistory hopen => ?_⟩
  have hexec := exec_resume (tag := tag) ht hmode (resumeRefusal_clear hstop hmoved hclear)
  have hreply : ((resumeAnswered tag s).port .console).request =
      .replying ⟨0xA1, tag, u8 0 ++ (u8 ep.number ++ u8 s.resumeTo.code)⟩ := by
    rw [resumeAnswered, request_replied, episodeNumber_of_history (s := hunt .console s) hhistory]
    rfl
  have hjog : (resumeAnswered tag s).stn.jog = none := by
    rw [resumeAnswered_stn]
    exact (carryOutResume_keeps _).1
  refine ⟨fun hblocked => ⟨_, hexec, ?_, hjog, ?_, fun heye => ?_⟩,
    fun hblocked => ⟨_, hexec, ?_, hjog, ?_⟩⟩
  · rw [hreply, State.resumeTo, if_neg (by simp [hblocked])]
    rfl
  · rw [resumeAnswered_track, (carryOutResume_keeps _).2]
    exact hmoved
  · simp only [resumeAnswered_halt, resumeAnswered_notices]
    exact carryOutResume_runs (s := hunt .console s) hhistory hopen hblocked heye
  · rw [hreply, State.resumeTo, if_pos hblocked]
    rfl
  · rw [resumeAnswered_halt, ← hhistory]
    exact carryOutResume_holds (s := hunt .console s) hblocked

end Sys2Proof.Machine
end

section
/-! # Halts: the safety chain, the drive fault and the relay (R153 to R156, R163) -/

namespace Sys2Proof.Machine

variable {s t : State} {left : Nat} {b : Bool}

/-! ## Lines and run demand with the relay off (R71, R134, R155) -/

/-- R134: with the chain open or in LOCKOUT every station line is off. -/
theorem lineOn_dark (h : s.inputs.chainClosed = false ∨ s.mode = .lockout) (l : Line) :
    s.lineOn l = false := by
  have hdark : (!s.inputs.chainClosed || s.mode == .lockout) = true := by
    rcases h with h | h <;> simp [h]
  simp [State.lineOn, State.firstLineOn, State.secondLineOn, hdark]

/-- R54, R134, R155: with the chain open the relay command, the roller and the station lines are
off. -/
theorem outputs_chainOpen (h : s.inputs.chainClosed = false) :
    (outputsOf s).safetyRelay = false ∧ (outputsOf s).rollerUp = false ∧
      ∀ l : Line, (outputsOf s).stationLines[l] = false := by
  refine ⟨by simp [outputsOf, State.relayCommand, h], by simp [outputsOf, State.rollerUp, h],
    fun l => ?_⟩
  simpa [outputsOf] using lineOn_dark (Or.inl h) l

/-- R71: with the chain open or in LOCKOUT a conveyor that runs on demand neither warns nor runs. -/
theorem conv_dark (h : s.inputs.chainClosed = false ∨ s.mode = .lockout) (hd : s.runsOnDemand) :
    s.conv.state ≠ .warning ∧ s.conv.state ≠ .running := by
  have hdemand : ¬ s.runDemand = true := fun hdemand => by
    obtain ⟨hmode, -, hchain, -⟩ := runDemand_iff.mp hdemand
    rcases h with h | h <;> simp [h] at hchain hmode
  exact ⟨fun hw => hdemand (hd (Or.inl hw)), fun hr => hdemand (hd (Or.inr hr))⟩

theorem retestDemand_runsOnDemand (s : State) : (retestDemand s).runsOnDemand :=
  runsOnDemand_congr (drives_of_frame (evalIfPaceMoved_frame s _)) (testDemand_runsOnDemand s)

/-! ## The relay command (R155) -/

/-- R163: no reaction of the blocks enters LOCKOUT. -/
theorem Reacts.notLockout (h : Reacts s t) (hmode : s.mode ≠ .lockout) : t.mode ≠ .lockout := by
  induction h with
  | @quiet s t h =>
    have hsame : t.mode = s.mode := congrArg (fun x => x.2.1) h
    rwa [hsame]
  | trans _ _ ih ih' => exact ih' (ih hmode)
  | notice => exact hmode
  | demand s => rwa [(testDemand_spares s).mode]
  | unpark => exact hmode
  | drained s _ =>
    rw [(testDemand_spares _).mode]
    simp
  | cause c subj s => rwa [(raiseCause_spares c subj s).mode]
  | clear c s => rwa [(clearCause_spares c s).mode]

/-- R155: outside LOCKOUT the command is the chain's level. -/
theorem relayCommand_unlocked (hmode : s.mode ≠ .lockout) :
    s.relayCommand = s.inputs.chainClosed := by
  rw [State.relayCommand, bne_iff_ne.mpr hmode, Bool.and_true]

theorem relayCommand_locked (hmode : s.mode = .lockout) : s.relayCommand = false := by
  simp [State.relayCommand, hmode]

/-- R155: the reactions to a command leave the relay command. -/
theorem Reacts.relayCommand (h : Reacts s t) : t.relayCommand = s.relayCommand := by
  by_cases hmode : s.mode = .lockout
  · rw [relayCommand_locked hmode, relayCommand_locked (h.lockout hmode)]
  · rw [relayCommand_unlocked hmode, relayCommand_unlocked (h.notLockout hmode), h.inputs]

theorem relayCommand_off (h : s.inputs.chainClosed = false) : s.relayCommand = false := by
  simp [State.relayCommand, h]

/-! ## The mismatch timer (R156) -/

theorem testMismatch_agrees (h : s.mode = .lockout ∨ s.inputs.readback = s.relayCommand) :
    testMismatch s = { s with halt := { s.halt with mismatchTimer := .stopped } } := if_pos h

section
variable (hmode : s.mode ≠ .lockout) (hdiffer : s.inputs.readback ≠ s.relayCommand)
include hmode hdiffer

theorem testMismatch_starts (h : s.halt.mismatchTimer.isRunning = false) :
    testMismatch s = { s with halt := { s.halt with mismatchTimer := .running 20000 } } :=
  (if_neg (by simp [hmode, hdiffer])).trans (if_neg (by simp [h]))

theorem testMismatch_runsOn (h : s.halt.mismatchTimer.isRunning = true) : testMismatch s = s :=
  (if_neg (by simp [hmode, hdiffer])).trans (if_pos h)

/-- R156: once the test finds a difference the timer runs. -/
theorem testMismatch_differs : (testMismatch s).halt.mismatchTimer.isRunning = true := by
  cases h : s.halt.mismatchTimer.isRunning with
  | true => rwa [testMismatch_runsOn hmode hdiffer h]
  | false =>
    rw [testMismatch_starts hmode hdiffer h]
    rfl

end

/-- The test of the relay writes the mismatch timer alone. -/
theorem testMismatch_eq (s : State) : ∃ tm,
    testMismatch s = { s with halt := { s.halt with mismatchTimer := tm } } := by
  unfold testMismatch
  repeat' split
  · exact ⟨_, rfl⟩
  · exact ⟨s.halt.mismatchTimer, rfl⟩
  · exact ⟨_, rfl⟩

/-- R156: no cause moves the mismatch timer. -/
theorem raiseCause_mismatchTimer (c : Cause) (subj : Subject) (s : State) :
    (raiseCause c subj s).halt.mismatchTimer = s.halt.mismatchTimer := by
  have hjoin : (joinEpisode c (withCause c s)).halt.mismatchTimer = s.halt.mismatchTimer := by
    unfold joinEpisode
    repeat' split
    all_goals rfl
  refine raiseCause_cases (motive := fun t => t.halt.mismatchTimer = _) (fun _ => rfl)
    (fun _ => ?_) (fun _ _ => ?_) fun _ _ => hjoin
  · rw [setHalt_halt]
    rfl
  · rw [setHalt_halt]
    exact hjoin

/-! ## The chain opens (R153) -/

/-- R153: a jog at an end and the chain's level, before run demand is tested. -/
def chainCut (s : State) : State :=
  endJog { s with inputs := { s.inputs with chainClosed := false } }

/-- R153, R155, R156: the chain's direct effects, before the cause. -/
def chainFelt (s : State) : State := testMismatch (retestDemand (chainCut s))

theorem chainFelt_keeps (s : State) :
    (chainFelt s).inputs = { s.inputs with chainClosed := false } ∧ (chainFelt s).stn.jog = none ∧
      (chainFelt s).runsOnDemand ∧ haltView (chainFelt s) = haltView s := by
  have hspares := retestDemand_spares (chainCut s)
  have hdemand := runsOnDemand_congr (testMismatch_drives _) (retestDemand_runsOnDemand (chainCut s))
  have hview : haltView (chainFelt s) = haltView s := by
    rw [chainFelt, testMismatch_haltView, haltView, retestDemand_halt]
    rfl
  have hjog : (retestDemand (chainCut s)).stn.jog = none := (retestDemand_evaluates _).works.jog
  obtain ⟨tm, htest⟩ := testMismatch_eq (retestDemand (chainCut s))
  refine ⟨?_, ?_, hdemand, hview⟩
  · rw [chainFelt, htest]
    exact hspares.inputs
  · rw [chainFelt, htest]
    exact hjog

theorem chainFelt_timer (s : State) :
    (s.inputs.readback = true → s.mode ≠ .lockout →
      (chainFelt s).halt.mismatchTimer.isRunning = true) ∧
    (s.inputs.readback = false → (chainFelt s).halt.mismatchTimer = .stopped) := by
  have hspares := retestDemand_spares (chainCut s)
  have hreadback : (retestDemand (chainCut s)).inputs.readback = s.inputs.readback := by
    rw [hspares.inputs]
    rfl
  have hoff : (retestDemand (chainCut s)).relayCommand = false :=
    relayCommand_off (by rw [hspares.inputs]; rfl)
  refine ⟨fun hr hmode => testMismatch_differs (by rw [hspares.mode]; exact hmode) ?_, fun hr => ?_⟩
  · rw [hreadback, hoff, hr]
    simp
  · rw [chainFelt, testMismatch_agrees (Or.inr (by rw [hreadback, hoff, hr]))]

/-- R153 to R156: the part once the open chain has been taken. -/
theorem chainOpens_keeps (hf : s.causesFit) :
    (chainOpens s).inputs.chainClosed = false ∧ (chainOpens s).halt.state = .stopped ∧
      (chainOpens s).hasCause .safetyChain = true ∧ (chainOpens s).stn.jog = none ∧
      (chainOpens s).runsOnDemand ∧
      (chainOpens s).halt.mismatchTimer = (chainFelt s).halt.mismatchTimer := by
  obtain ⟨hinputs, hjog, hdemand, hview⟩ := chainFelt_keeps s
  have hopens : chainOpens s = settle s (raiseCause .safetyChain .none (chainFelt s)) := rfl
  have hreacts : Reacts (chainFelt s) (chainOpens s) := by
    rw [hopens]
    exact (Reacts.cause ..).trans (settle_reacts ..)
  have hfit : (chainFelt s).causesFit := by
    simp only [haltView, Prod.mk.injEq] at hview
    obtain ⟨hstate, hcauses, -⟩ := hview
    rw [State.causesFit, hstate, hcauses]
    exact hf
  refine ⟨by rw [hreacts.inputs, hinputs], ?_, ?_, ?_, hreacts.runsOnDemand hdemand, ?_⟩
  · rw [hopens, settle_halt]
    exact raiseCause_stops hfit rfl .none
  · rw [hopens, State.hasCause, settle_halt]
    exact (raiseCause_causes ..).1
  · rw [hopens, (settle_evaluates ..).works.jog, (raiseCause_works ..).jog, hjog]
  · rw [hopens, settle_halt, raiseCause_mismatchTimer]

/-! ## The chain closes (R155, R156, R71) -/

/-- R155, R71: the closed chain as the conveyor has taken it. -/
def chainMade (s : State) : State :=
  retestDemand { s with inputs := { s.inputs with chainClosed := true } }

theorem chainCloses_halt (s : State) :
    (chainCloses s).halt = (testMismatch (chainMade s)).halt := settle_halt ..

/-- R153: the cause stays, and so does the halt state. -/
theorem chainCloses_keeps (s : State) : (chainCloses s).inputs.chainClosed = true ∧
    (chainCloses s).halt.causes = s.halt.causes ∧ (chainCloses s).halt.state = s.halt.state := by
  obtain ⟨tm, htest⟩ := testMismatch_eq (chainMade s)
  have hhalt : (chainMade s).halt = s.halt := retestDemand_halt _
  have hcauses : (chainMade s).halt.causes = s.halt.causes := by rw [hhalt]
  have hstate : (chainMade s).halt.state = s.halt.state := by rw [hhalt]
  have hinputs : (chainCloses s).inputs = (testMismatch (chainMade s)).inputs :=
    (settle_reacts ..).inputs
  rw [hinputs, chainCloses_halt, htest]
  exact ⟨congrArg Inputs.chainClosed (retestDemand_spares _).inputs, hcauses, hstate⟩

/-- R155, R156: outside LOCKOUT the command is on again, and the readback is compared with it. -/
theorem chainCloses_relay (hmode : s.mode ≠ .lockout) : (chainCloses s).relayCommand = true ∧
    (s.inputs.readback = false → (chainCloses s).halt.mismatchTimer.isRunning = true) ∧
    (s.inputs.readback = true → (chainCloses s).halt.mismatchTimer = .stopped) := by
  have hspares : Spares { s with inputs := { s.inputs with chainClosed := true } } (chainMade s) :=
    retestDemand_spares _
  have hmode' : (chainMade s).mode ≠ .lockout := by
    rw [hspares.mode]
    exact hmode
  have hon : (chainMade s).relayCommand = true := by
    rw [relayCommand_unlocked hmode', hspares.inputs]
  have hreadback : (chainMade s).inputs.readback = s.inputs.readback := by rw [hspares.inputs]
  obtain ⟨tm, htest⟩ := testMismatch_eq (chainMade s)
  have hrelay : (chainCloses s).relayCommand = (testMismatch (chainMade s)).relayCommand :=
    (settle_reacts ..).relayCommand
  rw [chainCloses_halt]
  refine ⟨?_, fun hr => ?_, fun hr => ?_⟩
  · rw [hrelay, htest]
    exact hon
  · exact testMismatch_differs hmode' (by simp [hreadback, hon, hr])
  · rw [testMismatch_agrees (Or.inr (by rw [hreadback, hon, hr]))]

/-! ## The drive fault and the readback (R154, R156) -/

/-- R154: the drive fault input takes its level. -/
def driveFaulted (s : State) : State := { s with inputs := { s.inputs with driveFault := true } }

/-- R154, R155: a drive fault stops the tunnel and leaves the relay command. -/
theorem driveFault_stops (hf : s.causesFit) : ∃ t, exec .driveFaultActive s = .next t ∧
    t.inputs.driveFault = true ∧ t.halt.state = .stopped ∧ t.hasCause .driveFault = true ∧
    t.out.safetyRelay = (s.inputs.chainClosed && s.mode != .lockout) := by
  have hreacts : Reacts (driveFaulted s)
      (settleHalted s (raiseCause .driveFault .none (driveFaulted s))) :=
    (Reacts.cause ..).trans (settleHalted_reacts ..)
  refine ⟨_, rfl, ?_, ?_, ?_, hreacts.relayCommand⟩
  · exact congrArg Inputs.driveFault hreacts.inputs
  · rw [drive_halt, settleHalted_halt]
    exact raiseCause_stops (s := driveFaulted s) hf rfl .none
  · rw [State.hasCause, drive_halt, settleHalted_halt]
    exact (raiseCause_causes ..).1

/-- R156: the readback takes its level. -/
def readBack (b : Bool) (s : State) : State := { s with inputs := { s.inputs with readback := b } }

theorem exec_relayReadbackChange (b : Bool) (s : State) :
    exec (.relayReadbackChange b) s = done (testMismatch (readBack b s)) := rfl

theorem relayCommand_differs (hmode : s.mode ≠ .lockout) (h : b ≠ s.inputs.chainClosed) :
    (readBack b s).inputs.readback ≠ (readBack b s).relayCommand := by
  rw [relayCommand_unlocked (s := readBack b s) hmode]
  exact h

/-- R156: in LOCKOUT, and where readback and command agree, the timer stops. -/
theorem readBack_agrees (h : s.mode = .lockout ∨ b = s.inputs.chainClosed) :
    (readBack b s).mode = .lockout ∨
      (readBack b s).inputs.readback = (readBack b s).relayCommand := by
  by_cases hmode : s.mode = .lockout
  · exact Or.inl hmode
  · rw [relayCommand_unlocked (s := readBack b s) hmode]
    exact Or.inr (h.resolve_left hmode)

/-! ## The entry to LOCKOUT (R156, R163) -/

theorem enterLockout_eq (s : State) : enterLockout s =
    settle s (stationsHaltChange s.stationHalt .stopped (lockedOut s)) := rfl

theorem lockedOut_halt (s : State) :
    (lockedOut s).halt = { s.halt with mismatchTimer := .stopped } := testDemand_halt _

theorem lockedOut_jog (s : State) : (lockedOut s).stn.jog = none := by
  rw [lockedOut, testDemand_eq]
  rfl

theorem lockedOut_notice (s : State) (p : Port) : .lockout ∈ ((lockedOut s).port p).notices := by
  rw [State.port, lockedOut, testDemand_ports]
  exact mem_notices_raiseAll .lockout { s with
    mode := .lockout, halt := { s.halt with mismatchTimer := .stopped } } p

/-- R163: the part once it is in LOCKOUT. -/
theorem enterLockout_locks (s : State) : (enterLockout s).mode = .lockout ∧
    (∀ p : Port, .lockout ∈ ((enterLockout s).port p).notices) ∧
    (enterLockout s).halt = { s.halt with mismatchTimer := .stopped } ∧
    (enterLockout s).stn.jog = none ∧ (enterLockout s).runsOnDemand := by
  have hframe := stationsHaltChange_frame s.stationHalt .stopped (lockedOut s)
  have hreacts : Reacts (lockedOut s) (enterLockout s) := (Reacts.quiet hframe).trans
    (settle_reacts s _)
  refine ⟨hreacts.lockout (lockedOut_mode s), fun p => ?_, ?_, ?_,
    hreacts.runsOnDemand (testDemand_runsOnDemand _)⟩
  · exact settle_keepsNotice lockout_outlasts s _ p
      (KeepsNotice.of_ports (ports_of_frame hframe) p (lockedOut_notice s p))
  · rw [enterLockout_eq, settle_halt, halt_of_frame hframe, lockedOut_halt]
  · rw [enterLockout_eq, (settle_evaluates ..).works.jog, (stationsHaltChange_works ..).jog,
      lockedOut_jog]

/-- R156: in LOCKOUT the expiry only stops the timer. -/
theorem exec_mismatchTimerExpiry_locked (hmode : s.mode = .lockout)
    (h : s.halt.mismatchTimer = .running left) : exec .mismatchTimerExpiry s =
      done { s with halt := { s.halt with mismatchTimer := .stopped } } := by
  have hrunning : s.halt.mismatchTimer.isRunning = true := by
    rw [h]
    rfl
  exact congrArg done ((if_pos hrunning).trans (if_pos hmode))

/-! ## The commands and the statement -/

theorem exec_safetyChainOpens (s : State) :
    exec .safetyChainOpens s = .next (drive (chainOpens s)) := rfl

theorem exec_safetyChainCloses (s : State) :
    exec .safetyChainCloses s = .next (drive (chainCloses s)) := rfl

theorem drive_hasCause (s : State) (c : Cause) : (drive s).hasCause c = s.hasCause c := rfl

/-- Settles O52: the chain's direct effects, then its cause; the test of the relay by what it finds;
and the entry to LOCKOUT, which the end of the event leaves. -/
theorem safetyInputsAct : Obligations.SafetyInputsAct := by
  unfold Obligations.SafetyInputsAct
  refine ⟨fun s => ⟨fun hf => ?_, ?_, driveFault_stops, rfl, ?_⟩, fun left s htimer =>
    ⟨fun hmode => ?_, fun hmode => exec_mismatchTimerExpiry_locked hmode htimer⟩⟩
  · obtain ⟨hopen, hstop, hcause, hjog, hdemand, htimer⟩ := chainOpens_keeps hf
    obtain ⟨hwarning, hrunning⟩ := conv_dark (Or.inl hopen) hdemand
    obtain ⟨hrelay, hroller, hlines⟩ := outputs_chainOpen hopen
    obtain ⟨hruns, hstops⟩ := chainFelt_timer s
    rw [← htimer] at hruns hstops
    refine ⟨_, exec_safetyChainOpens s, ?_⟩
    simp only [drive_inputs, drive_halt, drive_hasCause, drive_stn, drive_conv, drive_out]
    exact ⟨hopen, hstop, hcause, hjog, hwarning, hrunning, hrelay, hroller, hlines, hruns, hstops⟩
  · obtain ⟨hclosed, hcauses, hstate⟩ := chainCloses_keeps s
    refine ⟨_, exec_safetyChainCloses s, ?_⟩
    simp only [drive_inputs, drive_halt, drive_out]
    exact ⟨hclosed, hcauses, hstate, chainCloses_relay⟩
  · intro b u timer
    refine ⟨fun h => ?_, fun hmode hdiffer => ⟨fun hstopped => ?_, fun left hleft => ?_⟩⟩
    · rw [exec_relayReadbackChange, testMismatch_agrees (readBack_agrees h)]
      rfl
    · rw [exec_relayReadbackChange, testMismatch_starts (s := readBack b s) hmode
        (relayCommand_differs hmode hdiffer) (congrArg Timer.isRunning hstopped)]
      rfl
    · rw [exec_relayReadbackChange, testMismatch_runsOn (s := readBack b s) hmode
        (relayCommand_differs hmode hdiffer) (congrArg Timer.isRunning hleft)]
      rfl
  · obtain ⟨hlock, hnotice, hhalt, hjog, hdemand⟩ := enterLockout_locks s
    obtain ⟨hwarning, hrunning⟩ := conv_dark (Or.inr hlock) hdemand
    refine ⟨_, exec_mismatchTimerExpiry hmode htimer, ?_⟩
    simp only [drive_mode, drive_port, drive_halt, drive_stn, drive_conv, hhalt, true_and, and_true]
    exact ⟨hlock, hnotice, hjog, hwarning, hrunning⟩

end Sys2Proof.Machine
end

section
/-! # Halts: the invariants hold right after reset (R167)

Nothing is sold, queued, riding or stored, no station is enabled, and HALT is the one notice. -/

namespace Sys2Proof.Machine

/-! ## The lines (R134, R185) -/

/-- R113, R134: no station is enabled, so no line is driven. -/
theorem reset_lineOn (l : Line) : State.reset.lineOn l = false := by
  simp [State.lineOn, State.station, State.reset, SiteSettings.default, StationCfg.default]

theorem reset_linesFollow : State.reset.linesFollow := by
  have hlines : Vector.ofFn State.reset.lineOn = Vector.replicate 40 false :=
    Vector.ext fun i hi => by simp [reset_lineOn]
  rw [State.linesFollow, outputsOf, hlines]
  decide

/-! ## The ticket, roster and member records (R10, R11, R26, R43, R47, R91) -/

theorem reset_tickets : State.reset.tickets = [] := by
  simp [State.tickets, State.reset, Sales.start]

theorem reset_places : State.reset.places = [] := by
  decide

/-- R167: no entry of the member table is valid. -/
theorem reset_entry (k : EntryIx) : State.reset.entry k = MemberEntry.clear := by
  simp [State.entry, State.reset]

theorem reset_ticketsStand : State.reset.ticketsStand := by
  rw [State.ticketsStand, reset_tickets, reset_places]
  exact List.Perm.nil

theorem reset_numbersFit : State.reset.numbersFit := by
  have hcredits : State.reset.credits = [] := rfl
  simp [State.numbersFit, reset_tickets, hcredits]

theorem reset_membersFit : State.reset.membersFit := fun j k _ hj => by
  rw [reset_entry] at hj
  exact absurd hj (by decide)

theorem reset_recordsFit : State.reset.recordsFit :=
  ⟨reset_ticketsStand, reset_numbersFit, by decide, by decide, by decide, reset_membersFit, by decide⟩

/-! ## The statement -/

/-- R184: the one notice of each port is HALT. -/
theorem reset_notices (p : Port) : (State.reset.port p).notices = [.halt .powerUp 1] := by
  simp [State.port, State.reset]

theorem reset_noticesFit : State.reset.noticesFit := fun p => by
  rw [reset_notices]
  exact List.pairwise_singleton ..

/-- Settles O57, record by record. -/
theorem resetHasTheInvariants : Obligations.ResetHasTheInvariants :=
  ⟨reset_linesFollow, runsOnDemand_idle (Or.inl rfl), causesFit_of_stopped rfl, by decide,
    reset_noticesFit, nofun, Nat.zero_le _, reset_recordsFit⟩

end Sys2Proof.Machine
end

section
/-! # Modes and the store: the state after power-on (R158, R165, R167, R168) -/

namespace Sys2Proof.Machine

/-- R174, R178, R184, R187: each port as it starts, with HALT pending. -/
theorem reset_port (p : Port) :
    State.reset.port p = { PortState.start with notices := [.halt .powerUp 1] } := by
  simp [State.port, State.reset]

theorem reset_lane (i : Lane) : State.reset.laneQueue i = [] ∧ State.reset.saleSlot i = .empty ∧
    State.reset.sales.finished[i] = [] ∧ State.reset.settings.menus[i] = ⟨8, 0⟩ := by
  revert i
  decide

theorem reset_station (j : StationIx) : State.reset.station j = StationCfg.default ∧
    State.reset.machine j = StationMachine.start := by
  simp [State.station, State.machine, State.reset, SiteSettings.default]

theorem reset_row (r : Row) : State.reset.row r = CatRow.default ∧
    State.reset.sales.totals[r] = ⟨0, 0⟩ := by
  simp [State.row, State.reset, SiteSettings.default, Sales.start]

theorem reset_attention (p : Port) : State.reset.out.attention[p.index] = true := by
  simp [State.reset, Outputs.start]

theorem reset_lines : (∀ i : Lane, State.reset.out.laneGreen[i] = false) ∧
    ∀ l : Line, State.reset.out.stationLines[l] = false := by
  simp [State.reset, Outputs.start]

/-- Settles O4, record by record: most values are those that State.reset names, and the tables hold
the same value at every index. -/
theorem resetGivesTheSpecsValues : Obligations.ResetGivesTheSpecsValues := by
  unfold Obligations.ResetGivesTheSpecsValues
  refine ⟨rfl, rfl, rfl, rfl, rfl, rfl, rfl, rfl, rfl, rfl, rfl, rfl, rfl, rfl, rfl, rfl, rfl, rfl,
    rfl, reset_lane, rfl, rfl, rfl, reset_station, reset_tickets, rfl, rfl, rfl, rfl, reset_row,
    fun k => ?_, rfl, rfl, rfl, fun k => ?_, fun p => ?_, rfl, rfl, rfl, rfl, rfl, reset_lines⟩
  · revert k
    decide
  · have hentry := reset_entry k
    rw [State.entry] at hentry
    rw [hentry]
    rfl
  · rw [reset_port]
    exact ⟨rfl, rfl, rfl, rfl, rfl, reset_attention p⟩

end Sys2Proof.Machine
end

section
/-! # Modes and the store: the outputs in LOCKOUT (R164) -/

namespace Sys2Proof.Machine

/-- R164: in LOCKOUT every field output is off. -/
theorem outputs_lockout {s : State} (h : s.mode = .lockout) :
    (outputsOf s).conveyorRun = false ∧ (outputsOf s).speedReference = 0 ∧
    (outputsOf s).horn = false ∧ (outputsOf s).rollerUp = false ∧ (outputsOf s).goLamp = false ∧
    (∀ i : Lane, (outputsOf s).laneGreen[i] = false) ∧ (outputsOf s).safetyRelay = false ∧
    ∀ l : Line, (outputsOf s).stationLines[l] = false := by
  refine ⟨?_, ?_, ?_, ?_, ?_, fun i => ?_, relayCommand_locked h, fun l => ?_⟩
  · simp [outputsOf, h]
  · exact if_neg fun ⟨_, hmode⟩ => hmode h
  · simp [outputsOf, h]
  · simp [outputsOf, State.rollerUp, h]
  · simp [outputsOf, State.goLamp, h]
  · simp [outputsOf, State.laneGreen, State.trading, h]
  · simpa [outputsOf] using lineOn_dark (Or.inr h) l

/-- Settles O53: every command ends by writing the lines from the records. -/
theorem lockoutTurnsEveryOutputOff : Obligations.LockoutTurnsEveryOutputOff := by
  unfold Obligations.LockoutTurnsEveryOutputOff
  intro c s t hexec hmode
  rw [exec_linesFollow hexec]
  exact outputs_lockout hmode

end Sys2Proof.Machine
end

section
/-! # Modes and the store: OPEN, CLOSE and the end of a drain (R160 to R162) -/

namespace Sys2Proof.Machine

variable {s t u b : State} {tag : Byte}

/-! ## The test of a drain (R162) -/

/-- R162: nothing is sold, queued, merged or riding, the gate is in IDLE and every arm is stowed. -/
def State.Emptied (s : State) : Prop :=
  (∀ i : Lane, s.saleSlot i = .empty ∧ s.laneQueue i = []) ∧ s.gate.merge = [] ∧
    s.gate.state = .idle ∧ s.track.roster = [] ∧
    ∀ j : StationIx, (s.station j).enabled = true → (s.station j).kind = .arm →
      (s.machine j).arm = .stowed

theorem drained_iff_emptied : s.drained ↔ s.mode = .draining ∧ s.Emptied := by
  simp only [drained_iff, State.Emptied, forall_and, State.isArm, Bool.and_eq_true, beq_iff_eq,
    and_imp, and_assoc]

/-- R162: without its conditions the test does nothing, and no event has moved the park timer. -/
theorem settleDrain_notDrained (h : ¬ u.drained) (hpark : u.parkHolds = b.parkHolds) :
    settleDrain b u = u := by
  rw [settleDrain, testDrain_notDrained h, testPark_same hpark]

/-- R162: a drain at its end, before run demand is tested. -/
def drainClosed (s : State) : State := raiseTo .site .closeDone { s with mode := .closed }

theorem testDrain_drained (h : u.drained) : testDrain u = retestDemand (drainClosed u) := if_pos h

/-- R162, R71: the part once the drain has ended. -/
theorem settleDrain_drained (h : u.drained) (b : State) : (settleDrain b u).mode = .closed ∧
    .closeDone ∈ ((settleDrain b u).port .site).notices ∧ (settleDrain b u).runsOnDemand := by
  have hframe : (settleDrain b u).frame = (retestDemand (drainClosed u)).frame := by
    rw [settleDrain, testPark_frame, testDrain_drained h]
  have hports := (ports_of_frame hframe).trans (retestDemand_ports _)
  refine ⟨?_, ?_, runsOnDemand_congr (drives_of_frame hframe) (retestDemand_runsOnDemand _)⟩
  · have hmode : (settleDrain b u).mode = (retestDemand (drainClosed u)).mode :=
      congrArg (fun x => x.2.1) hframe
    exact hmode.trans (retestDemand_spares _).mode
  · rw [port_congr hports]
    exact mem_notices_raiseTo .site .closeDone { u with mode := .closed }

/-- R71: outside OPEN and DRAINING a conveyor that runs on demand neither warns nor runs. -/
theorem conv_closed (h : s.mode = .closed) (hd : s.runsOnDemand) :
    s.conv.state ≠ .warning ∧ s.conv.state ≠ .running := by
  have hdemand : s.runDemand = false := by simp [State.runDemand, State.trading, h]
  refine ⟨fun hw => ?_, fun hr => ?_⟩
  · exact Bool.false_ne_true (hdemand.symm.trans (hd (Or.inl hw)))
  · exact Bool.false_ne_true (hdemand.symm.trans (hd (Or.inr hr)))

/-! ## The two requests (R160, R161) -/

/-- R160: OPEN takes a CLOSED or DRAINING tunnel to OPEN. -/
theorem openRequest_opens (h : s.mode = .closed ∨ s.mode = .draining) : openRequest s =
    (okWith [], settle s (retestDemand { s with mode := .openMode })) := by
  rcases h with h | h <;> simp [openRequest, h]

theorem openRequest_wrongState (h : s.mode = .setup ∨ s.mode = .openMode) :
    openRequest s = (refuse .wrongState, s) := by
  rcases h with h | h <;> simp [openRequest, h]

/-- R161: a drain starts. -/
def drainBegun (s : State) : State := { s with mode := .draining }

/-- R161: CLOSE starts a drain, which may end at once. -/
theorem closeRequest_drains (h : s.mode = .openMode) :
    closeRequest s = (refuse .taken, settleDrain s (drainBegun s)) := by
  simp [closeRequest, h, drainBegun]

theorem closeRequest_wrongState (h : s.mode = .setup ∨ s.mode = .closed ∨ s.mode = .draining) :
    closeRequest s = (refuse .wrongState, s) := by
  rcases h with h | h | h <;> simp [closeRequest, h]

theorem exec_close (ht : s.takes .site) (hmode : s.mode = .openMode) :
    exec (.close .site tag []) s =
      answered .site 0x61 tag .taken [] (settleDrain (hunt .site s) (drainBegun (hunt .site s))) :=
  request_refused (k := .close) ht rfl rfl (Or.inl (by simp [hmode]))
    (closeRequest_drains (s := hunt .site s) hmode)

/-- R161, R162: what CLOSE drains is the part it finds. -/
theorem drainBegun_drained : (drainBegun (hunt .site s)).drained ↔ s.Emptied := by
  rw [drained_iff_emptied]
  exact and_iff_right rfl

/-- Settles O54: the two requests by the mode they find, and the test of a drain by whether its
conditions hold. -/
theorem theSiteOpensAndCloses : Obligations.TheSiteOpensAndCloses := by
  unfold Obligations.TheSiteOpensAndCloses
  intro tag s h drained
  refine ⟨fun ht hmode => ?_, fun ht hmode => ?_, fun ht hmode hnot => ?_, fun ht hmode hdrained => ?_,
    fun ht hmode => ?_, fun hmode hdrained => ?_, fun hnot => ?_⟩
  · exact request_ok (k := .openTunnel) ht rfl rfl
      (Or.inl (by rcases hmode with hmode | hmode <;> simp [hmode]))
      (openRequest_opens (s := hunt .site s) hmode)
  · exact request_refused (k := .openTunnel) ht rfl rfl
      (Or.inl (by rcases hmode with hmode | hmode <;> simp [hmode]))
      (openRequest_wrongState (s := hunt .site s) hmode)
  · rw [exec_close ht hmode, settleDrain_notDrained (b := hunt .site s)
      (mt drainBegun_drained.mp hnot) rfl]
    rfl
  · obtain ⟨hclosed, hnotice, -⟩ :=
      settleDrain_drained (drainBegun_drained.mpr hdrained) (hunt .site s)
    refine ⟨_, exec_close ht hmode, hclosed, ?_, request_replied ..⟩
    rw [drive_port, setRequest_notices]
    exact hnotice
  · exact request_refused (k := .close) ht rfl rfl
      (Or.inl (by rcases hmode with hmode | hmode | hmode <;> simp [hmode]))
      (closeRequest_wrongState (s := hunt .site s) hmode)
  · obtain ⟨hclosed, hnotice, hdemand⟩ :=
      settleDrain_drained (drained_iff_emptied.mpr ⟨hmode, hdrained⟩) s
    obtain ⟨hwarning, hrunning⟩ := conv_closed hclosed hdemand
    refine ⟨_, rfl, hclosed, hnotice, hwarning, hrunning, ?_, (settleDrain_leaves s s).2.1⟩
    rw [drive_halt, settleDrain, testPark_halt, testDrain_halt]
  · have hstays : ¬ s.drained := fun hdrained =>
      have ⟨hmode, hemptied⟩ := drained_iff_emptied.mp hdrained
      hnot.elim (fun h => h hmode) fun h => h hemptied
    exact congrArg done (settleDrain_notDrained hstays rfl)

end Sys2Proof.Machine
end

section
/-! # Modes and the store: SAVE and the row writes (R166, R169 to R171) -/

namespace Sys2Proof.Machine

variable {s : State} {j : SaveJob} {tag : Byte}

/-! ## The copy of a save (R166, R169) -/

/-- R166: the copy holds the entries below W, each as the member table has it. -/
theorem copySettings_wired (s : State) :
    s.copySettings.wired.map (fun e => e.index) = (List.finRange 48).take s.settings.wired ∧
    ∀ e ∈ s.copySettings.wired, e = (s.entry e.index).stored e.index := by
  refine ⟨?_, fun e he => ?_⟩
  · simp only [State.copySettings, List.map_map, Function.comp_def, MemberEntry.stored,
      List.map_id_fun', id_eq, entryIxs]
  · obtain ⟨k, -, rfl⟩ := List.mem_map.mp he
    rfl

/-! ## SAVE (R169) -/

/-- R169: the save begins, and the marker no longer reads CLOSED. -/
def saveBegun (s : State) : State := { s with store := { s.store with
  save := some ⟨s.copySettings, 0⟩
  marker := if s.store.marker = .closed then .openMarker else s.store.marker } }

theorem saveRequest_busy (h : s.store.save ≠ none) : saveRequest s = (refuse .busy, s) :=
  if_pos (saving_eq_true h)

theorem saveRequest_taken (h : s.store.save = none) :
    saveRequest s = (refuse .taken, saveBegun s) :=
  if_neg (by simp [saving_eq_false h])

theorem saveBegun_marker (s : State) : (saveBegun s).store.marker ≠ .closed := by
  rw [saveBegun]
  dsimp only
  split
  · exact nofun
  · assumption

/-! ## Row writes (R170, R171) -/

theorem write_opening (h : j.row = 0) : j.write = .openingMarker := if_pos h

theorem write_settingsRow {r : Fin 95} (h : j.row = r.val + 1) : j.write = .settingsRow r := by
  simp [SaveJob.write, h]

theorem write_closing (h : j.row = 96) : j.write = .closingMarker := by
  simp [SaveJob.write, h, fin?]

theorem exec_rowWriteComplete (h : s.store.save = some j) (b : Bool) :
    exec (.rowWriteComplete b) s = done (if b then rowAgrees j s else failSave j s) := by
  show done (rowWritten b s) = _
  rw [rowWritten, h]

/-- R171: a write that fails leaves a marker that does not read CLOSED, or a settings row alone. -/
theorem spoilRow_marker (j : SaveJob) (s : State) :
    (∀ r, j.write ≠ .settingsRow r) ∧ (spoilRow j s).store.marker ≠ .closed ∨
      (∃ r, j.write = .settingsRow r) ∧ (spoilRow j s).store.marker = s.store.marker := by
  unfold spoilRow
  cases j.write with
  | openingMarker => exact Or.inl ⟨nofun, by dsimp only; split <;> exact nofun⟩
  | closingMarker => exact Or.inl ⟨nofun, by dsimp only; split <;> exact nofun⟩
  | settingsRow r => exact Or.inr ⟨⟨r, rfl⟩, rfl⟩

theorem spoilRow_keeps (j : SaveJob) (s : State) : (spoilRow j s).mode = s.mode ∧
    (spoilRow j s).settings = s.settings ∧ (spoilRow j s).store.image = s.store.image := by
  unfold spoilRow
  cases j.write <;> exact ⟨rfl, rfl, rfl⟩

/-- R171: what a failed write leaves of the marker, by the row. -/
theorem failSave_marker (j : SaveJob) (s : State) :
    (j.row = 0 → (failSave j s).store.marker ≠ .closed) ∧
    (j.row = 96 → (failSave j s).store.marker ≠ .closed) ∧
    (1 ≤ j.row → j.row ≤ 95 → (failSave j s).store.marker = s.store.marker) := by
  have hsame : (failSave j s).store.marker = (spoilRow j s).store.marker := rfl
  rw [hsame]
  have hspoils : (∀ r, j.write ≠ .settingsRow r) → (spoilRow j s).store.marker ≠ .closed :=
    fun hrow => (spoilRow_marker j s).elim (fun h => h.2) fun ⟨⟨r, hr⟩, _⟩ => absurd hr (hrow r)
  refine ⟨fun h => hspoils (by simp [write_opening h]), fun h => hspoils (by simp [write_closing h]),
    fun hlow hhigh => ?_⟩
  have hwrite : j.write = .settingsRow ⟨j.row - 1, by omega⟩ :=
    write_settingsRow (Nat.sub_add_cancel hlow).symm
  exact (spoilRow_marker j s).elim (fun h => absurd hwrite (h.1 _)) fun h => h.2

/-- R170: the save goes on, or completes, by the row that was written. -/
theorem rowAgrees_opening (h : j.row = 0) : rowAgrees j s = { s with store := { s.store with
    marker := .openMarker, save := some { j with row := 1 } } } := by
  rw [rowAgrees, write_opening h]
  simp [nextRow, h]

theorem rowAgrees_settingsRow {r : Fin 95} (h : j.row = r.val + 1) : rowAgrees j s =
    { s with store := { s.store with
      rowsValid := vset s.store.rowsValid r true, save := some { j with row := j.row + 1 } } } := by
  rw [rowAgrees, write_settingsRow h]
  rfl

theorem rowAgrees_closing (h : j.row = 96) : rowAgrees j s = completeSave j s := by
  rw [rowAgrees, write_closing h]

/-- Settles O55: the copy entry by entry, SAVE by whether a save is in progress, and a row write by
its row and its read-back. -/
theorem savesWriteTheStore : Obligations.SavesWriteTheStore := by
  unfold Obligations.SavesWriteTheStore
  refine ⟨fun s => ?_, fun tag s ht hmode => ⟨fun hsave => ?_, fun hsave => ?_⟩, fun j s hsave =>
    ⟨fun h => ?_, fun r h => ?_, fun h => ?_, ?_⟩, fun b s hsave => ?_⟩
  · obtain ⟨hindex, hstored⟩ := copySettings_wired s
    refine ⟨rfl, hindex, fun e he => ?_⟩
    have hentry := hstored e he
    exact ⟨congrArg StoredEntry.valid hentry, congrArg StoredEntry.base hentry,
      congrArg StoredEntry.order hentry, congrArg StoredEntry.row hentry,
      congrArg StoredEntry.status hentry⟩
  · exact request_refused (k := .save) ht rfl rfl (Or.inl hmode)
      (saveRequest_busy (s := hunt .site s) hsave)
  · exact ⟨_, request_refused (k := .save) ht rfl rfl (Or.inl hmode)
      (saveRequest_taken (s := hunt .site s) hsave), request_replied .., rfl,
      saveBegun_marker (hunt .site s), rfl, rfl, rfl, rfl, rfl⟩
  · rw [exec_rowWriteComplete hsave, if_pos rfl, rowAgrees_opening h]
  · rw [exec_rowWriteComplete hsave, if_pos rfl, rowAgrees_settingsRow h]
  · rw [exec_rowWriteComplete hsave, if_pos rfl, rowAgrees_closing h]
    rfl
  · obtain ⟨hmode, hsettings, himage⟩ := spoilRow_keeps j s
    exact ⟨_, exec_rowWriteComplete hsave false, rfl, rfl, rfl, mem_notices_raiseTo .., hmode,
      hsettings, himage, failSave_marker j s⟩
  · show done (rowWritten b s) = _
    rw [rowWritten, hsave]

end Sys2Proof.Machine
end

section
/-! # Modes and the store: the reads (R24, R25, R31, R42, R82, R112, R137, R148, R173, R189)

A read is answered in any mode and leaves the part as it finds it, so that each needs only its reply
here. -/

namespace Sys2Proof.Machine

variable {s : State} {p : Port} {k : RequestKind} {tag : Byte} {body : List Byte} {n : Nat}

/-! ## Reads at their ports (R178 to R182) -/

section
variable (ht : s.takes p) (hp : k.permitted p.cls = true) (hl : k.lengthOk body.length = true)
  (hk : k.lockoutAnswers = true)
include ht hp hl hk

/-- R182: a read that finds its record is answered OK in every mode. -/
theorem read_ok {results : List Byte}
    (hs : serve p k body (hunt p s) = (okWith results, hunt p s)) :
    request k p tag body s = answered p k.code tag .ok results (hunt p s) :=
  request_ok ht hp hl (Or.inr hk) hs

theorem read_refused {st : Status} (hs : serve p k body (hunt p s) = (refuse st, hunt p s)) :
    request k p tag body s = answered p k.code tag st [] (hunt p s) :=
  request_refused ht hp hl (Or.inr hk) hs

end

/-! ## The bodies (R189) -/

theorem byteAt_body (h : n < 256) : byteAt (u8 n) 0 = n := by
  simpa using byteAt_u8 h []

theorem wordAt_body (h : n < 65536) : wordAt (u16 n) 0 = n := by
  simpa using wordAt_u16 h []

/-! ## The replies -/

/-- R173: outside DRAINING no condition is listed. -/
theorem statusFailing_bytes (s : State) :
    u8 s.statusFailing.length ++ s.statusFailing.flatMap u8 =
      if s.mode = .draining then u8 s.drainFailing.length ++ s.drainFailing.flatMap u8 else u8 0 := by
  unfold State.statusFailing
  split <;> rfl

/-- R173: the status record. -/
theorem readStatusRequest_eq (s : State) : readStatusRequest s =
    (okWith (u8 s.mode.code ++ u8 s.halt.state.code ++ u8 s.conv.state.code ++
      flagByte s.track.moved ++ flagByte s.store.torn ++ flagByte s.store.blank ++
      flagByte s.store.save.isSome ++ u16 s.sales.clock.stamp.day ++
      u16 s.sales.clock.stamp.minute ++ flagByte s.sales.clock.unset ++
      (if s.mode = .draining then u8 s.drainFailing.length ++ s.drainFailing.flatMap u8
       else u8 0)), s) := by
  simp only [← statusFailing_bytes, readStatusRequest, stampBytes, State.saving, State.stamp,
    List.append_assoc]

/-- R25: a live ticket's record, or NOT_FOUND. -/
theorem readTicketRequest_found {t : Ticket} (hn : n < 65536) (h : s.ticket? n = some t) :
    readTicketRequest (u16 n) s = (okWith (ticketBytes t), s) := by
  simp only [readTicketRequest, wordAt_body hn, h]

theorem readTicketRequest_notFound (hn : n < 65536) (h : s.ticket? n = none) :
    readTicketRequest (u16 n) s = (refuse .notFound, s) := by
  simp only [readTicketRequest, wordAt_body hn, h]

/-- R112: a car by its place, oldest first, or NOT_FOUND. -/
theorem readRosterRequest_found {c : Car} (hn : n < 256) (h : s.track.roster[n]? = some c) :
    readRosterRequest (u8 n) s =
      (okWith (u8 s.track.roster.length ++ u8 n ++ carBytes c), s) := by
  simp only [readRosterRequest, byteAt_body hn, h]

theorem readRosterRequest_notFound (hn : n < 256) (h : s.track.roster.length ≤ n) :
    readRosterRequest (u8 n) s = (refuse .notFound, s) := by
  simp only [readRosterRequest, byteAt_body hn, List.getElem?_eq_none h]

/-- R137: a station's record, by its index. -/
theorem readStationRequest_found (j : StationIx) :
    readStationRequest (u8 j.val) s = (okWith (stationBytes j s), s) := by
  simp only [readStationRequest, byteAt_body (Nat.lt_trans j.isLt (by decide)), fin?_val]

theorem readStationRequest_outOfRange (hn : n < 256) (h : 24 ≤ n) :
    readStationRequest (u8 n) s = (refuse .outOfRange, s) := by
  simp only [readStationRequest, byteAt_body hn, fin?_eq_none.mpr h]

/-- R31: up to four entries from an index on. -/
theorem readMembersRequest_found (h : n < 48) : readMembersRequest (u8 n) s =
    (okWith (u8 s.settings.wired ++ u8 s.memb.pointer.val ++ u8 n ++ u8 (min 4 (48 - n)) ++
      ((entryIxs.drop n).take 4).flatMap (fun j => entryBytes j (s.entry j))), s) := by
  have hindex : fin? 48 n = some ⟨n, h⟩ := fin?_eq_some.mpr rfl
  simp only [readMembersRequest, byteAt_body (Nat.lt_trans h (by decide)), hindex,
    List.length_take, List.length_drop, entryIxs, List.length_finRange]

theorem readMembersRequest_outOfRange (hn : n < 256) (h : 48 ≤ n) :
    readMembersRequest (u8 n) s = (refuse .outOfRange, s) := by
  simp only [readMembersRequest, byteAt_body hn, fin?_eq_none.mpr h]

/-- R42: up to four credits from a place on. -/
theorem readCreditsRequest_found (h : n < 32) : readCreditsRequest (u8 n) s =
    (okWith (u8 s.credits.length ++ u8 n ++ u8 (min 4 (s.credits.length - n)) ++
      ((s.credits.drop n).take 4).flatMap (creditBytes s)), s) := by
  rw [readCreditsRequest, byteAt_body (Nat.lt_trans h (by decide))]
  simp only [if_neg (Nat.not_lt.mpr (Nat.le_of_lt_succ h)), List.length_take, List.length_drop]

theorem readCreditsRequest_outOfRange (hn : n < 256) (h : 32 ≤ n) :
    readCreditsRequest (u8 n) s = (refuse .outOfRange, s) := by
  rw [readCreditsRequest, byteAt_body hn]
  exact if_pos h

/-- R24: up to eight rows' totals from a row on. -/
theorem readTotalsRequest_found (h : n < 32) : readTotalsRequest (u8 n) s =
    (okWith (u8 n ++ u8 (min 8 (32 - n)) ++ ((s.sales.totals.toList.drop n).take 8).flatMap
      (fun t => u16 t.count ++ u32 t.value)), s) := by
  have hindex : fin? 32 n = some ⟨n, h⟩ := fin?_eq_some.mpr rfl
  simp only [readTotalsRequest, byteAt_body (Nat.lt_trans h (by decide)), hindex,
    List.length_take, List.length_drop, Vector.length_toList]

theorem readTotalsRequest_outOfRange (hn : n < 256) (h : 32 ≤ n) :
    readTotalsRequest (u8 n) s = (refuse .outOfRange, s) := by
  simp only [readTotalsRequest, byteAt_body hn, fin?_eq_none.mpr h]

/-! ## The statement -/

/-- Settles O14: each read is served by its request, which leaves the part alone. -/
theorem readsAnswerTheRecords : Obligations.ReadsAnswerTheRecords := by
  unfold Obligations.ReadsAnswerTheRecords
  refine ⟨fun p tag s ht => ⟨?_, fun n hn => ⟨fun t h => ?_, fun h => ?_⟩,
      fun k hk => ⟨fun c h => ?_, fun h => ?_⟩, ?_, ?_⟩,
    fun p tag k s ht hk => ⟨fun j hj => ?_, fun h => ?_⟩,
    fun tag k s ht hk => ⟨fun h => ?_, fun h => ?_, fun h => ?_, fun h => ?_, fun h => ?_, fun h => ?_⟩,
    fun i tag s ht => ?_⟩
  · exact read_ok (k := .readStatus) ht rfl rfl rfl (readStatusRequest_eq (hunt p s))
  · exact read_ok (k := .readTicket) ht rfl rfl rfl (readTicketRequest_found (s := hunt p s) hn h)
  · exact read_refused (k := .readTicket) ht rfl rfl rfl
      (readTicketRequest_notFound (s := hunt p s) hn h)
  · exact read_ok (k := .readRoster) ht rfl rfl rfl (readRosterRequest_found (s := hunt p s) hk h)
  · exact read_refused (k := .readRoster) ht rfl rfl rfl
      (readRosterRequest_notFound (s := hunt p s) hk h)
  · exact read_ok (k := .readConveyor) ht rfl rfl rfl rfl
  · exact read_ok (k := .readHaltHistory) ht rfl rfl rfl rfl
  · subst hj
    exact read_ok (k := .readStation) ht rfl rfl rfl (readStationRequest_found (s := hunt p s) j)
  · exact read_refused (k := .readStation) ht rfl rfl rfl
      (readStationRequest_outOfRange (s := hunt p s) hk h)
  · exact read_ok (k := .readMembers) ht rfl rfl rfl
      (readMembersRequest_found (s := hunt .site s) h)
  · exact read_refused (k := .readMembers) ht rfl rfl rfl
      (readMembersRequest_outOfRange (s := hunt .site s) hk h)
  · exact read_ok (k := .readCredits) ht rfl rfl rfl
      (readCreditsRequest_found (s := hunt .site s) h)
  · exact read_refused (k := .readCredits) ht rfl rfl rfl
      (readCreditsRequest_outOfRange (s := hunt .site s) hk h)
  · exact read_ok (k := .readTotals) ht rfl rfl rfl (readTotalsRequest_found (s := hunt .site s) h)
  · exact read_refused (k := .readTotals) ht rfl rfl rfl
      (readTotalsRequest_outOfRange (s := hunt .site s) hk h)
  · exact read_ok (k := .laneStatus) ht rfl rfl rfl rfl

end Sys2Proof.Machine
end

section
/-! # Modes and the store: the causes that start-up finds (R121, R139, R144, R158)

Device reset opens episode 1 under POWER_UP. Each cause that start-up then finds joins the cause set
and the further causes of that episode, and the halt state stays STOPPED. -/

namespace Sys2Proof.Machine

variable {s : State} {c : Cause} {p q : Cause → Prop}

/-! ## The halt records of start-up -/

/-- The halt records are written. -/
def withHalt (x : Halt) (s : State) : State := { s with halt := x }

/-- The machines of the stations are written. -/
def withMachines (m : Vector StationMachine 24) (s : State) : State :=
  { s with stn := { s.stn with machines := m } }

/-- R139: what a set holds once a cause has joined it. -/
theorem has_insert_iff (b : Set16) (c d : Cause) :
    Set16.has (Set16.insert b c.code) d.code = true ↔ d = c ∨ Set16.has b d.code = true := by
  by_cases hd : d = c
  · subst hd
    simp [has_insert_self]
  · have hsingle : (Set16.single c.code).getLsbD d.code = false := by
      revert hd
      cases c <;> cases d <;> decide
    simp [Set16.has, Set16.insert, hsingle, hd]

theorem insert_comm (b : Set16) (m n : Nat) :
    Set16.insert (Set16.insert b m) n = Set16.insert (Set16.insert b n) m := by
  simp only [Set16.insert]
  ac_rfl

/-- R144, R158: the halt records under POWER_UP, with a set of other causes. -/
def foundHalt (b : Set16) : Halt :=
  { Halt.start with
    causes := Set16.insert b Cause.powerUp.code
    history := [{ Episode.powerUp with further := b }] }

theorem foundHalt_has (b : Set16) (c : Cause) :
    Set16.has (foundHalt b).causes c.code = true ↔ c = .powerUp ∨ Set16.has b c.code = true :=
  has_insert_iff b .powerUp c

/-- R158: the halt records under POWER_UP, where the other causes found are those of p. -/
def Halt.Finds (x : Halt) (p : Cause → Prop) : Prop :=
  ∃ b, x = foundHalt b ∧ ∀ c : Cause, Set16.has b c.code = true ↔ p c

theorem Halt.Finds.congr {x : Halt} (h : x.Finds p) (hpq : ∀ c, p c ↔ q c) : x.Finds q := by
  obtain ⟨b, hx, hb⟩ := h
  exact ⟨b, hx, fun c => (hb c).trans (hpq c)⟩

theorem halt_start_finds : Halt.start.Finds fun _ => False :=
  ⟨0, rfl, fun c => by simp [Set16.has]⟩

theorem joinEpisode_found {b : Set16} (h : s.halt = foundHalt b) (hc : c ≠ .powerUp) :
    joinEpisode c (withCause c s) = withHalt (foundHalt (Set16.insert b c.code)) s := by
  simp [joinEpisode, withCause, withHalt, h, foundHalt, Episode.powerUp, Ne.symm hc,
    insert_comm b Cause.powerUp.code]

/-- R139, R144: a cause that start-up finds, whether it was found before or not. -/
theorem raiseCause_finds (h : s.halt.Finds p) (hc : c ≠ .powerUp) (subj : Subject) :
    ∃ x, raiseCause c subj s = withHalt x s ∧ x.Finds fun d => d = c ∨ p d := by
  obtain ⟨b, hx, hb⟩ := h
  have hstop : s.halt.state = .stopped := by rw [hx]; rfl
  refine raiseCause_cases (motive := fun t => ∃ x, t = withHalt x s ∧ x.Finds _)
    (fun hpresent => ⟨s.halt, rfl, b, hx, fun d => ?_⟩) (fun hrun => by simp [hstop] at hrun)
    (fun hhold => by simp [hstop] at hhold)
    fun _ _ => ⟨_, joinEpisode_found hx hc, _, rfl, fun d => ?_⟩
  · have hfound : p c := by
      rw [State.hasCause, hx] at hpresent
      exact (hb c).mp (((foundHalt_has b c).mp hpresent).resolve_left hc)
    exact (hb d).trans (or_iff_right_of_imp fun hd => hd ▸ hfound).symm
  · rw [has_insert_iff, hb]

/-! ## The chain and the drive fault input (R158) -/

/-- R158: a cause that the chain or the drive fault input gives. -/
abbrev Inputs.Gives (i : Inputs) (c : Cause) : Prop :=
  (c = .safetyChain ∧ i.chainClosed = false) ∨ (c = .driveFault ∧ i.driveFault = true)

/-- A cause that is found on a condition. -/
theorem raiseCause_finds_if (h : s.halt.Finds p) (hc : c ≠ .powerUp) (subj : Subject) (ok : Bool) :
    ∃ x, (if ok then raiseCause c subj s else s) = withHalt x s ∧
      x.Finds fun d => p d ∨ (d = c ∧ ok = true) := by
  cases ok with
  | false => exact ⟨s.halt, rfl, h.congr fun d => by simp⟩
  | true =>
    obtain ⟨x, hraise, hx⟩ := raiseCause_finds h hc subj
    exact ⟨x, hraise, hx.congr fun d => by simp [or_comm]⟩

theorem startCauses_finds (h : s.halt = Halt.start) :
    ∃ x, startCauses s = withHalt x s ∧ x.Finds s.inputs.Gives := by
  obtain ⟨x, hchain, hx⟩ := raiseCause_finds_if (s := s) (c := .safetyChain)
    (by rw [h]; exact halt_start_finds) nofun .none (!s.inputs.chainClosed)
  obtain ⟨y, hdrive, hy⟩ := raiseCause_finds_if (s := withHalt x s) (c := .driveFault)
    hx nofun .none s.inputs.driveFault
  refine ⟨y, ?_, hy.congr fun d => by simp⟩
  unfold startCauses
  have hfirst : (if s.inputs.chainClosed then s else raiseCause .safetyChain .none s) =
      withHalt x s := by
    rw [← hchain]
    cases s.inputs.chainClosed <;> rfl
  rw [hfirst]
  exact hdrive

/-! ## The stations (R121) -/

/-- R121: the machine a station starts with. -/
def State.startsWith (s : State) (j : StationIx) : StationMachine :=
  if s.isArm j then StationMachine.ofSwitch (s.stowedClosed j) else .start

/-- R121: an enabled arm whose switch reads open. -/
theorem startsWith_fault {j : StationIx} : (s.startsWith j).arm = .fault ↔
    s.isArm j = true ∧ s.stowedClosed j = false := by
  unfold State.startsWith
  cases s.isArm j <;> cases s.stowedClosed j <;> decide

theorem startMachine_eq (j : StationIx) (s : State) : startMachine j s =
    if s.isArm j && !s.stowedClosed j then
      raiseCause .armStuck (.station j) (setMachine j (s.startsWith j) s)
    else setMachine j (s.startsWith j) s := by
  unfold startMachine State.startsWith
  cases s.isArm j <;> cases s.stowedClosed j <;> simp [StationMachine.ofSwitch]

theorem startMachine_finds (h : s.halt.Finds p) (j : StationIx) :
    ∃ x, startMachine j s = withHalt x (setMachine j (s.startsWith j) s) ∧
      x.Finds fun c => p c ∨ (c = .armStuck ∧ (s.startsWith j).arm = .fault) := by
  obtain ⟨x, hraise, hx⟩ := raiseCause_finds_if (s := setMachine j (s.startsWith j) s) h
    (c := .armStuck) nofun (.station j) (s.isArm j && !s.stowedClosed j)
  exact ⟨x, (startMachine_eq j s).trans hraise, hx.congr fun c => by simp [startsWith_fault]⟩

/-- R121: the stations of a list start one after the other. -/
theorem startMachines_find (l : List StationIx) : ∀ {s : State} {p : Cause → Prop},
    s.halt.Finds p → ∃ m x, l.foldl (fun s j => startMachine j s) s = withHalt x (withMachines m s) ∧
      (∀ j : StationIx, m[j] = if j ∈ l then s.startsWith j else s.machine j) ∧
      x.Finds fun c => p c ∨ (c = .armStuck ∧ ∃ j ∈ l, (s.startsWith j).arm = .fault) := by
  induction l with
  | nil => exact fun {s p} h => ⟨s.stn.machines, s.halt, rfl, fun j => by simp [State.machine],
      h.congr fun c => by simp⟩
  | cons k l ih =>
    intro s p h
    obtain ⟨x, hstart, hx⟩ := startMachine_finds h k
    obtain ⟨m, y, hfold, hm, hy⟩ := ih (s := withHalt x (setMachine k (s.startsWith k) s)) hx
    refine ⟨m, y, by rw [List.foldl_cons, hstart, hfold]; rfl, fun j => ?_, hy.congr fun c => ?_⟩
    · have hset : (setMachine k (s.startsWith k) s).machine j =
          if k = j then s.startsWith k else s.machine j := vset_get ..
      have hrest : m[j] = if j ∈ l then s.startsWith j else
          (setMachine k (s.startsWith k) s).machine j := hm j
      rw [hrest, hset]
      by_cases hk : k = j
      · simp [hk]
      · simp [hk, Ne.symm hk]
    · have hsame : ∀ j, (withHalt x (setMachine k (s.startsWith k) s)).startsWith j =
          s.startsWith j := fun _ => rfl
      simp only [hsame, List.exists_mem_cons_iff, and_or_left, or_assoc]

end Sys2Proof.Machine
end

section
/-! # Modes and the store: device reset (R27, R121, R156, R158, R167, R168) -/

namespace Sys2Proof.Machine

variable {s : State}

/-! ## The store as start-up finds it (R167, R168, R171) -/

/-- R167: the marker is CLOSED and every settings row is valid. -/
theorem whole_iff {st : Store} : st.whole = true ↔
    st.marker = .closed ∧ ∀ r : Fin 95, st.rowsValid[r] = true := by
  simp [Store.whole, Fin.forall_iff, Vector.all_eq_true]

/-- R168: the flags name what was found where the store is not whole. -/
theorem startStore_flags (st : Store) :
    (st.whole = true → (startStore st).torn = false ∧ (startStore st).blank = false) ∧
    (st.whole = false → ((startStore st).blank = true ↔ st.marker = .blank) ∧
      ((startStore st).torn = true ↔ st.marker ≠ .blank)) := by
  unfold startStore Store.whole
  cases st.marker <;> simp

theorem abandonSave_none (h : s.store.save = none) : abandonSave s = s := by
  rw [abandonSave, h]

theorem abandonSave_keeps (s : State) : (abandonSave s).store.image = s.store.image ∧
    (abandonSave s).inputs = s.inputs ∧ (abandonSave s).pending = s.pending := by
  unfold abandonSave spoilRow
  repeat' split
  all_goals exact ⟨rfl, rfl, rfl⟩

/-- R171: a save that is cut off leaves a marker that does not read CLOSED. -/
theorem abandonSave_marker (h : s.store.save ≠ none) (hfits : s.markerFits) :
    (abandonSave s).store.marker ≠ .closed := by
  obtain ⟨j, hj⟩ := Option.ne_none_iff_exists'.mp h
  rw [abandonSave, hj]
  exact (spoilRow_marker j s).elim (fun hspoilt => hspoilt.2) fun hrow => hrow.2 ▸ hfits h

/-! ## The records (R27, R167) -/

/-- R167: the volatile records as start-up leaves them, whatever the store holds. -/
structure Fresh (s t : State) : Prop where
  sales : t.sales = Sales.start
  credits : t.credits = []
  gate : t.gate = Gate.start
  conv : t.conv = Conveyor.start
  track : t.track = ⟨[], false⟩
  jog : t.stn.jog = none
  halt : t.halt = Halt.start
  ports : t.ports = Vector.replicate 5 PortState.start
  store : t.store = startStore s.store
  inputs : t.inputs = s.inputs
  pending : t.pending = s.pending

theorem resetRecords_fresh (s : State) : Fresh s (resetRecords s) := by
  unfold resetRecords
  dsimp only
  split <;> exact ⟨rfl, rfl, rfl, rfl, rfl, rfl, rfl, rfl, rfl, rfl, rfl⟩

/-- R167 step 3: the settings and the wired entries are loaded. -/
theorem resetRecords_loads (h : s.store.whole = true) : (resetRecords s).mode = .closed ∧
    (resetRecords s).settings = s.store.image.site ∧
    (resetRecords s).memb = startMembers s.store.image := by
  simp [resetRecords, h]

/-- R167 step 4: the defaults. -/
theorem resetRecords_defaults (h : s.store.whole = false) : (resetRecords s).mode = .setup ∧
    (resetRecords s).settings = SiteSettings.default ∧
    (resetRecords s).memb = State.reset.memb := by
  simp [resetRecords, h, State.reset]

theorem resetRecords_unlocked (s : State) : (resetRecords s).mode ≠ .lockout := by
  cases h : s.store.whole with
  | true => simp [(resetRecords_loads h).1]
  | false => simp [(resetRecords_defaults h).1]

/-- R27: the replacement pointer starts at W. -/
theorem resetRecords_pointer (s : State) (h : (resetRecords s).settings.wired < 48) :
    (resetRecords s).memb.pointer.val = (resetRecords s).settings.wired := by
  cases hwhole : s.store.whole with
  | true =>
    obtain ⟨-, hsettings, hmemb⟩ := resetRecords_loads hwhole
    rw [hsettings] at h ⊢
    rw [hmemb, startMembers, fin?, dif_pos h]
    rfl
  | false =>
    obtain ⟨-, hsettings, hmemb⟩ := resetRecords_defaults hwhole
    rw [hsettings, hmemb]
    rfl

/-! ## The whole of start-up (R156, R158) -/

/-- R156: the mismatch timer as start-up leaves it. -/
def startTimer (i : Inputs) : Timer :=
  if i.readback = i.chainClosed then .stopped else .running 20000

theorem testMismatch_start (hmode : s.mode ≠ .lockout) (h : s.halt.mismatchTimer = .stopped) :
    testMismatch s =
      { s with halt := { s.halt with mismatchTimer := startTimer s.inputs } } := by
  unfold startTimer
  by_cases hsame : s.inputs.readback = s.inputs.chainClosed
  · rw [if_pos hsame, testMismatch_agrees (Or.inr (by rw [relayCommand_unlocked hmode, hsame]))]
  · rw [if_neg hsame, testMismatch_starts hmode (by rwa [relayCommand_unlocked hmode]) (by rw [h]; rfl)]

/-- R167: r holds the records of the part s after the steps of a device reset that load the store, and
before start-up reads the inputs. -/
structure Starts (s r : State) : Prop where
  fresh : Fresh (abandonSave s) r
  unlocked : r.mode ≠ .lockout
  loads : s.store.save = none → s.store.whole = true → r.mode = .closed ∧
    r.settings = s.store.image.site ∧ r.memb.entries = (startMembers s.store.image).entries
  defaults : s.store.save = none → s.store.whole = false → r.mode = .setup ∧
    r.settings = SiteSettings.default ∧ r.memb = State.reset.memb
  cutOff : s.store.save ≠ none → s.markerFits → r.mode = .setup ∧
    r.settings = SiteSettings.default ∧ r.store.marker ≠ .closed
  pointer : r.settings.wired < 48 → r.memb.pointer.val = r.settings.wired

theorem resetRecords_starts (s : State) : Starts s (resetRecords (abandonSave s)) where
  fresh := resetRecords_fresh _
  unlocked := resetRecords_unlocked _
  loads hsave h := by
    rw [abandonSave_none hsave]
    obtain ⟨hmode, hsettings, hmemb⟩ := resetRecords_loads h
    exact ⟨hmode, hsettings, congrArg Members.entries hmemb⟩
  defaults hsave h := by
    rw [abandonSave_none hsave]
    exact resetRecords_defaults h
  cutOff hsave hfits := by
    have hmarker := abandonSave_marker hsave hfits
    obtain ⟨hmode, hsettings, -⟩ := resetRecords_defaults
      (Bool.eq_false_iff.mpr fun h => hmarker (whole_iff.mp h).1)
    rw [(resetRecords_fresh _).store]
    exact ⟨hmode, hsettings, hmarker⟩
  pointer := resetRecords_pointer _

/-! ## What start-up gives over those records (R121, R156, R158) -/

section
variable {r : State} (h : Starts s r)
include h

theorem Starts.inputs : r.inputs = s.inputs := h.fresh.inputs.trans (abandonSave_keeps s).2.1

theorem Starts.pending : r.pending = s.pending := h.fresh.pending.trans (abandonSave_keeps s).2.2

theorem Starts.image : r.store.image = s.store.image :=
  (congrArg Store.image h.fresh.store).trans (abandonSave_keeps s).1

theorem Starts.save : r.store.save = none := congrArg Store.save h.fresh.store

theorem Starts.store (hsave : s.store.save = none) : r.store = startStore s.store := by
  rw [h.fresh.store, abandonSave_none hsave]

theorem Starts.marker (hsave : s.store.save = none) : r.store.marker = s.store.marker := by
  rw [h.store hsave]
  rfl

theorem Starts.relayCommand : r.relayCommand = s.inputs.chainClosed := by
  rw [relayCommand_unlocked h.unlocked, h.inputs]

end

/-- R121, R158: a cause that start-up finds beside POWER_UP. -/
abbrev State.GivesAtStart (s : State) (c : Cause) : Prop :=
  s.inputs.Gives c ∨ (c = .armStuck ∧ ∃ j : StationIx, (s.startsWith j).arm = .fault)

/-- R158, R167: device reset gives those records, the machines that the switches give, and the halt
records with the causes that are found. -/
theorem deviceReset_eq (s : State) : ∃ r m b, Starts s r ∧
    deviceReset s = raiseAll (.halt .powerUp 1) (withHalt
      { foundHalt b with mismatchTimer := startTimer r.inputs } (withMachines m r)) ∧
    (∀ j : StationIx, m[j] = r.startsWith j) ∧
    ∀ c : Cause, Set16.has b c.code = true ↔ r.GivesAtStart c := by
  have hstarts := resetRecords_starts s
  have hreset : deviceReset s = raiseAll (.halt .powerUp 1) (testMismatch
      (stationIxs.foldl (fun s j => startMachine j s)
        (startCauses (resetRecords (abandonSave s))))) := rfl
  generalize resetRecords (abandonSave s) = r at hstarts hreset
  obtain ⟨x, hcauses, hx⟩ := startCauses_finds hstarts.fresh.halt
  obtain ⟨m, y, hstations, hm, b, rfl, hb⟩ := startMachines_find stationIxs (s := withHalt x r) hx
  refine ⟨r, m, b, hstarts, ?_, fun j => (hm j).trans (if_pos (mem_stationIxs j)),
    fun c => (hb c).trans ?_⟩
  · rw [hreset, hcauses, hstations, testMismatch_start
      (s := withHalt (foundHalt b) (withMachines m (withHalt x r))) hstarts.unlocked rfl]
    rfl
  · simp only [mem_stationIxs, true_and]
    rfl

/-! ## The statement -/

/-- R184: HALT is the one notice of each port. -/
theorem port_raiseAll_start {t : State} (h : t.ports = Vector.replicate 5 PortState.start)
    (p : Port) : (raiseAll (.halt .powerUp 1) t).port p =
      { PortState.start with notices := [.halt .powerUp 1] } := by
  simp [raiseAll, State.port, vmap_getElem, h, PortState.start, addNotice]

/-- Settles O56: what device reset gives record by record, and the store by what it reads. -/
theorem deviceResetStartsThePart : Obligations.DeviceResetStartsThePart := by
  unfold Obligations.DeviceResetStartsThePart
  intro s whole
  obtain ⟨r, m, b, hstarts, hreset, hm, hb⟩ := deviceReset_eq s
  have hfresh := hstarts.fresh
  have harm : ∀ j : StationIx, m[j].arm = .fault ↔ (r.station j).enabled = true ∧
      (r.station j).kind = .arm ∧ s.inputs.stowed[(r.station j).channel] = false := fun j => by
    rw [hm, startsWith_fault, ← hstarts.inputs, ← and_assoc]
    simp [State.isArm, State.stowedClosed]
  have hfound : ∀ c : Cause, Set16.has b c.code = true ↔
      (c = .safetyChain ∧ s.inputs.chainClosed = false) ∨
      (c = .driveFault ∧ s.inputs.driveFault = true) ∨
      (c = .armStuck ∧ ∃ j : StationIx, m[j].arm = .fault) := fun c => by
    simp only [hb, hm, State.GivesAtStart, hstarts.inputs, or_assoc]
  refine ⟨_, congrArg done hreset, fun hsave hwhole => ?_, fun hsave hwhole => ?_,
    hstarts.marker, hstarts.image, hstarts.cutOff, hstarts.pointer, hstarts.save, rfl, rfl,
    ⟨fun c => (foundHalt_has b c).trans (or_congr_right (hfound c)), _, rfl, rfl, rfl, rfl, rfl, rfl,
      rfl, hfound⟩,
    congrArg startTimer hstarts.inputs, hfresh.sales, hfresh.credits, hfresh.gate, hfresh.conv,
    hfresh.track, hfresh.jog, harm, port_raiseAll_start hfresh.ports, hstarts.relayCommand,
    hstarts.inputs, hstarts.pending⟩
  · obtain ⟨hmode, hsettings, hentries⟩ := hstarts.loads hsave (whole_iff.mpr hwhole)
    obtain ⟨htorn, hblank⟩ := (startStore_flags s.store).1 (whole_iff.mpr hwhole)
    rw [← hstarts.store hsave] at htorn hblank
    exact ⟨hmode, hsettings, hentries, htorn, hblank⟩
  · have hnot : s.store.whole = false := Bool.eq_false_iff.mpr (mt whole_iff.mp hwhole)
    obtain ⟨hmode, hsettings, hmemb⟩ := hstarts.defaults hsave hnot
    obtain ⟨hblank, htorn⟩ := (startStore_flags s.store).2 hnot
    rw [← hstarts.store hsave] at htorn hblank
    refine ⟨hmode, hsettings, hblank, htorn, fun k => ?_⟩
    have hentry : r.entry k = State.reset.entry k := by rw [State.entry, hmemb, State.entry]
    exact congrArg MemberEntry.valid (hentry.trans (reset_entry k))

end Sys2Proof.Machine
end

section
/-! # Link: the pending notices stand in order (R184) -/

namespace Sys2Proof.Machine

variable {s t : State} {n m : Notice} {l : List Notice}

/-! ## A notice that is raised -/

/-- R184: pending notices in strict order of priority. -/
abbrev InOrder (l : List Notice) : Prop := l.Pairwise fun a b => a.kind < b.kind

/-- R184: what is pending after a notice is raised. -/
theorem mem_addNotice_iff (h : InOrder l) :
    m ∈ addNotice n l ↔ m = n ∨ (m ∈ l ∧ m.kind ≠ n.kind) := by
  induction l with
  | nil => simp [addNotice]
  | cons y l ih =>
    obtain ⟨hy, hl⟩ := List.pairwise_cons.mp h
    unfold addNotice
    split
    · next hlt =>
      have hne : ∀ x ∈ y :: l, x.kind ≠ n.kind := by
        intro x hx
        rcases List.mem_cons.mp hx with rfl | hx
        · exact Nat.ne_of_gt hlt
        · exact Nat.ne_of_gt (Nat.lt_trans hlt (hy x hx))
      rw [List.mem_cons]
      exact or_congr_right ⟨fun hm => ⟨hm, hne m hm⟩, And.left⟩
    · split
      · next heq =>
        have hne : ∀ x ∈ l, x.kind ≠ n.kind := fun x hx => heq ▸ Nat.ne_of_gt (hy x hx)
        simp only [List.mem_cons]
        refine or_congr_right ⟨fun hm => ⟨Or.inr hm, hne m hm⟩, ?_⟩
        rintro ⟨rfl | hm, hkind⟩
        · exact absurd heq.symm hkind
        · exact hm
      · next hne =>
        simp only [List.mem_cons, ih hl]
        constructor
        · rintro (rfl | rfl | ⟨hm, hkind⟩)
          · exact Or.inr ⟨Or.inl rfl, Ne.symm hne⟩
          · exact Or.inl rfl
          · exact Or.inr ⟨Or.inr hm, hkind⟩
        · rintro (rfl | ⟨rfl | hm, hkind⟩)
          · exact Or.inr (Or.inl rfl)
          · exact Or.inl rfl
          · exact Or.inr (Or.inr ⟨hm, hkind⟩)

/-- R184: a raised notice takes its place in the order. -/
theorem addNotice_inOrder (n : Notice) (h : InOrder l) : InOrder (addNotice n l) := by
  induction l with
  | nil => exact List.pairwise_singleton _ n
  | cons y l ih =>
    obtain ⟨hy, hl⟩ := List.pairwise_cons.mp h
    unfold addNotice
    split
    · next hlt =>
      refine List.pairwise_cons.mpr ⟨fun x hx => ?_, h⟩
      rcases List.mem_cons.mp hx with rfl | hx
      · exact hlt
      · exact Nat.lt_trans hlt (hy x hx)
    · split
      · next heq => exact List.pairwise_cons.mpr ⟨fun x hx => heq ▸ hy x hx, hl⟩
      · next hnlt hne =>
        refine List.pairwise_cons.mpr ⟨fun x hx => ?_, ih hl⟩
        rcases (mem_addNotice_iff hl).mp hx with rfl | ⟨hx, -⟩
        · omega
        · exact hy x hx

/-! ## The ports -/

theorem notices_raiseTo (p : Port) (n : Notice) (s : State) :
    ((raiseTo p n s).port p).notices = addNotice n (s.port p).notices :=
  congrArg PortState.notices (port_setPort_same ..)

theorem notices_raiseAll (p : Port) (n : Notice) (s : State) :
    ((raiseAll n s).port p).notices = addNotice n (s.port p).notices := by
  simp [raiseAll, State.port, vmap_getElem]

theorem noticesFit_ports (h : t.ports = s.ports) (hs : s.noticesFit) : t.noticesFit := fun p => by
  rw [port_congr h]
  exact hs p

theorem setPort_noticesFit {p : Port} {x : PortState} (hx : InOrder x.notices)
    (hs : s.noticesFit) : (s.setPort p x).noticesFit := fun q => by
  by_cases hq : p = q
  · subst hq
    rwa [port_setPort_same]
  · rw [port_setPort_other s x hq]
    exact hs q

theorem raiseTo_noticesFit (p : Port) (n : Notice) (hs : s.noticesFit) :
    (raiseTo p n s).noticesFit := setPort_noticesFit (addNotice_inOrder n (hs p)) hs

theorem raiseAll_noticesFit (n : Notice) (hs : s.noticesFit) : (raiseAll n s).noticesFit :=
  fun p => by
    rw [notices_raiseAll]
    exact addNotice_inOrder n (hs p)

/-! ## Every step keeps the order -/

theorem joinEpisode_ports (c : Cause) (s : State) : (joinEpisode c s).ports = s.ports := by
  unfold joinEpisode
  repeat' split
  all_goals rfl

theorem closeEpisode_noticesFit (b : EndedBy) (hs : s.noticesFit) :
    (closeEpisode b s).noticesFit := by
  unfold closeEpisode
  repeat' split
  · exact raiseAll_noticesFit _ hs
  · exact hs
  · exact hs

theorem setHalt_noticesFit (new : HaltState) (hs : s.noticesFit) : (setHalt new s).noticesFit :=
  noticesFit_ports (setHalt_ports new s) hs

/-- R147: an opened episode raises HALT, and nothing else of a raised cause raises a notice. -/
theorem raiseCause_noticesFit (c : Cause) (subj : Subject) (hs : s.noticesFit) :
    (raiseCause c subj s).noticesFit :=
  have hjoined : (joinEpisode c (withCause c s)).noticesFit :=
    noticesFit_ports (joinEpisode_ports c _) hs
  raiseCause_cases (fun _ => hs)
    (fun _ => setHalt_noticesFit _ (raiseAll_noticesFit _ hs))
    (fun _ _ => setHalt_noticesFit _ hjoined) fun _ _ => hjoined

theorem clearCause_noticesFit (c : Cause) (hs : s.noticesFit) : (clearCause c s).noticesFit :=
  clearCause_cases (fun _ => hs)
    (fun _ _ => setHalt_noticesFit _ (closeEpisode_noticesFit (s := withoutCause c s) .auto hs))
    fun _ => hs

theorem Reacts.noticesFit (h : Reacts s t) : s.noticesFit → t.noticesFit := by
  induction h with
  | quiet h => exact noticesFit_ports (ports_of_frame h)
  | trans _ _ h k => exact k ∘ h
  | notice p n s => exact raiseTo_noticesFit p n
  | demand s => exact noticesFit_ports (testDemand_ports s)
  | unpark s => exact id
  | drained s _ => exact noticesFit_ports (testDemand_ports _)
  | cause c subj s => exact raiseCause_noticesFit c subj
  | clear c s => exact clearCause_noticesFit c

/-- R167, R184: device reset leaves HALT alone pending at each port. -/
theorem deviceReset_port (s : State) (p : Port) : (deviceReset s).port p =
    { PortState.start with notices := [.halt .powerUp 1] } := by
  obtain ⟨r, m, b, hstarts, hreset, -⟩ := deviceReset_eq s
  rw [hreset]
  exact port_raiseAll_start hstarts.fresh.ports p

theorem deviceReset_noticesFit (s : State) : (deviceReset s).noticesFit := fun p => by
  rw [deviceReset_port]
  exact List.pairwise_singleton _ _

/-- R184: what a command does keeps the pending notices in order. -/
theorem Does.noticesFit (h : Does s t) : s.noticesFit → t.noticesFit := by
  induction h with
  | reacts h => exact h.noticesFit
  | trans _ _ h k => exact k ∘ h
  | time n s =>
    intro hs p
    have hport : ((advance n s).port p).notices = (s.port p).notices := by
      simp [advance, State.port, vmap_getElem]
    rw [hport]
    exact hs p
  | chain b s => exact noticesFit_ports (testDemand_ports _)
  | port p x s h => exact fun hs => setPort_noticesFit (h ▸ hs p) hs
  | collect p x s h => exact fun hs => setPort_noticesFit ((hs p).sublist h) hs
  | opens s _ => exact noticesFit_ports (testDemand_ports _)
  | lockout s => exact noticesFit_ports (testDemand_ports _)
  | parks s => exact noticesFit_ports (testDemand_ports _)
  | resumes s _ =>
    intro hs
    refine setHalt_noticesFit _ ?_
    split
    · exact closeEpisode_noticesFit .console hs
    · exact hs
  | resets s => exact fun _ => deviceReset_noticesFit s
  | _ => exact id

/-! ## The marker (R171) -/

theorem markerFits_store (h : t.store = s.store) (hs : s.markerFits) : t.markerFits := by
  rw [State.markerFits, h]
  exact hs

theorem store_of_outer (h : outer t = outer s) : t.store = s.store := congrArg Prod.fst h

theorem testDemand_store (s : State) : (testDemand s).store = s.store :=
  store_of_outer (testDemand_outer s)

/-- R171: what a command does leaves no CLOSED marker while a save is in progress. -/
theorem Does.markerFits (h : Does s t) : s.markerFits → t.markerFits := by
  induction h with
  | reacts h => exact markerFits_store (store_of_outer (reacts_outer h))
  | trans _ _ h k => exact k ∘ h
  | chain b s => exact markerFits_store (testDemand_store _)
  | opens s _ => exact markerFits_store (testDemand_store _)
  | lockout s => exact markerFits_store (testDemand_store _)
  | parks s => exact markerFits_store (testDemand_store _)
  | resumes s _ =>
    refine markerFits_store ((store_of_outer (setHalt_outer _ _)).trans ?_)
    split
    · exact store_of_outer (closeEpisode_outer _ _)
    · rfl
  | stores x n s h =>
    intro hs hsave
    rcases h hsave with hmarker | ⟨hbefore, hsame⟩
    · exact hmarker
    · exact hsame ▸ hs hbefore
  | resets s =>
    obtain ⟨r, m, b, hstarts, hreset, -⟩ := deviceReset_eq s
    refine fun _ hsave => absurd ?_ hsave
    rw [hreset]
    exact hstarts.save
  | _ => exact id

end Sys2Proof.Machine
end

section
/-! # Link: the credit list keeps to its 32 (R38, R39) -/

namespace Sys2Proof.Machine

variable {s t : State} {n : Nat}

theorem creditsFit_congr (h : t.credits = s.credits) (hs : s.creditsFit) : t.creditsFit := by
  rw [State.creditsFit, h]
  exact hs

theorem creditsFit_books (h : books t = books s) : s.creditsFit → t.creditsFit :=
  creditsFit_congr (congrArg Prod.fst h)

/-- The records hold the credits' codes, and so their number. -/
theorem creditsFit_recs (h : recs t = recs s) (hs : s.creditsFit) : t.creditsFit := by
  have hcodes : t.credits.map (fun c => c.code) = s.credits.map (fun c => c.code) :=
    congrArg (fun x => x.1.2.2.2.2.2.2.2) h
  have hlength : t.credits.length = s.credits.length := by
    simpa using congrArg List.length hcodes
  rw [State.creditsFit, hlength]
  exact hs

/-! ## A retirement (R22, R39) -/

/-- R39: a full list drops its oldest credit before it takes a new one. -/
theorem issueCredit_creditsFit (k : Ticket) (r : Result) (hs : s.creditsFit) :
    (issueCredit k r s).creditsFit := by
  have hlength : s.credits.length ≤ 32 := hs
  show (issueCredit k r s).credits.length ≤ 32
  rw [issueCredit_credits]
  split <;> simp <;> omega

theorem retireTicket_creditsFit (n : Nat) (r : Result) (hs : s.creditsFit) :
    (retireTicket n r s).creditsFit := by
  cases hk : s.ticket? n with
  | none => simpa [retireTicket, hk] using hs
  | some k =>
    by_cases he : Earns k r
    · rw [retireTicket_earning hk he]
      exact creditsFit_congr (leaveTable_leaves ..).1 (issueCredit_creditsFit k r hs)
    · rw [retireTicket_plain hk he]
      exact creditsFit_congr ((leaveTable_leaves ..).1.trans (unstamped_leaves k r s).2) hs

/-! ## What events end with -/

theorem settle_creditsFit (b : State) : s.creditsFit → (settle b s).creditsFit :=
  creditsFit_books (settle_books b s)

theorem settleDrain_creditsFit (b : State) : s.creditsFit → (settleDrain b s).creditsFit :=
  creditsFit_recs (settleDrain_recs b s)

theorem settleHalted_creditsFit (b : State) (hs : s.creditsFit) :
    (settleHalted b s).creditsFit := by
  unfold settleHalted
  split
  · exact hs
  · exact settle_creditsFit b hs

theorem rosterChanged_creditsFit : s.creditsFit → (rosterChanged s).creditsFit :=
  creditsFit_books (rosterChanged_books s)

/-! ## The roster (R94, R95, R104 to R108) -/

theorem dropCar_creditsFit (n : Nat) (r : Result) (hs : s.creditsFit) :
    (dropCar n r s).creditsFit := by
  have hretired : (retireTicket n r
      (setRoster (s.track.roster.filter (fun c => c.ticket ≠ n)) s)).creditsFit :=
    retireTicket_creditsFit n r hs
  unfold dropCar
  dsimp only
  refine creditsFit_recs (evaluate_recs _) ?_
  split <;> exact hretired

/-- A fold of operations that keep the list to its 32 does. -/
theorem foldl_creditsFit {α : Type} {f : State → α → State}
    (hf : ∀ u x, u.creditsFit → (f u x).creditsFit) (l : List α) (hs : s.creditsFit) :
    (l.foldl f s).creditsFit :=
  List.foldlRecOn (motive := State.creditsFit) l f hs fun u hu x _ => hf u x hu

theorem dropAtLimit_creditsFit (s : State) (n : Nat) (hs : s.creditsFit) :
    (dropAtLimit s n).creditsFit :=
  creditsFit_recs (raiseCause_recs ..) (dropCar_creditsFit n .removed hs)

theorem dropAtExit_creditsFit (s : State) (n : Nat) (hs : s.creditsFit) :
    (dropAtExit s n).creditsFit := by
  unfold dropAtExit
  split
  · exact dropCar_creditsFit _ _ hs
  · exact hs

theorem testOverdue_creditsFit (hs : s.creditsFit) : (testOverdue s).creditsFit := by
  unfold testOverdue
  split
  · exact hs
  · exact foldl_creditsFit dropAtExit_creditsFit _ hs

theorem trackPulse_creditsFit (hs : s.creditsFit) : (trackPulse s).creditsFit := by
  have hadvanced : (advanceFronts s).creditsFit := hs
  exact creditsFit_recs (testExitBlocked_recs _) (testOverdue_creditsFit
    (creditsFit_recs (testSlip_recs _)
      (foldl_creditsFit dropAtLimit_creditsFit _ hadvanced)))

theorem clearExit_creditsFit :
    ∀ (fuel : Nat) {s : State}, s.creditsFit → (clearExit fuel s).creditsFit
  | 0, _, hs => hs
  | fuel + 1, s, hs => by
    unfold clearExit
    split
    · exact hs
    · split
      · exact clearExit_creditsFit fuel (dropCar_creditsFit _ _ hs)
      · exact hs

theorem exitRestore_creditsFit (hs : s.creditsFit) : (exitRestore s).creditsFit := by
  have hcleared : (clearExit s.track.roster.length
      { s with inputs := { s.inputs with exitEye := false } }).creditsFit :=
    clearExit_creditsFit _ hs
  unfold exitRestore
  dsimp only
  refine creditsFit_recs (clearCause_recs ..) ?_
  split
  · exact rosterChanged_creditsFit hcleared
  · exact creditsFit_recs (noteMoved_recs ..) hcleared

theorem verifyCheckpoint_creditsFit (k : Checkpoint) (g : CheckpointCfg) (hs : s.creditsFit) :
    (verifyCheckpoint k g s).creditsFit := by
  have hmoved : ∀ r, (setRoster r s).creditsFit := fun _ => hs
  unfold verifyCheckpoint
  split
  · split
    · exact hs
    · next i _ _ c _ =>
      dsimp only
      generalize (if i = 0 then none else s.track.roster[i - 1]?) = older
      split
      · exact rosterChanged_creditsFit (hmoved _)
      · exact creditsFit_recs (raiseCause_recs ..) (hmoved _)
  · split
    · exact hs
    · exact creditsFit_recs (raiseCause_recs ..) hs

theorem checkpointBreak_creditsFit (k : Checkpoint) (hs : s.creditsFit) :
    (checkpointBreak k s).creditsFit := by
  unfold checkpointBreak
  dsimp only
  repeat' split
  · exact hs
  · exact creditsFit_recs (noteMoved_recs ..) hs
  · exact verifyCheckpoint_creditsFit k _ hs

/-! ## The gate (R53 to R60) -/

theorem fixLength_creditsFit (len : Nat) (short : Bool) (hs : s.creditsFit) :
    (fixLength len short s).creditsFit := rosterChanged_creditsFit hs

theorem testSettled_creditsFit (hs : s.creditsFit) : (testSettled s).creditsFit := by
  unfold testSettled
  repeat' split
  · exact fixLength_creditsFit _ _ hs
  · exact fixLength_creditsFit _ _ hs
  · exact hs

theorem fixTailgated_creditsFit (hs : s.creditsFit) : (fixTailgated s).creditsFit := by
  unfold fixTailgated
  split
  · exact fixLength_creditsFit _ _ hs
  · exact hs

theorem gateEntryBreak_creditsFit (hs : s.creditsFit) : (gateEntryBreak s).creditsFit := by
  have hbegun : ∀ n, (beginMeasure n s).creditsFit := fun _ => rosterChanged_creditsFit hs
  unfold gateEntryBreak
  repeat' split
  · exact hbegun _
  · exact hs
  · exact creditsFit_recs (resumeMeasure_recs s) hs
  all_goals exact creditsFit_recs (raiseCause_recs ..) hs

theorem gatePulse_creditsFit (hs : s.creditsFit) : (gatePulse s).creditsFit := by
  unfold gatePulse
  split
  · exact creditsFit_recs (testLoadDistance_recs _) hs
  · refine testSettled_creditsFit (creditsFit_recs (testMaxLen_recs _) ?_)
    repeat' split
    all_goals exact hs
  · exact creditsFit_recs (testSpacing_recs s) hs
  all_goals exact hs

theorem pulse_creditsFit (elapsed : Nat) (hs : s.creditsFit) : (pulse elapsed s).creditsFit :=
  settle_creditsFit s (gatePulse_creditsFit (creditsFit_recs (evaluate_recs _)
    (trackPulse_creditsFit (creditsFit_recs (convPulse_recs _)
      (creditsFit_recs (advance_recs elapsed s) hs)))))

theorem decided_creditsFit {b : State} (r : Response) (hs : s.creditsFit) :
    (decided b r s).2.creditsFit := settle_creditsFit b hs

/-! ## Requests that write records of a sale, the gate or the members -/

theorem writeSale_credits (i : Lane) (record : Nat → Ticket) (s : State) :
    (writeSale i record s).2.credits = s.credits := by
  unfold writeSale
  repeat' split
  all_goals rfl

theorem quoteRequest_credits (i : Lane) (b : List Byte) (s : State) :
    (quoteRequest i b s).2.credits = s.credits := by
  unfold quoteRequest
  repeat' split
  all_goals first | rfl | exact writeSale_credits i _ s

theorem redeemRequest_credits (i : Lane) (b : List Byte) (s : State) :
    (redeemRequest i b s).2.credits = s.credits := by
  unfold redeemRequest
  dsimp only
  repeat' split
  all_goals first | rfl | exact writeSale_credits i _ s

theorem tagRequest_credits (i : Lane) (b : List Byte) (s : State) :
    (tagRequest i b s).2.credits = s.credits := by
  unfold tagRequest
  dsimp only
  repeat' split
  all_goals first | rfl | exact writeSale_credits i _ s

theorem removeCredit_creditsFit (code : Nat) (hs : s.creditsFit) :
    (removeCredit code s).creditsFit :=
  Nat.le_trans (List.length_filter_le _ _) hs

/-- R17, R41: a rewash that is paid spends the credit it names; a paid sale writes none. -/
theorem payRequest_creditsFit (i : Lane) (b : List Byte) (hs : s.creditsFit) :
    (payRequest i b s).2.creditsFit := by
  unfold payRequest
  split
  · exact hs
  · split
    · exact hs
    · exact hs
    · next n lines tm names hslot =>
      split
      · exact hs
      · next k hk =>
        have hrewash : (settleRewash k names s).creditsFit := by
          rw [State.creditsFit, settleRewash_credits]
          exact Nat.le_trans (List.length_filter_le _ _) hs
        dsimp only
        split
        · exact hrewash
        · exact creditsFit_congr (settlePaid_credits n k lines (longAt b 0) s) hs

theorem cancelSlot_credits (i : Lane) (s : State) : (cancelSlot i s).credits = s.credits := by
  unfold cancelSlot
  split <;> rfl

theorem cancelRequest_creditsFit (i : Lane) (hs : s.creditsFit) :
    (cancelRequest i s).2.creditsFit := by
  unfold cancelRequest
  split
  · exact hs
  · exact settleDrain_creditsFit s (creditsFit_congr (cancelSlot_credits i s) hs)

theorem endWait_creditsFit (i : Lane) (st : Status) (hs : s.creditsFit) :
    (endWait i st s).creditsFit := creditsFit_congr (cancelSlot_credits i s) hs

theorem completeWait_creditsFit (k : EntryIx) (s : State) (i : Lane) (hs : s.creditsFit) :
    (completeWait k s i).creditsFit := by
  unfold completeWait
  repeat' split
  any_goals exact hs
  exact endWait_creditsFit _ _ hs

theorem loaded_creditsFit {b : State} (k : EntryIx) (hs : s.creditsFit) :
    (loaded b k s).2.creditsFit :=
  settleDrain_creditsFit b (foldl_creditsFit (completeWait_creditsFit k) lanes hs)

theorem loadMemberRequest_creditsFit (b : List Byte) (hs : s.creditsFit) :
    (loadMemberRequest b s).2.creditsFit := by
  unfold loadMemberRequest
  split
  · exact hs
  · split
    · exact hs
    · split
      · exact hs
      · split
        · exact loaded_creditsFit _ hs
        · split
          · exact hs
          · split
            · exact hs
            · refine loaded_creditsFit _ ?_
              split <;> exact hs

theorem noMemberRequest_creditsFit (b : List Byte) (hs : s.creditsFit) :
    (noMemberRequest b s).2.creditsFit := by
  unfold noMemberRequest
  dsimp only
  split
  · refine settleDrain_creditsFit s (foldl_creditsFit (fun u i hu => ?_) lanes hs)
    split
    · exact endWait_creditsFit _ _ hu
    · exact hu
  · exact hs

theorem dropCreditRequest_creditsFit (b : List Byte) (hs : s.creditsFit) :
    (dropCreditRequest b s).2.creditsFit := by
  unfold dropCreditRequest
  dsimp only
  repeat' split
  · exact hs
  · exact hs
  · exact removeCredit_creditsFit _ hs

theorem placeRequest_creditsFit (b : List Byte) (hs : s.creditsFit) :
    (placeRequest b s).2.creditsFit := by
  unfold placeRequest
  dsimp only
  repeat' split
  · exact hs
  · exact hs
  · exact hs
  · exact settle_creditsFit s hs

theorem gateDecideRequest_creditsFit (b : List Byte) (hs : s.creditsFit) :
    (gateDecideRequest b s).2.creditsFit := by
  have hretry : (decideRetry s).2.creditsFit := by
    unfold decideRetry
    repeat' split
    all_goals first | exact hs | exact decided_creditsFit _ hs
  have hwave : (decideWave s).2.creditsFit := by
    unfold decideWave
    repeat' split
    all_goals first | exact hs | exact decided_creditsFit _ hs
  have hsell : ∀ r, (decideSell r s).2.creditsFit := fun r => by
    unfold decideSell
    repeat' split
    all_goals first | exact hs | exact decided_creditsFit _ hs
  have hremove : (decideRemove s).2.creditsFit := by
    unfold decideRemove
    repeat' split
    all_goals first
      | exact hs
      | exact decided_creditsFit _ (retireTicket_creditsFit _ _ hs)
  unfold gateDecideRequest
  split
  · exact hretry
  · exact hwave
  · exact hsell _
  · exact hremove
  · exact hs

/-! ## The other requests -/

theorem removeCarRequest_creditsFit (b : List Byte) (hs : s.creditsFit) :
    (removeCarRequest b s).2.creditsFit := by
  unfold removeCarRequest
  dsimp only
  repeat' split
  · exact hs
  · dsimp only
    exact settle_creditsFit s (rosterChanged_creditsFit (dropCar_creditsFit _ _ hs))
  · exact hs

theorem carryOutResume_creditsFit (hs : s.creditsFit) : (carryOutResume s).creditsFit := by
  unfold carryOutResume
  dsimp only
  refine settle_creditsFit s (fixTailgated_creditsFit (creditsFit_books (setHalt_books ..) ?_))
  split
  · exact creditsFit_books (closeEpisode_books ..) hs
  · exact hs

theorem resumeRequest_creditsFit (hs : s.creditsFit) : (resumeRequest s).2.creditsFit := by
  unfold resumeRequest
  split
  · exact hs
  · dsimp only
    exact carryOutResume_creditsFit hs

theorem setTimingRequest_creditsFit (b : List Byte) (hs : s.creditsFit) :
    (setTimingRequest b s).2.creditsFit := by
  unfold setTimingRequest
  dsimp only
  split
  · exact hs
  · split
    · exact hs
    · dsimp only
      split
      · exact hs
      · exact settleDrain_creditsFit s (creditsFit_recs (evalIfPaceMoved_recs ..) hs)

theorem setStationRequest_creditsFit (b : List Byte) (hs : s.creditsFit) :
    (setStationRequest b s).2.creditsFit := by
  unfold setStationRequest
  repeat' split
  any_goals exact hs
  exact settleHalted_creditsFit s (creditsFit_recs (writeStation_recs ..) hs)

theorem openRequest_creditsFit (hs : s.creditsFit) : (openRequest s).2.creditsFit := by
  have hopened : (settle s (retestDemand { s with mode := .openMode })).creditsFit :=
    settle_creditsFit s (creditsFit_recs (retestDemand_recs _) hs)
  unfold openRequest
  split
  · exact hopened
  · exact hopened
  all_goals exact hs

theorem closeRequest_creditsFit (hs : s.creditsFit) : (closeRequest s).2.creditsFit := by
  unfold closeRequest
  split
  · exact settleDrain_creditsFit s hs
  all_goals exact hs

/-! ## Every command -/

theorem serveLane_creditsFit (i : Lane) (k : RequestKind) (b : List Byte) (hs : s.creditsFit) :
    (serveLane i k b s).2.creditsFit := by
  unfold serveLane
  split
  · exact creditsFit_congr (quoteRequest_credits i b s) hs
  · exact payRequest_creditsFit i b hs
  · exact cancelRequest_creditsFit i hs
  · exact creditsFit_congr (tagRequest_credits i b s) hs
  · exact creditsFit_congr (redeemRequest_credits i b s) hs
  · exact hs
  · exact hs

/-- R180: a request that is served keeps the list to its 32. The kinds that no lemma above speaks of
write no credit in any of their branches. -/
theorem serve_creditsFit (p : Port) (k : RequestKind) (b : List Byte) (hs : s.creditsFit) :
    (serve p k b s).2.creditsFit := by
  cases k
  case quote | pay | cancel | tag | redeem | laneStatus =>
    cases p with
    | lane i => exact serveLane_creditsFit i _ b hs
    | console => exact hs
    | site => exact hs
  case halt => exact settleHalted_creditsFit s (creditsFit_recs (raiseCause_recs ..) hs)
  case resume => exact resumeRequest_creditsFit hs
  case removeCar => exact removeCarRequest_creditsFit b hs
  case gateDecide => exact gateDecideRequest_creditsFit b hs
  case place => exact placeRequest_creditsFit b hs
  case setTiming => exact setTimingRequest_creditsFit b hs
  case setStation => exact setStationRequest_creditsFit b hs
  case loadMember => exact loadMemberRequest_creditsFit b hs
  case noMember => exact noMemberRequest_creditsFit b hs
  case dropCredit => exact dropCreditRequest_creditsFit b hs
  case openTunnel => exact openRequest_creditsFit hs
  case close => exact closeRequest_creditsFit hs
  all_goals
    simp only [serve, readStatusRequest, takeNoticeRequest, setMaskRequest, readTicketRequest,
      confirmRosterRequest, jogRequest, jogStopRequest, readRosterRequest, readHaltHistoryRequest,
      readStationRequest, readConveyorRequest, setRowRequest, setMenuRequest, setPeriodRequest,
      setClockRequest, setSpeedStepsRequest, setGeometryRequest, dropMemberRequest,
      setWiredRequest, readMembersRequest, readCreditsRequest, readTotalsRequest,
      clearTotalsRequest, saveRequest]
    repeat' split
    all_goals exact hs

theorem judge_creditsFit (p : Port) (f : Frame) (hs : s.creditsFit) :
    (judge p f s).2.creditsFit := by
  unfold judge
  repeat' split
  any_goals exact hs
  exact serve_creditsFit p _ f.body hs

theorem takeFrame_creditsFit (p : Port) (f : Frame) (hs : s.creditsFit) :
    (takeFrame p f s).creditsFit := judge_creditsFit p f hs

theorem receiveFrame_creditsFit (p : Port) (f : Frame) (hs : s.creditsFit) :
    (receiveFrame p f s).creditsFit := by
  have hhunt : (hunt p s).creditsFit := hs
  unfold receiveFrame handleFrame
  repeat' split
  · exact hs
  · exact takeFrame_creditsFit p f hhunt
  · exact hhunt
  · exact hhunt

theorem receiveByte_creditsFit (p : Port) (b : Byte) (hs : s.creditsFit) :
    (receiveByte p b s).creditsFit := by
  unfold receiveByte growFrame
  dsimp only
  repeat' split
  any_goals exact hs
  exact receiveFrame_creditsFit p _ hs

theorem replyDone_creditsFit (p : Port) (hs : s.creditsFit) : (replyDone p s).creditsFit := by
  have hheld : (setHeld p none s).creditsFit := hs
  unfold replyDone
  repeat' split
  · exact hs
  · exact takeFrame_creditsFit p _ hheld
  · exact hs

/-! ## Every event -/

theorem laneBreak_creditsFit (i : Lane) (hs : s.creditsFit) : (laneBreak i s).creditsFit := by
  unfold laneBreak
  split
  · split <;> exact hs
  · split
    · exact hs
    · split <;> exact hs

theorem pendingExpiry_creditsFit (i : Lane) (hs : s.creditsFit) :
    (pendingExpiry i s).creditsFit := by
  unfold pendingExpiry
  repeat' split
  any_goals exact hs
  exact settleDrain_creditsFit s (creditsFit_congr (cancelSlot_credits i s) hs)

theorem lookupExpiry_creditsFit (i : Lane) (hs : s.creditsFit) :
    (lookupExpiry i s).creditsFit := by
  unfold lookupExpiry
  repeat' split
  any_goals exact hs
  exact settleDrain_creditsFit s (endWait_creditsFit i _ hs)

theorem portReset_creditsFit (p : Port) (hs : s.creditsFit) : (portReset p s).creditsFit := by
  unfold portReset cancelAtReset
  repeat' split
  any_goals exact hs
  exact settleDrain_creditsFit _ (creditsFit_congr (cancelSlot_credits _ _) hs)

theorem entryBreak_creditsFit (hs : s.creditsFit) : (entryBreak s).creditsFit :=
  gateEntryBreak_creditsFit (creditsFit_recs (noteMoved_recs ..) hs)

theorem warnExpiry_creditsFit (hs : s.creditsFit) : (warnExpiry s).creditsFit := by
  unfold warnExpiry
  split
  · exact settle_creditsFit s hs
  · exact hs

theorem restExpiry_creditsFit (hs : s.creditsFit) : (restExpiry s).creditsFit := by
  unfold restExpiry
  split
  · exact settle_creditsFit s (creditsFit_recs (testDemand_recs _)
      (creditsFit_recs (evalIfPaceMoved_recs ..) hs))
  · exact hs

theorem stallExpiry_creditsFit (hs : s.creditsFit) : (stallExpiry s).creditsFit := by
  unfold stallExpiry
  split
  · exact settleHalted_creditsFit s (creditsFit_recs (raiseCause_recs ..) hs)
  · exact hs

theorem parkExpiry_creditsFit (hs : s.creditsFit) : (parkExpiry s).creditsFit := by
  unfold parkExpiry
  split
  · exact settle_creditsFit s (creditsFit_recs (retestDemand_recs _) hs)
  · exact hs

theorem chainOpens_creditsFit (hs : s.creditsFit) : (chainOpens s).creditsFit :=
  settle_creditsFit s (creditsFit_recs (raiseCause_recs ..)
    (creditsFit_recs (testMismatch_recs _) (creditsFit_recs (retestDemand_recs _) hs)))

theorem chainCloses_creditsFit (hs : s.creditsFit) : (chainCloses s).creditsFit :=
  settle_creditsFit s (creditsFit_recs (testMismatch_recs _)
    (creditsFit_recs (retestDemand_recs _) hs))

theorem enterLockout_creditsFit (hs : s.creditsFit) : (enterLockout s).creditsFit :=
  settle_creditsFit s (creditsFit_recs (stationsHaltChange_recs ..)
    (creditsFit_recs (testDemand_recs _) hs))

theorem mismatchExpiry_creditsFit (hs : s.creditsFit) : (mismatchExpiry s).creditsFit := by
  unfold mismatchExpiry
  repeat' split
  · exact hs
  · exact enterLockout_creditsFit hs
  · exact hs

theorem switchOpens_creditsFit (c : Channel) (hs : s.creditsFit) :
    (switchOpens c s).creditsFit := by
  unfold switchOpens
  split
  · exact settleHalted_creditsFit s (creditsFit_recs (armOpens_recs ..) hs)
  · exact hs

theorem advanceExpiry_creditsFit (j : StationIx) (hs : s.creditsFit) :
    (advanceExpiry j s).creditsFit := by
  unfold advanceExpiry
  repeat' split
  · exact hs
  · exact settleHalted_creditsFit s (creditsFit_recs (faultArm_recs ..) hs)
  · exact hs

theorem withdrawExpiry_creditsFit (j : StationIx) (hs : s.creditsFit) :
    (withdrawExpiry j s).creditsFit := by
  unfold withdrawExpiry
  split
  · exact settleHalted_creditsFit s (creditsFit_recs (faultArm_recs ..) hs)
  · exact hs

theorem sample_creditsFit (c : Channel) (n : Nat) (hs : s.creditsFit) :
    (sample c n s).creditsFit := by
  unfold sample
  dsimp only
  repeat' split
  · exact hs
  · exact settleHalted_creditsFit s (creditsFit_recs (testTrip_recs ..) hs)
  · exact hs

theorem rowWritten_creditsFit (b : Bool) (hs : s.creditsFit) : (rowWritten b s).creditsFit := by
  unfold rowWritten rowAgrees failSave spoilRow
  repeat' split
  all_goals exact hs

theorem deviceReset_creditsFit (s : State) : (deviceReset s).creditsFit := by
  obtain ⟨r, m, b, hstarts, hreset, -⟩ := deviceReset_eq s
  have hcredits : (deviceReset s).credits = [] := by
    rw [hreset]
    exact hstarts.fresh.credits
  rw [State.creditsFit, hcredits]
  exact Nat.zero_le _

end Sys2Proof.Machine
end

section
/-! # Link: every step keeps notices, marker, credits and records fit

Laws/Fits has one lemma for each request and event that writes a ticket, roster or member record.
One case split over the commands joins those to the bound on the credit list. -/

namespace Sys2Proof.Machine

variable {s t u : State}

/-- What a command that ends with u keeps. -/
structure Keeps (s u : State) : Prop where
  credits : u.creditsFit
  records : s.recordsFit → u.recordsFit

/-- The lines are none of the records. -/
theorem drive_fits (h : Keeps s u) : Keeps s (drive u) where
  credits := h.credits
  records f := recordsFit_congr (drive_recs u) (h.records f)

theorem Keeps.of_recs (h : recs t = recs s) (hs : s.creditsFit) : Keeps s t where
  credits := creditsFit_recs h hs
  records := recordsFit_congr h

theorem Keeps.settleHalted (h : Keeps s u) (b : State) : Keeps s (settleHalted b u) where
  credits := settleHalted_creditsFit b h.credits
  records f := settleHalted_fit b (h.records f)

theorem Keeps.settle (h : Keeps s u) (b : State) : Keeps s (settle b u) where
  credits := settle_creditsFit b h.credits
  records f := settle_fit b (h.records f)

/-- The levels of the field inputs are none of the records. -/
theorem inputs_recs (i : Inputs) (s : State) : recs { s with inputs := i } = recs s := rfl

theorem hunt_recs (p : Port) (s : State) : recs (hunt p s) = recs s := setPort_recs ..

/-- R38, R10, R11, R26, R43, R47, R91: what every command keeps. -/
theorem exec_keeps (c : Instr) (hs : s.creditsFit) :
    ∃ u, exec c s = .next (drive u) ∧ Keeps s u := by
  have hframe : ∀ p f, Keeps s (receiveFrame p f s) := fun p f =>
    ⟨receiveFrame_creditsFit p f hs, receiveFrame_fit p f hs⟩
  have hsame : ∀ {v}, recs v = recs s → Keeps s v := fun h => .of_recs h hs
  cases c
  case frameDiscarded p => exact ⟨_, rfl, hsame (hunt_recs p s)⟩
  case framingError p => exact ⟨_, rfl, hsame (hunt_recs p s)⟩
  case gapTimerExpiry p =>
    refine ⟨_, rfl, hsame ?_⟩
    unfold gapExpiry
    split
    · exact hunt_recs p s
    · rfl
  case replySent p => exact ⟨_, rfl, replyDone_creditsFit p hs, replyDone_fit p hs⟩
  case portReset p => exact ⟨_, rfl, portReset_creditsFit p hs, portReset_fit p⟩
  case deviceReset => exact ⟨_, rfl, deviceReset_creditsFit s, deviceReset_fit⟩
  case minuteTimerExpiry =>
    refine ⟨_, rfl, hsame ?_⟩
    unfold minuteExpiry
    split <;> rfl
  case pendingTimerExpiry i => exact ⟨_, rfl, pendingExpiry_creditsFit i hs, pendingExpiry_fit i⟩
  case lookupTimerExpiry i => exact ⟨_, rfl, lookupExpiry_creditsFit i hs, lookupExpiry_fit i⟩
  case laneExitEyeBreak i =>
    exact ⟨_, rfl, .settle ⟨laneBreak_creditsFit i hs, laneBreak_fit i hs⟩ s⟩
  case offer =>
    exact ⟨_, rfl, creditsFit_recs (testPark_recs ..)
      (creditsFit_books ((testIdleOnce_books _).trans (testIdleOnce_books _)) hs), execOffer_fit⟩
  case offerTimerExpiry =>
    refine ⟨_, rfl, ?_, offerExpiry_fit⟩
    unfold offerExpiry
    split <;> exact hs
  case tireSwitchCloses => exact ⟨_, rfl, hsame ((testTire_recs _).trans (inputs_recs _ s))⟩
  case rollerUpTimerExpiry => exact ⟨_, rfl, hsame rfl⟩
  case loadDistancePassed => exact ⟨_, rfl, (hsame (testLoadDistance_recs s)).settleHalted s⟩
  case entryEyeBreak =>
    exact ⟨_, rfl, .settleHalted ⟨entryBreak_creditsFit hs, entryBreak_fit⟩ s⟩
  case entryEyeRestore => exact ⟨_, rfl, (hsame (entryRestore_recs s)).settleHalted s⟩
  case settleReached =>
    refine ⟨_, rfl, ?_⟩
    split
    · exact .settle ⟨testSettled_creditsFit hs, testSettled_fit⟩ s
    · exact hsame rfl
  case maxLenReached => exact ⟨_, rfl, (hsame (testMaxLen_recs s)).settleHalted s⟩
  case heightEyeBreak =>
    exact ⟨_, rfl, (hsame ((testCapture_recs _).trans (inputs_recs _ s))).settleHalted s⟩
  case widthEyeBreak =>
    exact ⟨_, rfl, (hsame ((testCapture_recs _).trans (inputs_recs _ s))).settleHalted s⟩
  case encoderPulse n => exact ⟨_, rfl, pulse_creditsFit n hs, pulse_fit n⟩
  case checkpointEyeBreak k =>
    have hbreak : Keeps s (checkpointBreak k s) :=
      ⟨checkpointBreak_creditsFit k hs, checkpointBreak_fit k⟩
    refine ⟨_, rfl, ?_⟩
    split
    · exact hbreak.settle s
    · exact hbreak
  case checkpointEyeRestore k =>
    exact ⟨_, rfl, (hsame (checkpointRestore_recs k s)).settleHalted s⟩
  case exitEyeBreak => exact ⟨_, rfl, (hsame (exitBreak_recs s)).settleHalted s⟩
  case exitEyeRestore => exact ⟨_, rfl, .settle ⟨exitRestore_creditsFit hs, exitRestore_fit⟩ s⟩
  case warnTimerExpiry => exact ⟨_, rfl, warnExpiry_creditsFit hs, warnExpiry_fit⟩
  case atRestTimerExpiry => exact ⟨_, rfl, restExpiry_creditsFit hs, restExpiry_fit⟩
  case stallTimerExpiry => exact ⟨_, rfl, stallExpiry_creditsFit hs, stallExpiry_fit⟩
  case parkTimerExpiry => exact ⟨_, rfl, parkExpiry_creditsFit hs, parkExpiry_fit⟩
  case safetyChainOpens => exact ⟨_, rfl, chainOpens_creditsFit hs, chainOpens_fit⟩
  case safetyChainCloses => exact ⟨_, rfl, chainCloses_creditsFit hs, chainCloses_fit⟩
  case driveFaultActive =>
    exact ⟨_, rfl, (hsame ((raiseCause_recs ..).trans (inputs_recs _ s))).settleHalted s⟩
  case relayReadbackChange b =>
    exact ⟨_, rfl, hsame ((testMismatch_recs _).trans (inputs_recs _ s))⟩
  case mismatchTimerExpiry => exact ⟨_, rfl, mismatchExpiry_creditsFit hs, mismatchExpiry_fit⟩
  case drainEnd => exact ⟨_, rfl, hsame (settleDrain_recs s s)⟩
  case stowedSwitchOpens c => exact ⟨_, rfl, switchOpens_creditsFit c hs, switchOpens_fit c⟩
  case stowedSwitchCloses c => exact ⟨_, rfl, hsame (switchCloses_recs c s)⟩
  case advanceTimerExpiry j => exact ⟨_, rfl, advanceExpiry_creditsFit j hs, advanceExpiry_fit j⟩
  case withdrawTimerExpiry j =>
    exact ⟨_, rfl, withdrawExpiry_creditsFit j hs, withdrawExpiry_fit j⟩
  case motorCurrentSample c n => exact ⟨_, rfl, sample_creditsFit c n.val hs, sample_fit c n.val⟩
  case tripCountReached j => exact ⟨_, rfl, (hsame (testTrip_recs j s)).settleHalted s⟩
  case jogTimerExpiry =>
    refine ⟨_, rfl, hsame ?_⟩
    unfold jogExpiry
    repeat' split
    all_goals rfl
  case rowWriteComplete b => exact ⟨_, rfl, rowWritten_creditsFit b hs, rowWritten_fit b⟩
  case byteReceived p b => exact ⟨_, rfl, receiveByte_creditsFit p b hs, receiveByte_fit p b hs⟩
  case receiveLineHigh p => exact ⟨_, rfl, hsame (setPort_recs ..)⟩
  case driveFaultInactive | tireSwitchOpens | heightEyeRestore | widthEyeRestore =>
    exact ⟨_, rfl, hsame (inputs_recs _ s)⟩
  all_goals exact ⟨_, rfl, hframe _ _⟩

/-- R38, R10, R11, R26, R43, R47, R91: what every step keeps. -/
theorem step_keeps (hs : s.creditsFit) (hstep : step s = .next t) : Keeps s t := by
  unfold step at hstep
  split at hstep
  · obtain rfl : advance 1 s = t := by simpa using hstep
    exact .of_recs (advance_recs 1 s) hs
  · next c rest _ =>
    obtain ⟨u, hexec, hkeeps⟩ := exec_keeps (s := { s with pending := rest }) c hs
    obtain rfl : drive u = t := by simpa using hexec.symm.trans hstep
    have hdriven := drive_fits hkeeps
    exact ⟨hdriven.credits, fun f => hdriven.records (pending_fit rest f)⟩

/-- R184, R171: what every step keeps of the notices and the marker. -/
theorem step_noticesFit_markerFits (hnotices : s.noticesFit) (hmarker : s.markerFits)
    (hstep : step s = .next t) : t.noticesFit ∧ t.markerFits := by
  unfold step at hstep
  split at hstep
  · obtain rfl : advance 1 s = t := by simpa using hstep
    exact ⟨(Does.time 1 s).noticesFit hnotices, (Does.time 1 s).markerFits hmarker⟩
  · next c rest _ =>
    obtain ⟨u, hexec, hdoes⟩ := exec_does c { s with pending := rest }
    obtain rfl : drive u = t := by simpa using hexec.symm.trans hstep
    exact ⟨hdoes.noticesFit hnotices, hdoes.markerFits hmarker⟩

/-! ## What fit records say -/

/-- R10: a place at a lane is named by a ticket of that lane. -/
theorem origin_of_stands {k : Ticket} {i : Lane} (h : k.stands.2.2 = some i) :
    k.origin = .lane i := by
  cases horigin : k.origin with
  | lane l =>
    simp only [Ticket.stands, horigin] at h
    split at h <;> simp_all
  | console =>
    simp only [Ticket.stands, horigin] at h
    split at h <;> cases h

section
variable (f : s.recordsFit)
include f

theorem recordsFit_riders : s.ridersFit := ((recordsFit_iff s).mp f).1

/-- R10, R11: a live ticket is found by its number, which is not 0 and no credit's, and stands
once. -/
theorem recordsFit_ticket {k : Ticket} (hk : k ∈ s.tickets) : s.ticket? k.number = some k ∧
    k.number ≠ 0 ∧ s.places.count k.stands = 1 ∧ ∀ c ∈ s.credits, c.code ≠ k.number := by
  have hriders := recordsFit_riders f
  obtain ⟨hstand, hnumbers, -, -⟩ := id hriders
  obtain ⟨hheld, hzero, -⟩ := id hnumbers
  have hplace : k.stands ∈ s.places := hstand.mem_iff.mp (List.mem_map_of_mem hk)
  have honce : s.places.Nodup := List.Nodup.of_map _ (places_nodup hriders)
  refine ⟨ticket?_of_mem (numbers_nodup hnumbers) hk, hzero k hk,
    List.count_eq_one_of_mem honce hplace, fun c hc hsame => ?_⟩
  exact (List.nodup_append.mp hheld).2.2 k.number (List.mem_map_of_mem hk) c.code
    (List.mem_map_of_mem hc) hsame.symm

/-- R10: what stands at a lane is a live ticket of that lane. -/
theorem recordsFit_lane {i : Lane} {n : Nat}
    (h : (s.saleSlot i).ticket? = some n ∨ n ∈ s.laneQueue i) :
    ∃ k, s.ticket? n = some k ∧ k.origin = .lane i := by
  obtain ⟨st, hplace⟩ : ∃ st, (n, st, some i) ∈ s.places := by
    rcases h with h | h
    · obtain ⟨st, hslot⟩ := stands_ticket h
      exact ⟨st, slot_mem (hslot ▸ List.mem_singleton_self _)⟩
    · exact ⟨_, queue_mem h⟩
  obtain ⟨k, hk, hstands⟩ := standing (recordsFit_riders f) hplace
  exact ⟨k, hk, origin_of_stands (congrArg (fun x => x.2.2) hstands)⟩

/-- R10: what stands elsewhere is a live ticket in the state that names the place. -/
theorem recordsFit_place {n : Nat} {st : TicketState} (h : (n, st, none) ∈ s.places) :
    ∃ k, s.ticket? n = some k ∧ k.state = st := by
  obtain ⟨k, hk, hstands⟩ := standing (recordsFit_riders f) h
  exact ⟨k, hk, congrArg (fun x => x.2.1) hstands⟩

end

/-- R26: two entries apart cover no common tag. -/
theorem covers_of_apart {a b : MemberEntry}
    (h : Apart a.valid b.valid a.base b.base a.order b.order) {g : Word32} (ha : a.covers g = true) : b.covers g = false := by
  rw [Bool.eq_false_iff]
  intro hb
  simp only [MemberEntry.covers, rangeSize, Bool.and_eq_true, decide_eq_true_eq] at ha hb
  obtain ⟨⟨hvalidA, hlowA⟩, hhighA⟩ := ha
  obtain ⟨⟨hvalidB, hlowB⟩, hhighB⟩ := hb
  have hbelowA := of_decide_eq_true hhighA
  have hbelowB := of_decide_eq_true hhighB
  rcases h hvalidA hvalidB with hbelow | habove <;> omega

/-- R90, R91: the order law, by the cars' places in the roster. -/
theorem order_of_places {i j : Nat} {a b : Car}
    (h : s.track.roster.Pairwise (fun a b => b.front < a.front ∧ (b.front : Int) < a.rear))
    (hij : i < j) (ha : s.track.roster[i]? = some a) (hb : s.track.roster[j]? = some b) :
    b.front < a.front ∧ (b.front : Int) < a.rear := by
  obtain ⟨hi, rfl⟩ := List.getElem?_eq_some_iff.mp ha
  obtain ⟨hj, rfl⟩ := List.getElem?_eq_some_iff.mp hb
  exact List.pairwise_iff_getElem.mp h i j hi hj hij

/-- Settles O60: notices and marker over what a command is made of, the credit list and the records
over the commands, and what the parts of recordsFit say. -/
theorem noticesMarkerAndCreditsStayFit : Obligations.NoticesMarkerAndCreditsStayFit := by
  unfold Obligations.NoticesMarkerAndCreditsStayFit
  refine ⟨fun s t hnotices hmarker hcredits hstep => ?_, fun s t hcredits hrecords hstep => ?_,
    fun s f => ?_⟩
  · obtain ⟨hnotices', hmarker'⟩ := step_noticesFit_markerFits hnotices hmarker hstep
    exact ⟨hnotices', hmarker', (step_keeps hcredits hstep).credits⟩
  · obtain ⟨hcredits', hrecords'⟩ := step_keeps hcredits hstep
    exact ⟨hcredits', hrecords' hrecords⟩
  · obtain ⟨-, -, -, ⟨hlanes, hmerge⟩, ⟨horder, hroster, -⟩, hmembers, -⟩ := id f
    exact ⟨fun k hk => recordsFit_ticket f hk, fun i n h => recordsFit_lane f h,
      fun n hn => recordsFit_place f (merge_mem hn), fun n hn => recordsFit_place f (gate_mem hn),
      fun c hc => recordsFit_place f (car_mem hc),
      fun i => Nat.le_trans (Nat.le_add_right ..) (hlanes i), hmerge, hroster,
      fun i j a b hij ha hb => order_of_places horder hij ha hb,
      fun j k g hjk hj => covers_of_apart (hmembers j k hjk) hj⟩

end Sys2Proof.Machine
end

section
/-! # Link: the lines after every command (R44, R53, R54, R134, R155, R185) -/

namespace Sys2Proof.Machine

variable {s : State} {j : StationIx} {l : Line}

/-! ## The lamps and the relay (R44, R53, R54, R155) -/

theorem laneGreen_iff : s.laneGreen = true ↔
    s.gate.merge.length < 10 ∧ (s.mode = .openMode ∨ s.mode = .draining) := by
  rw [State.laneGreen, Bool.and_eq_true, decide_eq_true_iff, trading_iff]
  rfl

theorem goLamp_iff : s.goLamp = true ↔
    s.gate.state = .offer ∧ s.halt.state = .running ∧ s.mode ≠ .lockout := by
  simp [State.goLamp, and_assoc]

theorem rollerUp_iff : s.rollerUp = true ↔ (∃ left, s.gate.rollerTimer = .running left) ∧
    s.inputs.chainClosed = true ∧ s.mode ≠ .lockout := by
  simp [State.rollerUp, isRunning_iff, and_assoc]

theorem relayCommand_iff :
    s.relayCommand = true ↔ s.inputs.chainClosed = true ∧ s.mode ≠ .lockout := by
  simp [State.relayCommand]

/-! ## The station lines (R134) -/

/-- R134: the lines of the stations have power. -/
def State.linesLive (s : State) : Prop := s.inputs.chainClosed = true ∧ s.mode ≠ .lockout

/-- R134: an ARM station whose arm is out. -/
def State.armOut (s : State) (j : StationIx) : Prop := (s.station j).kind = .arm ∧
  ((s.machine j).arm = .advancing ∨ (s.machine j).arm = .engaged)

/-- R134: a SWITCHED station with a car ACTIVE. -/
def State.spraying (s : State) (j : StationIx) : Prop := (s.station j).kind = .switched ∧
  ∃ x ∈ s.track.roster, x.status j = .active

theorem trackFirst_iff : s.trackFirst j = true ↔ s.spraying j ∨ s.armOut j := by
  unfold State.trackFirst State.spraying State.armOut
  cases (s.station j).kind with
  | switched => simp [State.activeAt]
  | arm => simp

theorem trackSecond_iff : s.trackSecond j = true ↔ s.armOut j := by
  simp [State.trackSecond, State.armOut]

/-- R134: without power a line is off. -/
theorem not_linesLive_iff :
    (!s.inputs.chainClosed || s.mode == .lockout) = true ↔ ¬ s.linesLive := by
  simp [State.linesLive, imp_iff_not_or]

theorem firstLineOn_iff : s.firstLineOn j = true ↔ s.linesLive ∧
    (s.jogged j = true ∨ (s.halt.state = .running ∧ (s.spraying j ∨ s.armOut j))) := by
  rw [← trackFirst_iff]
  by_cases hlive : s.linesLive
  · rw [State.firstLineOn, if_neg (not_linesLive_iff.not.mpr (not_not_intro hlive))]
    cases s.halt.state <;> simp [hlive]
  · rw [State.firstLineOn, if_pos (not_linesLive_iff.mpr hlive)]
    simp [hlive]

theorem secondLineOn_iff : s.secondLineOn j = true ↔ s.linesLive ∧
    ¬ s.jogged j = true ∧ s.halt.state ≠ .stopped ∧ s.armOut j := by
  rw [← trackSecond_iff]
  by_cases hlive : s.linesLive
  · rw [State.secondLineOn, if_neg (not_linesLive_iff.not.mpr (not_not_intro hlive))]
    cases s.halt.state <;> simp [hlive]
  · rw [State.secondLineOn, if_pos (not_linesLive_iff.mpr hlive)]
    simp [hlive]

/-- R134: a line is on by the first or the second line of an enabled station that names it. -/
theorem lineOn_iff : s.lineOn l = true ↔ s.linesLive ∧ ∃ j : StationIx,
    (s.station j).enabled = true ∧
      (((s.station j).firstLine = l ∧
          (s.jogged j = true ∨ (s.halt.state = .running ∧ (s.spraying j ∨ s.armOut j)))) ∨
        ((s.station j).secondLine = l ∧ ¬ s.jogged j = true ∧ s.halt.state ≠ .stopped ∧
          s.armOut j)) := by
  have hnames : s.lineOn l = true ↔ ∃ j, (s.station j).enabled = true ∧
      (((s.station j).firstLine = l ∧ s.firstLineOn j = true) ∨
        (((s.station j).kind = .arm ∧ (s.station j).secondLine = l) ∧
          s.secondLineOn j = true)) := by
    simp [State.lineOn, mem_stationIxs]
  rw [hnames, ← exists_and_left]
  refine exists_congr fun j => ?_
  rw [firstLineOn_iff, secondLineOn_iff]
  constructor
  · rintro ⟨henabled, ⟨hfirst, hlive, hon⟩ | ⟨⟨-, hsecond⟩, hlive, hon⟩⟩
    · exact ⟨hlive, henabled, Or.inl ⟨hfirst, hon⟩⟩
    · exact ⟨hlive, henabled, Or.inr ⟨hsecond, hon⟩⟩
  · rintro ⟨hlive, henabled, ⟨hfirst, hon⟩ | ⟨hsecond, hjog, hhalt, hout⟩⟩
    · exact ⟨henabled, Or.inl ⟨hfirst, hlive, hon⟩⟩
    · exact ⟨henabled, Or.inr ⟨⟨hout.1, hsecond⟩, hlive, hjog, hhalt, hout⟩⟩

/-- Settles O2: every command ends by driving the lines from the records. -/
theorem everyCommandAnswersANextState : Obligations.EveryCommandAnswersANextState := by
  unfold Obligations.EveryCommandAnswersANextState
  intro c s
  obtain ⟨u, hexec, hdoes⟩ := exec_does c s
  refine ⟨drive u, hexec, does_pending (s := s) (t := u) hdoes, rfl,
    fun p => out_attention u p, fun i => ?_, goLamp_iff, rollerUp_iff, relayCommand_iff, fun l => ?_⟩
  · have hlane : (outputsOf u).laneGreen[i] = u.laneGreen := by simp [outputsOf]
    exact (congrArg (· = true) hlane).to_iff.trans laneGreen_iff
  · have hline : (outputsOf u).stationLines[l] = u.lineOn l := by simp [outputsOf]
    have hon := (congrArg (· = true) hline).to_iff.trans lineOn_iff
    simp only [jogged_iff] at hon
    exact hon

end Sys2Proof.Machine
end

section
/-! # Link: the four tests of a request (R180 to R182) -/

namespace Sys2Proof.Machine

variable {p : Port} {k : RequestKind} {f : Frame} {s t : State} {c : Instr}

/-! ## The directory: lengths, classes and LOCKOUT -/

/-- R189: the body lengths that each kind allows. -/
theorem lengthOk_iff (k : RequestKind) (n : Nat) : k.lengthOk n = true ↔
    (n = 0 ∧ k ∈ [.readStatus, .takeNotice, .cancel, .laneStatus, .halt, .resume, .confirmRoster,
      .jogStop, .readHaltHistory, .readConveyor, .clearTotals, .openTunnel, .close, .save]) ∨
    (n = 1 ∧ k ∈ [.setWired, .readMembers, .readCredits, .readTotals, .readRoster,
      .readStation]) ∨
    (n = 2 ∧ k ∈ [.setMask, .readTicket, .redeem, .removeCar, .gateDecide, .place, .jog,
      .dropCredit]) ∨
    (n = 3 ∧ k = .setMenu) ∨
    (n = 4 ∧ k ∈ [.pay, .tag, .setClock, .dropMember, .noMember]) ∨
    (n = 6 ∧ k = .setPeriod) ∨ (n = 8 ∧ k = .loadMember) ∨ (n = 10 ∧ k = .setRow) ∨
    (n = 11 ∧ k = .setSpeedSteps) ∨ (n = 22 ∧ k = .setStation) ∨ (n = 24 ∧ k = .setTiming) ∨
    (1 ≤ n ∧ n ≤ 4 ∧ k = .quote) ∨ (k = .setGeometry ∧ ∃ m, m ≤ 4 ∧ n = 6 + 3 * m) := by
  cases k
  case setGeometry =>
    have hcount : (n = 6 ∨ n = 9 ∨ n = 12 ∨ n = 15 ∨ n = 18) ↔ ∃ m, m ≤ 4 ∧ n = 6 + 3 * m :=
      ⟨fun h => ⟨(n - 6) / 3, by omega, by omega⟩, fun ⟨m, hm, hn⟩ => by omega⟩
    simpa [RequestKind.lengthOk, or_assoc] using hcount
  all_goals simp [RequestKind.lengthOk]

/-- R181: the kinds that each class may issue. -/
theorem permitted_iff (k : RequestKind) (cl : PortClass) : k.permitted cl = true ↔
    k ∈ [.readStatus, .takeNotice, .setMask, .readTicket, .readRoster, .readHaltHistory,
      .readStation, .readConveyor] ∨
    (cl = .lane ∧ k ∈ [.quote, .pay, .cancel, .tag, .redeem, .laneStatus]) ∨
    ((cl = .console ∨ cl = .site) ∧ k = .halt) ∨
    (cl = .console ∧ k ∈ [.resume, .confirmRoster, .removeCar, .gateDecide, .place, .jog,
      .jogStop]) ∨
    (cl = .site ∧ k ∈ [.setRow, .setMenu, .setPeriod, .setClock, .setStation, .setGeometry,
      .setTiming, .setSpeedSteps, .loadMember, .dropMember, .noMember, .setWired, .readMembers,
      .readCredits, .dropCredit, .readTotals, .clearTotals, .openTunnel, .close, .save]) := by
  cases k <;> simp [RequestKind.permitted]

/-- R182: the kinds that LOCKOUT answers. -/
theorem lockoutAnswers_iff (k : RequestKind) : k.lockoutAnswers = true ↔
    k ∈ [.readStatus, .takeNotice, .setMask, .readTicket, .readRoster, .readHaltHistory,
      .readStation, .readConveyor, .laneStatus, .readMembers, .readCredits, .readTotals] := by
  cases k <;> simp [RequestKind.lockoutAnswers]

/-! ## What the link judges, test by test -/

theorem judge_unknown (h : RequestKind.ofCode f.kind = none) :
    judge p f s = (refuse .badRequest, s) := by
  rw [judge, h]

section
variable (hk : RequestKind.ofCode f.kind = some k)
include hk

theorem judge_notPermitted (hp : k.permitted p.cls = false) :
    judge p f s = (refuse .notPermitted, s) := by
  simp [judge, hk, hp]

theorem judge_badLength (hp : k.permitted p.cls = true) (hl : k.lengthOk f.body.length = false) :
    judge p f s = (refuse .badRequest, s) := by
  simp [judge, hk, hp, hl]

theorem judge_locked (hp : k.permitted p.cls = true) (hl : k.lengthOk f.body.length = true)
    (hm : s.mode = .lockout) (ha : k.lockoutAnswers = false) :
    judge p f s = (refuse .locked, s) := by
  simp [judge, hk, hp, hl, hm, ha]

theorem judge_passes (hp : k.permitted p.cls = true) (hl : k.lengthOk f.body.length = true)
    (hm : s.mode ≠ .lockout ∨ k.lockoutAnswers = true) : judge p f s = serve p k f.body s := by
  have hopen : ¬ (s.mode = .lockout ∧ k.lockoutAnswers = false) := by
    rintro ⟨hlock, hrefused⟩
    rcases hm with hm | hm
    · exact hm hlock
    · simp [hrefused] at hm
  simp [judge, hk, hp, hl, hopen]

end

/-! ## What a port that takes a frame does with the judgement -/

/-- R179, R180: the reply to a judged frame begins to be sent. -/
theorem takeFrame_judged {r : Response} (h : judge p f s = (r, t)) :
    takeFrame p f s = setRequest p (.replying (replyTo f r)) t := by
  rw [takeFrame, h]

/-- R179: a refusal is the whole reply. -/
theorem done_takeFrame_refused {st : Status} (h : judge p f s = (refuse st, t)) :
    done (takeFrame p f s) = answered p f.kind f.tag st [] t := by
  rw [takeFrame_judged h, replyTo_refuse, answered, List.append_nil]

section
variable (hf : frameOf c = some (p, f)) (hb : f.body.length ≤ 60) (ht : s.takes p)
include hf hb ht

/-- R180: a request that a test of the link refuses changes nothing but the receiver. -/
theorem exec_refused {st : Status} (h : judge p f (hunt p s) = (refuse st, hunt p s)) :
    exec c s = answered p f.kind f.tag st [] (hunt p s) :=
  (exec_taken hf hb ht).trans (done_takeFrame_refused h)

/-- R180: a request that passes the tests goes to its block. -/
theorem exec_served (h : judge p f (hunt p s) = serve p k f.body (hunt p s)) :
    exec c s = done (setRequest p (.replying (replyTo f (serve p k f.body (hunt p s)).1))
      (serve p k f.body (hunt p s)).2) :=
  (exec_taken hf hb ht).trans (congrArg done (takeFrame_judged h))

end

/-- Settles O5: one clause for each test of the link, and the table of the lengths. -/
theorem requestsAreJudgedInOrder : Obligations.RequestsAreJudgedInOrder := by
  unfold Obligations.RequestsAreJudgedInOrder
  refine ⟨fun c p f s hf hb ht => ⟨fun h => ?_, fun k hk => ⟨fun hp => ?_, fun hp hl => ?_,
    fun hp hl hm ha => ?_, fun hp hl hm => ?_⟩⟩, lengthOk_iff⟩
  · exact exec_refused hf hb ht (judge_unknown h)
  · exact exec_refused hf hb ht (judge_notPermitted hk hp)
  · exact exec_refused hf hb ht (judge_badLength hk hp hl)
  · exact exec_refused hf hb ht (judge_locked hk hp hl hm ha)
  · exact exec_served hf hb ht (judge_passes hk hp hl hm)

/-! ## A lane port reaches its own lane alone (R181) -/

/-- R181: a frame at a lane port leaves the records of every other lane. -/
theorem receiveFrame_lane {i l : Lane} (h : l ≠ i) (f : Frame) (s : State) :
    laneRec l (receiveFrame (.lane i) f s) = laneRec l s := by
  unfold receiveFrame handleFrame
  repeat' split
  · rfl
  · exact (judge_lane h f (hunt (.lane i) s)).trans rfl
  · rfl
  · rfl

/-- Settles O6: the table of the classes, the second test of the link, and what a lane's frame
leaves alone. -/
theorem portClassesMayIssueTheirRequests : Obligations.PortClassesMayIssueTheirRequests := by
  unfold Obligations.PortClassesMayIssueTheirRequests
  refine ⟨fun _ => rfl, rfl, rfl, permitted_iff, fun c p f k s hf hb ht hk hp => ?_,
    fun c i l f s t hf hne hexec => ?_⟩
  · exact exec_refused hf hb ht (judge_notPermitted hk hp)
  · obtain rfl : drive (receiveFrame (.lane i) f s) = t := by
      simpa [done] using (exec_frame hf s).symm.trans hexec
    have hlane := receiveFrame_lane hne f s
    simp only [laneRec, Prod.mk.injEq] at hlane
    exact hlane

/-! ## Replies that have been sent (R178) -/

theorem hunt_request (p : Port) (s : State) : ((hunt p s).port p).request = (s.port p).request := by
  rw [hunt_port]

theorem hunt_held (p : Port) (s : State) : ((hunt p s).port p).held = (s.port p).held := by
  rw [hunt_port]

section
variable {r : Frame} (hr : (s.port p).request = .replying r)
include hr

theorem exec_replySent_held (hh : (s.port p).held = some f) :
    exec (.replySent p) s = done (takeFrame p f (setHeld p none s)) := by
  change done (replyDone p s) = _
  simp only [replyDone, hr, hh]

theorem exec_replySent_empty (hh : (s.port p).held = none) :
    exec (.replySent p) s = done (setRequest p .free s) := by
  change done (replyDone p s) = _
  simp only [replyDone, hr, hh]

theorem handleFrame_hold (hh : (s.port p).held = none) :
    handleFrame p f s = setHeld p (some f) s := by
  simp only [handleFrame, hr, hh]

theorem handleFrame_discard {g : Frame} (hh : (s.port p).held = some g) :
    handleFrame p f s = s := by
  simp only [handleFrame, hr, hh]

end

/-- R175, R178: a frame whose body fits, at a line that is high, ends the hunt and is handled. -/
theorem exec_handled (hf : frameOf c = some (p, f)) (hb : f.body.length ≤ 60)
    (hline : (s.port p).lineLow = false) : exec c s = done (handleFrame p f (hunt p s)) := by
  have hfits : ¬ Config.bodyMax < f.body.length := Nat.not_lt.mpr hb
  rw [exec_frame hf, receiveFrame, if_neg (by simp [hline, hfits])]

/-- Settles O7: the list of what LOCKOUT answers decides the fourth test, at a port that is free and
for a frame that was held. -/
theorem lockoutAnswersTheReadsAlone : Obligations.LockoutAnswersTheReadsAlone := by
  unfold Obligations.LockoutAnswersTheReadsAlone
  intro answers
  have hrefuses : ∀ k : RequestKind, k ∉ answers → k.lockoutAnswers = false := fun k hk =>
    Bool.eq_false_iff.mpr fun h => hk ((lockoutAnswers_iff k).mp h)
  refine ⟨fun c p f k s hf ht hm hk hp hl => ⟨fun ha => ?_, fun ha => ?_⟩,
    fun p r f k s hm hr hh hk hp hl ha => ?_⟩
  · exact exec_served hf (lengthOk_fits hl) ht
      (judge_passes hk hp hl (Or.inr ((lockoutAnswers_iff k).mpr ha)))
  · exact exec_refused hf (lengthOk_fits hl) ht (judge_locked hk hp hl hm (hrefuses k ha))
  · exact (exec_replySent_held hr hh).trans
      (done_takeFrame_refused (judge_locked hk hp hl hm (hrefuses k ha)))

/-- Settles O8: what becomes of a frame at a port that is replying, then and at the reply's end. -/
theorem framesAreHeldWhileReplying : Obligations.FramesAreHeldWhileReplying := by
  unfold Obligations.FramesAreHeldWhileReplying
  refine ⟨fun c p f r s hf hb hline hr => ⟨fun hh => ?_, fun g hh => ?_⟩,
    fun p r f s hr hh => exec_replySent_held hr hh, fun p r s hr hh => exec_replySent_empty hr hh⟩
  · rw [exec_handled hf hb hline, handleFrame_hold ((hunt_request p s).trans hr)
      ((hunt_held p s).trans hh)]
    simp only [setHeld, hunt, port_setPort_same, setPort_setPort]
  · rw [exec_handled hf hb hline, handleFrame_discard ((hunt_request p s).trans hr)
      ((hunt_held p s).trans hh)]
    rfl

end Sys2Proof.Machine
end

section
/-! # Link: the receiver, and the bytes of a frame (R174 to R177, R188) -/

namespace Sys2Proof.Machine

variable {p : Port} {b : Byte} {f : Frame} {s : State}

/-! ## A byte at a port (R174, R175) -/

theorem execByteReceived_eq (p : Port) (b : Byte) (s : State) :
    exec (.byteReceived p b) s = done (receiveByte p b s) := rfl

/-- R183: a line that is held low brings no byte. -/
theorem receiveByte_low (h : (s.port p).lineLow = true) : receiveByte p b s = s := if_pos h

section
variable (hline : (s.port p).lineLow = false)
include hline

theorem receiveByte_hunting (h : (s.port p).receiver = .hunting) :
    receiveByte p b s = if b = startByte then keepBytes p [b] s else s := by
  simp [receiveByte, hline, h]

theorem receiveByte_receiving {bytes : List Byte} (h : (s.port p).receiver = .receiving bytes) :
    receiveByte p b s = growFrame p (bytes ++ [b]) s := by
  simp [receiveByte, hline, h]

end

/-! ## The frame as it grows (R175) -/

/-- R175: LENGTH is judged as it arrives. -/
theorem growFrame_length {start : Byte} : growFrame p [start, b] s =
    if 2 ≤ b.toNat ∧ b.toNat ≤ 62 then keepBytes p [start, b] s else hunt p s := by
  unfold growFrame
  simp only [byteAt_cons_succ, byteAt_cons_zero, List.length_cons, List.length_nil, true_and]
  by_cases h : 2 ≤ b.toNat ∧ b.toNat ≤ 62
  · have hrange : inRange 2 62 b.toNat = true := inRange_iff.mpr h
    have hshort : ¬ b.toNat + 4 ≤ 2 := by omega
    simp [h, hrange, hshort]
  · have hrange : inRange 2 62 b.toNat = false := Bool.eq_false_iff.mpr (mt inRange_iff.mp h)
    simp [h, hrange]

/-- R175: before its second check byte the frame grows. -/
theorem growFrame_grows {start len : Byte} {rest : List Byte} (hrest : rest ≠ [])
    (h : rest.length < len.toNat + 2) :
    growFrame p (start :: len :: rest) s = keepBytes p (start :: len :: rest) s := by
  have hlength : (start :: len :: rest).length = rest.length + 2 := rfl
  have hpos : 0 < rest.length := List.length_pos_iff.mpr hrest
  have hjudged : ¬ (rest.length + 2 = 2 ∧ inRange 2 62 len.toNat = false) := by omega
  have hshort : ¬ len.toNat + 4 ≤ rest.length + 2 := by omega
  simp only [growFrame, byteAt_cons_succ, byteAt_cons_zero, hlength, if_neg hjudged, if_neg hshort]

theorem u16_length (n : Nat) : (u16 n).length = 2 := rfl

/-- R175: the bytes of a whole frame are judged by their check. -/
theorem judgeBytes_whole {len kind tag : Byte} {body check : List Byte}
    (hbody : body.length + 2 = len.toNat) :
    judgeBytes len.toNat (len :: kind :: tag :: (body ++ check)) =
      if u16 (crc (len :: kind :: tag :: body)).toNat = check then some ⟨kind, tag, body⟩
      else none := by
  have hcovered : (len :: kind :: tag :: body).length = len.toNat + 1 := by simp [← hbody]
  have htake : (len :: kind :: tag :: (body ++ check)).take (len.toNat + 1) =
      len :: kind :: tag :: body := List.take_left' (l₁ := len :: kind :: tag :: body) hcovered
  have hdrop : (len :: kind :: tag :: (body ++ check)).drop (len.toNat + 1) = check :=
    List.drop_left' (l₁ := len :: kind :: tag :: body) hcovered
  rw [judgeBytes, htake, hdrop]

/-- R175: at the second check byte the frame is complete or discarded. -/
theorem growFrame_whole {start len kind tag : Byte} {body check : List Byte}
    (hbody : body.length + 2 = len.toNat) (hcheck : check.length = 2) :
    growFrame p (start :: len :: kind :: tag :: (body ++ check)) s =
      if u16 (crc (len :: kind :: tag :: body)).toNat = check then
        receiveFrame p ⟨kind, tag, body⟩ s
      else hunt p s := by
  have hlength : (start :: len :: kind :: tag :: (body ++ check)).length = len.toNat + 4 := by
    simp [← hbody, hcheck]
  have hjudged : ¬ (len.toNat + 4 = 2 ∧ inRange 2 62 len.toNat = false) := by omega
  simp only [growFrame, byteAt_cons_succ, byteAt_cons_zero, hlength, if_neg hjudged, Nat.le_refl,
    if_true, List.drop_one, List.tail_cons, judgeBytes_whole hbody]
  by_cases hsame : u16 (crc (len :: kind :: tag :: body)).toNat = check
  · simp only [if_pos hsame]
  · simp only [if_neg hsame]

/-- Settles O9: what each byte does by what the receiver holds; the rest are hunts. -/
theorem receiverBuildsFrames : Obligations.ReceiverBuildsFrames := by
  unfold Obligations.ReceiverBuildsFrames
  intro p b s
  refine ⟨rfl, rfl, fun n hn => ?_, rfl, fun hline => ?_,
    fun hline hr => ⟨fun hb => ?_, fun hb => ?_⟩,
    fun bytes hline hr hlen => ?_, fun len rest hline hr hlow hhigh => ⟨fun hshort => ?_, ?_⟩⟩
  · change done (gapExpiry p s) = _
    rw [gapExpiry, hn]
    rfl
  · rw [execByteReceived_eq, receiveByte_low hline]
  · rw [execByteReceived_eq, receiveByte_hunting hline hr, if_pos (show b = startByte from hb)]
    rfl
  · rw [execByteReceived_eq, receiveByte_hunting hline hr, if_neg (show ¬ b = startByte from hb)]
  · obtain ⟨start, rfl⟩ := List.length_eq_one_iff.mp hlen
    rw [execByteReceived_eq, receiveByte_receiving hline hr, List.singleton_append,
      growFrame_length]
    exact ⟨fun hb => congrArg done (if_pos hb), fun hb => congrArg done (if_neg hb)⟩
  · rw [execByteReceived_eq, receiveByte_receiving hline hr]
    exact congrArg done (growFrame_grows (rest := rest ++ [b]) (by simp) (by simpa using hshort))
  · intro kind tag body hi lo hbytes hbody
    have hgrown : exec (.byteReceived p b) s = done (
        if u16 (crc (len :: kind :: tag :: body)).toNat = [hi, lo] then receiveFrame p ⟨kind, tag, body⟩ s else hunt p s) := by
      rw [execByteReceived_eq, receiveByte_receiving hline hr, List.cons_append, List.cons_append,
        hbytes]
      exact congrArg done (growFrame_whole hbody rfl)
    exact ⟨fun h => hgrown.trans (congrArg done (if_pos h.symm)),
      fun h => hgrown.trans (congrArg done (if_neg (Ne.symm h)))⟩

/-! ## The receiver shows on no line (log entry 17) -/

/-- A port's notices and its mask alone reach the lines. -/
theorem outputsOf_setPort {x : PortState} (hn : x.notices = (s.port p).notices)
    (hm : x.mask = (s.port p).mask) : outputsOf (s.setPort p x) = outputsOf s := by
  have hunmasked : x.unmasked = (s.port p).unmasked := by
    rw [PortState.unmasked, hn, hm, PortState.unmasked]
  have hattention : vmap (fun pt => !pt.unmasked.isEmpty) (s.setPort p x).ports =
      vmap (fun pt => !pt.unmasked.isEmpty) s.ports := by
    apply Vector.ext
    intro j hj
    simp only [State.setPort, vmap_getElem, vset_getElem]
    split
    · next hsame =>
      subst hsame
      rw [hunmasked]
      rfl
    · rfl
  unfold outputsOf
  rw [hattention]
  rfl

theorem drive_of_linesFollow (h : s.linesFollow) : drive s = s := by
  rw [drive, ← h]

/-- Bytes that are kept leave the lines as they follow. -/
theorem drive_keepBytes (h : s.linesFollow) (bytes : List Byte) :
    drive (keepBytes p bytes s) = keepBytes p bytes s := by
  have hsame : outputsOf (keepBytes p bytes s) = outputsOf s :=
    outputsOf_setPort (x := { s.port p with receiver := .receiving bytes
                                            gapTimer := .running Config.gapUnits }) rfl rfl
  exact drive_of_linesFollow (h.trans hsame.symm)

/-! ## The bytes of one frame (R188) -/

theorem wire_eq (f : Frame) : f.wire = startByte :: BitVec.ofNat 8 (f.body.length + 2) :: f.kind ::
    f.tag :: (f.body ++ u16 (crc f.covered).toNat) := rfl

/-- The bytes kept so far are replaced by the longer frame. -/
theorem keepBytes_keepBytes (a l : List Byte) (s : State) :
    keepBytes p l (keepBytes p a s) = keepBytes p l s := by
  simp [keepBytes]

/-- A frame that is complete leaves nothing of the bytes kept. -/
theorem receiveFrame_keepBytes (a : List Byte) (f : Frame) (hline : (s.port p).lineLow = false)
    (hb : f.body.length ≤ 60) : receiveFrame p f (keepBytes p a s) = receiveFrame p f s := by
  have hhunt : hunt p (keepBytes p a s) = hunt p s := by simp [hunt, keepBytes]
  have hkept : ((keepBytes p a s).port p).lineLow = false := by simpa [keepBytes] using hline
  have hfits : ¬ Config.bodyMax < f.body.length := Nat.not_lt.mpr hb
  simp [receiveFrame, hline, hkept, hfits, hhunt]

section
variable (hb : f.body.length ≤ 60)
include hb

theorem lengthByte_toNat : (BitVec.ofNat 8 (f.body.length + 2)).toNat = f.body.length + 2 := by
  rw [BitVec.toNat_ofNat]
  omega

/-- R175: a proper part of a frame's bytes, LENGTH included, is kept. -/
theorem growFrame_part {bytes rest : List Byte} (hwire : bytes ++ rest = f.wire) (hrest : rest ≠ [])
    (hlen : 2 ≤ bytes.length) : growFrame p bytes s = keepBytes p bytes s := by
  have htotal : bytes.length + rest.length = f.body.length + 6 := by
    rw [← List.length_append, hwire, wire_eq]
    simp [u16_length]
  have hpos : 0 < rest.length := List.length_pos_iff.mpr hrest
  obtain ⟨start, len, tail, rfl⟩ : ∃ x y l, bytes = x :: y :: l := by
    match bytes, hlen with
    | x :: y :: l, _ => exact ⟨x, y, l, rfl⟩
  obtain rfl : len = BitVec.ofNat 8 (f.body.length + 2) := by
    rw [wire_eq] at hwire
    simp only [List.cons_append, List.cons.injEq] at hwire
    exact hwire.2.1
  have hnat := lengthByte_toNat hb
  by_cases htail : tail = []
  · subst htail
    rw [growFrame_length, if_pos (by omega)]
  · refine growFrame_grows htail ?_
    simp only [List.length_cons] at htotal
    omega

/-- R175: all the bytes of a frame complete it. -/
theorem growFrame_wire : growFrame p f.wire s = receiveFrame p f s := by
  rw [wire_eq, growFrame_whole (lengthByte_toNat hb).symm (u16_length _)]
  exact if_pos rfl

/-- R174, R175: once some bytes of a frame have arrived, the others complete it. -/
theorem execAll_rest (hline : (s.port p).lineLow = false) (hs : s.linesFollow) :
    ∀ (rest : List Byte) {bytes : List Byte}, bytes ++ rest = f.wire → rest ≠ [] → bytes ≠ [] →
      execAll (rest.map (Instr.byteReceived p)) (keepBytes p bytes s) = done (receiveFrame p f s)
  | [], _, _, hrest, _ => absurd rfl hrest
  | b :: rest, bytes, hwire, _, hbytes => by
    have hkept : ((keepBytes p bytes s).port p).lineLow = false := by
      simpa [keepBytes] using hline
    have hreceiver : ((keepBytes p bytes s).port p).receiver = .receiving bytes := by
      simp [keepBytes]
    have hgrown : exec (.byteReceived p b) (keepBytes p bytes s) =
        .next (drive (growFrame p (bytes ++ [b]) (keepBytes p bytes s))) :=
      congrArg done (receiveByte_receiving hkept hreceiver)
    have hwire' : (bytes ++ [b]) ++ rest = f.wire := by simpa using hwire
    rw [List.map_cons, execAll, hgrown]
    by_cases hrest : rest = []
    · subst hrest
      rw [List.append_nil] at hwire'
      rw [hwire', growFrame_wire hb, receiveFrame_keepBytes bytes f hline hb]
      rfl
    · have hlen : 2 ≤ (bytes ++ [b]).length := by
        have := List.length_pos_iff.mpr hbytes
        rw [List.length_append, List.length_singleton]
        omega
      rw [growFrame_part hb hwire' hrest hlen, keepBytes_keepBytes, drive_keepBytes hs]
      exact execAll_rest hline hs rest hwire' hrest (by simp)

/-- R174, R175: the bytes of a frame do what its arrival does. -/
theorem execAll_wire (hr : (s.port p).receiver = .hunting) (hline : (s.port p).lineLow = false)
    (hs : s.linesFollow) :
    execAll (f.wire.map (Instr.byteReceived p)) s = done (receiveFrame p f s) := by
  have hstart : exec (.byteReceived p startByte) s = .next (keepBytes p [startByte] s) := by
    rw [execByteReceived_eq, receiveByte_hunting hline hr, if_pos rfl, done, drive_keepBytes hs]
  have hwire := wire_eq f
  rw [hwire, List.map_cons, execAll, hstart]
  exact execAll_rest hb hline hs _ (bytes := [startByte]) hwire.symm (by simp) (by simp)

end

/-! ## The check (R176) -/

/-- R176: one byte joins the check bit by bit, most significant first. -/
theorem crc_append_singleton (bytes : List Byte) (x : Byte) : crc (bytes ++ [x]) =
    [7, 6, 5, 4, 3, 2, 1, 0].foldl (fun r k => crcBit r (x.getLsbD k)) (crc bytes) := by
  rw [crc, List.foldl_append]
  rfl

/-- Settles O10: the bytes by induction over those that have arrived, and the check bit by bit. -/
theorem bytesOnTheLineMakeTheFrame : Obligations.BytesOnTheLineMakeTheFrame := by
  unfold Obligations.BytesOnTheLineMakeTheFrame
  refine ⟨fun p f s hb hr hline hs => execAll_wire hb hr hline hs, fun f => rfl, rfl,
    fun bytes x => ?_, by decide +kernel⟩
  simp only [crc_append_singleton, crcBit, BitVec.msb_eq_getLsbD_last]

end Sys2Proof.Machine
end

section
/-! # Link: the reset of a port (R183, R19) -/

namespace Sys2Proof.Machine

variable {p : Port} {i : Lane} {n : Nat} {s : State}

/-- R183: a port once its line is low; its request and its reply stay. -/
def PortState.reset (x : PortState) : PortState :=
  { x with receiver := .hunting, gapTimer := .stopped, held := none, notices := [], mask := 0
           lineLow := true }

theorem execPortReset_eq (p : Port) (s : State) : exec (.portReset p) s = done (portReset p s) :=
  rfl

/-- R183: a line that is low already brings no second reset. -/
theorem portReset_low (h : (s.port p).lineLow = true) : portReset p s = s := if_pos h

/-- R183: the state with the port reset, before its sale ends. -/
def clearPort (p : Port) (s : State) : State := s.setPort p (s.port p).reset

theorem portReset_high (h : (s.port p).lineLow = false) :
    portReset p s = cancelAtReset p (clearPort p s) := by
  rw [portReset, if_neg (by simp [h])]
  rfl

/-! ## The sale slot that ends (R19) -/

theorem cancelSlot_empty (h : (s.saleSlot i).ticket? = none) : cancelSlot i s = s := by
  simp [cancelSlot, h]

/-- R18, R19: the end of a sale moves the sale slots and the ticket table alone. -/
theorem cancelSlot_leaves (i : Lane) (s : State) :
    (cancelSlot i s).gate = s.gate ∧ (cancelSlot i s).settings = s.settings ∧
      (cancelSlot i s).sales.finished = s.sales.finished ∧
      (cancelSlot i s).parkHolds = s.parkHolds := by
  unfold cancelSlot
  split
  · exact ⟨rfl, rfl, rfl, rfl⟩
  · exact ⟨rfl, rfl, rfl, rfl⟩

/-- R18, R19: the sale and its ticket are gone. -/
theorem cancelSlot_ends (h : (s.saleSlot i).ticket? = some n) :
    (cancelSlot i s).saleSlot i = .empty ∧ (cancelSlot i s).ticket? n = none := by
  rw [cancelSlot_held h]
  exact ⟨by rw [saleSlot_set, if_pos rfl], ticket?_freeTicket_same n s⟩

/-- R162: outside a drain the end of a sale is all that a reset does. -/
theorem settleDrain_cancelSlot (h : s.mode ≠ .draining) :
    settleDrain s (cancelSlot i s) = cancelSlot i s := by
  have hmode : (cancelSlot i s).mode = s.mode := by
    unfold cancelSlot
    split <;> rfl
  refine settleDrain_notDrained (fun hdrained => h ?_) (cancelSlot_leaves i s).2.2.2
  rw [← hmode]
  exact hdrained.1

/-- R162: the test of a drain's end reaches neither the halt state nor the store. -/
theorem settleDrain_haltStore (b s : State) :
    (settleDrain b s).halt = s.halt ∧ (settleDrain b s).store = s.store :=
  ⟨(testPark_halt b _).trans (testDrain_halt s),
    congrArg Prod.fst (reacts_outer (settleDrain_reacts b s))⟩

/-- R18, R19: the sale and its ticket stay ended, whatever the drain does. -/
theorem settledCancel_ends (h : (s.saleSlot i).ticket? = some n) :
    (settleDrain s (cancelSlot i s)).saleSlot i = .empty ∧
      (settleDrain s (cancelSlot i s)).ticket? n = none := by
  obtain ⟨hsales, -⟩ := settleDrain_leaves s (cancelSlot i s)
  obtain ⟨hempty, hgone⟩ := cancelSlot_ends h
  exact ⟨(congrArg (·.saleSlots[i]) hsales).trans hempty,
    (ticket?_congr (congrArg (·.slots) hsales) n).trans hgone⟩

theorem settledCancel_leaves (i : Lane) (s : State) :
    (settleDrain s (cancelSlot i s)).gate = s.gate ∧
      (settleDrain s (cancelSlot i s)).sales.finished = s.sales.finished ∧
      (settleDrain s (cancelSlot i s)).settings = s.settings ∧
      (settleDrain s (cancelSlot i s)).halt = s.halt ∧
      (settleDrain s (cancelSlot i s)).store = s.store := by
  obtain ⟨hsales, hgate, -, hsettings, -⟩ := settleDrain_leaves s (cancelSlot i s)
  obtain ⟨hgate', hsettings', hfinished, -⟩ := cancelSlot_leaves i s
  obtain ⟨hhalt, hstore⟩ := settleDrain_haltStore s (cancelSlot i s)
  have hframe := cancelSlot_frame i s
  exact ⟨hgate.trans hgate', (congrArg (·.finished) hsales).trans hfinished,
    hsettings.trans hsettings', hhalt.trans (halt_of_frame hframe),
    hstore.trans (congrArg Prod.fst (outer_of_frame hframe))⟩

theorem settledCancel_port (i : Lane) (s : State) (h : p ≠ .site) :
    (settleDrain s (cancelSlot i s)).port p = s.port p := by
  obtain ⟨-, -, -, -, hports⟩ := settleDrain_leaves s (cancelSlot i s)
  exact (hports p h).trans (port_congr (ports_of_frame (cancelSlot_frame i s)) p)

/-! ## The reset on a lane port (R183, R19) -/

/-- R183, R19: a lane port is reset as the others are, and the lane's sale with it. -/
theorem portReset_lane (h : (s.port (.lane i)).lineLow = false) : portReset (.lane i) s =
    settleDrain (clearPort (.lane i) s) (cancelSlot i (clearPort (.lane i) s)) :=
  portReset_high h

/-- R183: whatever the sale's end brings, the port is as the reset leaves it. -/
theorem portReset_port (h : (s.port p).lineLow = false) :
    (portReset p s).port p = (s.port p).reset := by
  have hcleared : (clearPort p s).port p = (s.port p).reset := port_setPort_same ..
  cases p with
  | console => rw [portReset_high h]; exact hcleared
  | site => rw [portReset_high h]; exact hcleared
  | lane i => rw [portReset_lane h, settledCancel_port i _ (by simp), hcleared]

/-- Settles O11: by port, and on a lane port by whether its sale slot holds a ticket. -/
theorem portResetClearsThePort : Obligations.PortResetClearsThePort := by
  unfold Obligations.PortResetClearsThePort
  refine ⟨fun p s h => ⟨fun hp => ?_, fun i hp hmode => ?_, fun i hp => ?_⟩,
    fun p s h => congrArg done (portReset_low h), fun _ _ => rfl⟩
  · rw [execPortReset_eq, portReset_high h]
    obtain rfl | rfl := hp
    · rfl
    · rfl
  · subst hp
    have hmode' : (clearPort (.lane i) s).mode ≠ .draining := hmode
    rw [execPortReset_eq, portReset_lane h, settleDrain_cancelSlot hmode']
    cases hheld : (s.saleSlot i).ticket? with
    | none => exact congrArg done (cancelSlot_empty hheld)
    | some n => exact congrArg done (cancelSlot_held hheld)
  · subst hp
    have hport := portReset_port h
    have hlane := portReset_lane h
    refine ⟨_, rfl, hport, ?_, fun n hheld => ?_, ?_⟩
    · refine Bool.eq_false_iff.mpr fun hon => ?_
      obtain ⟨n, hn, -⟩ := (out_attention _ _).mp hon
      rw [hport] at hn
      exact absurd hn List.not_mem_nil
    · rw [hlane]
      exact settledCancel_ends (s := clearPort (.lane i) s) hheld
    · rw [hlane]
      exact settledCancel_leaves i (clearPort (.lane i) s)

end Sys2Proof.Machine
end

section
/-! # Link: notices, TAKE NOTICE and SET MASK (R184 to R187, R190) -/

namespace Sys2Proof.Machine

variable {p : Port} {n : Notice} {s u t : State} {x : PortState}

/-! ## The notices that count (R185) -/

theorem PortState.unmasked_ne_nil :
    x.unmasked ≠ [] ↔ ∃ n ∈ x.notices, x.mask.getLsbD n.kind = false := by
  simp [PortState.unmasked, Set16.has]

theorem PortState.unmasked_inOrder (h : InOrder x.notices) : InOrder x.unmasked :=
  h.sublist List.filter_sublist

/-- R185: the first of the notices in order is the one of least kind. -/
theorem eq_head_of_least {m : Notice} {rest : List Notice} (h : InOrder (m :: rest))
    (hn : n ∈ m :: rest) (hleast : n.kind ≤ m.kind) : n = m := by
  obtain hhead | htail := List.mem_cons.mp hn
  · exact hhead
  · exact absurd (List.rel_of_pairwise_cons h htail) (Nat.not_lt.mpr hleast)

/-- R186: without the first notice the others stay, since no two are of one kind. -/
theorem unmasked_without_head {m : Notice} {rest : List Notice} (h : InOrder x.notices)
    (hx : x.unmasked = m :: rest) :
    PortState.unmasked { x with notices := x.notices.filter fun k => k.kind ≠ m.kind } = rest := by
  have hfits : InOrder (m :: rest) := hx ▸ PortState.unmasked_inOrder h
  have hothers : ∀ k ∈ rest, k.kind ≠ m.kind := fun k hk =>
    Nat.ne_of_gt (List.rel_of_pairwise_cons hfits hk)
  calc PortState.unmasked { x with notices := x.notices.filter fun k => k.kind ≠ m.kind }
      = x.unmasked.filter fun k => k.kind ≠ m.kind := by
        simp only [PortState.unmasked]
        rw [List.filter_comm]
    _ = rest := by
        rw [hx, List.filter_cons_of_neg (by simp)]
        exact List.filter_eq_self.mpr fun k hk => by simpa using hothers k hk

/-- R185: the attention line of a port that has been answered. -/
theorem answered_attention {kind tag : Byte} {st : Status} {results : List Byte}
    (h : answered p kind tag st results u = .next t) :
    t.out.attention[p.index] = true ↔ (u.port p).unmasked ≠ [] := by
  obtain rfl : drive (setRequest p (.replying ⟨kind + 0x80, tag, u8 st.code ++ results⟩) u) = t :=
    Host.Outcome.next.inj h
  rw [drive_out, out_attention, setRequest, port_setPort_same, PortState.unmasked_ne_nil]

/-! ## TAKE NOTICE (R186) -/

/-- R186: TAKE NOTICE is answered in every mode. -/
theorem exec_takeNotice {tag : Byte} {results : List Byte} (ht : s.takes p)
    (h : takeNoticeRequest p (hunt p s) = (okWith results, u)) :
    exec (.takeNotice p tag []) s = answered p 0x02 tag .ok results u :=
  request_ok (k := .takeNotice) ht (by cases p <;> rfl) rfl (Or.inr rfl) h

theorem hunt_unmasked (p : Port) (s : State) :
    ((hunt p s).port p).unmasked = (s.port p).unmasked := by
  rw [hunt_port]
  rfl

theorem takeNoticeRequest_none (h : (u.port p).unmasked = []) :
    takeNoticeRequest p u = (okWith (u8 0 ++ u8 0), u) := by
  rw [takeNoticeRequest, h]

theorem takeNoticeRequest_first {rest : List Notice} (h : (u.port p).unmasked = n :: rest) :
    takeNoticeRequest p u = (okWith (u8 n.kind ++ n.data ++ u8 rest.length),
      u.setPort p { u.port p with
        notices := (u.port p).notices.filter fun m => m.kind ≠ n.kind }) := by
  rw [takeNoticeRequest, h]

/-! ## Notices are raised (R184) -/

theorem raiseTo_mem (hs : s.noticesFit) (m : Notice) : m ∈ ((raiseTo p n s).port p).notices ↔
    m = n ∨ (m ∈ (s.port p).notices ∧ m.kind ≠ n.kind) := by
  rw [raiseTo, port_setPort_same]
  exact mem_addNotice_iff (hs p)

theorem raiseAll_mem (hs : s.noticesFit) (m : Notice) : m ∈ ((raiseAll n s).port p).notices ↔
    m = n ∨ (m ∈ (s.port p).notices ∧ m.kind ≠ n.kind) := by
  rw [notices_raiseAll]
  exact mem_addNotice_iff (hs p)

/-- Settles O12: the notice of least kind is the first of the unmasked ones. -/
theorem noticesAreRaisedAndTaken : Obligations.NoticesAreRaisedAndTaken := by
  unfold Obligations.NoticesAreRaisedAndTaken
  refine ⟨fun p tag s ht hs => ⟨fun hnone => ?_, fun n hn hleast => ?_⟩,
    fun p n s hs => ⟨raiseTo_mem hs, fun q hq => port_setPort_other _ _ (Ne.symm hq),
      raiseTo_noticesFit p n hs⟩,
    fun n s p hs => raiseAll_mem hs⟩
  · exact exec_takeNotice ht (takeNoticeRequest_none ((hunt_unmasked p s).trans hnone))
  · cases hunmasked : (s.port p).unmasked with
    | nil => exact absurd (hunmasked ▸ hn) List.not_mem_nil
    | cons m rest =>
      have hfits : InOrder (m :: rest) := hunmasked ▸ PortState.unmasked_inOrder (hs p)
      obtain rfl : n = m := eq_head_of_least hfits (hunmasked ▸ hn)
        (hleast m (hunmasked ▸ List.mem_cons_self))
      have hexec := exec_takeNotice (tag := tag) ht
        (takeNoticeRequest_first ((hunt_unmasked p s).trans hunmasked))
      have hnotices : ((hunt p s).port p).notices = (s.port p).notices := by rw [hunt_port]
      rw [hnotices] at hexec
      refine ⟨hexec, fun t ht => ?_⟩
      have hrest := unmasked_without_head (x := (hunt p s).port p) (m := n) (rest := rest)
        (hnotices ▸ hs p) ((hunt_unmasked p s).trans hunmasked)
      rw [hnotices] at hrest
      rw [answered_attention (hexec.symm.trans ht), port_setPort_same, hrest, List.length_cons,
        Nat.lt_add_left_iff_pos, List.length_pos_iff]

/-! ## SET MASK (R187, R190) -/

/-- R191: the kinds of notice are 1 to 12. -/
theorem knownKinds_iff (m : Set16) :
    m &&& unknownKinds = 0 ↔ ∀ k, m.getLsbD k = true → 1 ≤ k ∧ k ≤ 12 := by
  have hbits : ∀ k : Fin 16, unknownKinds.getLsbD k.val = !decide (1 ≤ k.val ∧ k.val ≤ 12) := by
    decide
  rw [BitVec.eq_of_getLsbD_eq_iff]
  constructor
  · intro h k hk
    have hlt : k < 16 := BitVec.lt_of_getLsbD hk
    have hand := h k hlt
    rw [BitVec.getLsbD_and, hk, hbits ⟨k, hlt⟩] at hand
    simpa using hand
  · intro h k hlt
    rw [BitVec.getLsbD_and, hbits ⟨k, hlt⟩]
    cases hk : m.getLsbD k with
    | false => simp
    | true => simpa using h k hk

theorem getLsbD_insert (b : Set16) (n : Nat) {k : Nat} (hk : k < 16) :
    (Set16.insert b n).getLsbD k = true ↔ b.getLsbD k = true ∨ n = k := by
  rw [Set16.insert, Set16.single, BitVec.getLsbD_or, BitVec.getLsbD_ofNat, Nat.testBit_two_pow]
  simp [hk]

/-- R190: a set with the kinds of a list of notices added. -/
theorem getLsbD_insertKinds {k : Nat} (hk : k < 16) : ∀ (l : List Notice) (b : Set16),
    (l.foldl (fun b n => Set16.insert b n.kind) b).getLsbD k = true ↔
      b.getLsbD k = true ∨ ∃ n ∈ l, n.kind = k
  | [], b => by simp
  | n :: l, b => by
    rw [List.foldl_cons, getLsbD_insertKinds hk l, getLsbD_insert b _ hk, or_assoc]
    simp

/-- R187: the body of SET MASK is read back as the mask. -/
theorem setMaskRequest_setBytes (p : Port) (m : Set16) (u : State) :
    setMaskRequest p (setBytes m) u =
      if m &&& unknownKinds = 0 then
        (okWith (setBytes m ++ setBytes (u.port p).pendingSet),
          u.setPort p { u.port p with mask := m })
      else (refuse .outOfRange, u) := by
  have hread : (BitVec.ofNat 16 (wordAt (setBytes m) 0) : Set16) = m := by
    rw [setBytes, wordAt_body m.isLt, BitVec.ofNat_toNat, BitVec.setWidth_eq]
  rw [setMaskRequest, hread]

theorem hunt_pendingSet (p : Port) (s : State) :
    ((hunt p s).port p).pendingSet = (s.port p).pendingSet := by
  rw [hunt_port]
  rfl

/-- Settles O13: the mask is the body read back, and the pending set holds each notice's kind. -/
theorem setMaskReplacesTheMask : Obligations.SetMaskReplacesTheMask := by
  unfold Obligations.SetMaskReplacesTheMask
  refine ⟨fun p tag m s ht => ⟨fun hknown => ?_, fun ⟨k, hk, hout⟩ => ?_⟩,
    fun p s k => ?_, fun p s t hline h => ?_, fun p s t h => ?_⟩
  · have hserved := setMaskRequest_setBytes p m (hunt p s)
    rw [if_pos ((knownKinds_iff m).mpr hknown), hunt_pendingSet] at hserved
    have hexec := request_ok (k := .setMask) (tag := tag) ht (by cases p <;> rfl) rfl (Or.inr rfl)
      hserved
    refine ⟨hexec, fun t h => ?_⟩
    rw [answered_attention (hexec.symm.trans h), PortState.unmasked_ne_nil, port_setPort_same,
      hunt_port]
  · have hserved := setMaskRequest_setBytes p m (hunt p s)
    rw [if_neg fun hz => hout ((knownKinds_iff m).mp hz k hk)] at hserved
    exact request_refused (k := .setMask) ht (by cases p <;> rfl) rfl (Or.inr rfl) hserved
  · rw [PortState.pendingSet, getLsbD_insertKinds k.isLt]
    simp
  · have hexec : exec (.portReset p) s = .next (drive (portReset p s)) := rfl
    obtain rfl := Host.Outcome.next.inj (hexec.symm.trans h)
    rw [drive_port, portReset_port hline]
    rfl
  · have hexec : exec .deviceReset s = .next (drive (deviceReset s)) := rfl
    obtain rfl := Host.Outcome.next.inj (hexec.symm.trans h)
    rw [drive_port, deviceReset_port]
    rfl

end Sys2Proof.Machine
end

section
/-! # Formats and codes: the layout of the records (R189 to R196)

A record is its fields one after the other, each of a fixed size, so that a read at a field's offset
is by computation a read of that field alone; what is left to prove is that each field fits its
size. -/

namespace Sys2Proof.Machine

variable {n : Nat}

/-! ## Reading a field back (R189, R190) -/

theorem longAt_body (w : Word32) : longAt (u32 w.toNat) 0 = w := by
  simpa using longAt_u32 w []

/-- An index of a table of at most 256 places fits a byte. -/
theorem byteAt_index (h : n ≤ 256) (k : Fin n) : byteAt (u8 k.val) 0 = k.val :=
  byteAt_body (Nat.lt_of_lt_of_le k.isLt h)

theorem wordAt_set (b : Set16) : wordAt (setBytes b) 0 = b.toNat := wordAt_body b.isLt

theorem byteAt_flag (b : Bool) : byteAt (flagByte b) 0 = b.toNat :=
  byteAt_body (Nat.lt_of_le_of_lt b.toNat_le (by decide))

theorem TicketKind.code_lt (k : TicketKind) : k.code < 256 := by cases k <;> decide
theorem TicketState.code_lt (k : TicketState) : k.code < 256 := by cases k <;> decide
theorem Result.code_lt (r : Result) : r.code < 256 := by cases r <;> decide
theorem ArmState.code_lt (a : ArmState) : a.code < 256 := by cases a <;> decide
theorem Progress.code_lt (x : Progress) : x.code < 16 := by cases x <;> decide
theorem Cause.code_lt (c : Cause) : c.code < 16 := by cases c <;> decide

theorem Origin.code_lt (o : Origin) : o.code < 256 := by
  cases o with
  | lane i => exact Nat.lt_trans i.isLt (by decide)
  | console => decide

/-! ## Sales records (R193) -/

/-- R193: the ticket record. -/
theorem ticketBytes_layout {t : Ticket} (hnumber : t.number < 65536) (hprice : t.price < 65536)
    (hcap : t.cap < 65536) (haddOns : t.addOns.length ≤ 3) (hcredit : t.credit.getD 0 < 65536) :
    (ticketBytes t).length = 27 ∧ wordAt (ticketBytes t) 0 = t.number ∧
    byteAt (ticketBytes t) 2 = t.kind.code ∧ byteAt (ticketBytes t) 3 = t.state.code ∧
    byteAt (ticketBytes t) 4 = bitAt t.baseRow.isSome 0 + bitAt t.receipt.isSome 1 +
      bitAt t.tag.isSome 2 + bitAt t.credit.isSome 3 ∧
    byteAt (ticketBytes t) 5 = (t.baseRow.getD 0).val ∧
    byteAt (ticketBytes t) 6 = t.addOns.length ∧
    (∀ k, k < 3 → byteAt (ticketBytes t) (7 + k) = (t.addOns[k]?.getD 0).val) ∧
    wordAt (ticketBytes t) 10 = t.features.toNat ∧ wordAt (ticketBytes t) 12 = t.cap ∧
    wordAt (ticketBytes t) 14 = t.price ∧ byteAt (ticketBytes t) 16 = t.origin.code ∧
    longAt (ticketBytes t) 17 = t.receipt.getD 0 ∧ longAt (ticketBytes t) 21 = t.tag.getD 0 ∧
    wordAt (ticketBytes t) 25 = t.credit.getD 0 := by
  have hpresence : ∀ a b c d : Bool, bitAt a 0 + bitAt b 1 + bitAt c 2 + bitAt d 3 < 256 := by
    decide
  have hcount : t.addOns.length < 256 := Nat.lt_of_le_of_lt haddOns (by decide)
  simp only [ticketBytes, List.append_assoc]
  refine ⟨rfl, wordAt_body hnumber, byteAt_body t.kind.code_lt, byteAt_body t.state.code_lt,
    byteAt_body (hpresence ..), byteAt_index (by decide) (t.baseRow.getD 0), byteAt_body hcount,
    fun k hk => ?_, wordAt_set t.features, wordAt_body hcap, wordAt_body hprice,
    byteAt_body t.origin.code_lt, longAt_body (t.receipt.getD 0), longAt_body (t.tag.getD 0),
    wordAt_body hcredit⟩
  match k, hk with
  | 0, _ => exact byteAt_index (by decide) (t.addOns[0]?.getD 0)
  | 1, _ => exact byteAt_index (by decide) (t.addOns[1]?.getD 0)
  | 2, _ => exact byteAt_index (by decide) (t.addOns[2]?.getD 0)

/-- R193: an entry of a finished list. -/
theorem finishedBytes_layout {e : Finished} (hticket : e.ticket < 65536)
    (hcredit : e.credit.getD 0 < 65536) :
    (finishedBytes e).length = 10 ∧ wordAt (finishedBytes e) 0 = e.ticket ∧
    byteAt (finishedBytes e) 2 = e.result.code ∧
    byteAt (finishedBytes e) 3 = bitAt e.receipt.isSome 1 + bitAt e.credit.isSome 3 ∧
    longAt (finishedBytes e) 4 = e.receipt.getD 0 ∧
    wordAt (finishedBytes e) 8 = e.credit.getD 0 := by
  have hpresence : ∀ a b : Bool, bitAt a 1 + bitAt b 3 < 256 := by decide
  simp only [finishedBytes, List.append_assoc]
  exact ⟨rfl, wordAt_body hticket, byteAt_body e.result.code_lt, byteAt_body (hpresence ..),
    longAt_body (e.receipt.getD 0), wordAt_body hcredit⟩

/-! ## The sale slot of LANE STATUS (R193) -/

section
variable {s : State} {x : SaleSlot} {t : Ticket}

/-- R190: the number of a sale slot's content. -/
def SaleSlot.code : SaleSlot → Nat
  | .empty => 0 | .pending _ _ _ _ => 1 | .lookup _ _ _ => 2

theorem SaleSlot.code_lt (x : SaleSlot) : x.code < 256 := by cases x <;> simp [SaleSlot.code]

theorem saleSlotBytes_found (hx : x.ticket? = some n) (ht : s.ticket? n = some t) :
    saleSlotBytes s x = u8 x.code ++ (u16 n ++ (u8 t.kind.code ++ u16 t.price)) := by
  simp only [saleSlotBytes, hx, ht, List.append_assoc]
  rfl

theorem saleSlotBytes_notFound (hx : x.ticket? = some n) (ht : s.ticket? n = none) :
    saleSlotBytes s x = u8 x.code ++ (u16 n ++ (u8 0 ++ u16 0)) := by
  simp only [saleSlotBytes, hx, ht, List.append_assoc]
  rfl

/-- R193: a slot that is not empty shows its code, its ticket's number, and what it will pay. -/
theorem saleSlotBytes_layout (hx : x.ticket? = some n) (hn : n < 65536) :
    (saleSlotBytes s x).length = 6 ∧ byteAt (saleSlotBytes s x) 0 = x.code ∧
    wordAt (saleSlotBytes s x) 1 = n ∧
    ∀ t, s.ticket? n = some t → t.price < 65536 →
      byteAt (saleSlotBytes s x) 3 = t.kind.code ∧ wordAt (saleSlotBytes s x) 4 = t.price := by
  cases ht : s.ticket? n with
  | none =>
    rw [saleSlotBytes_notFound hx ht]
    exact ⟨rfl, byteAt_body x.code_lt, wordAt_body hn, fun t h => nomatch h⟩
  | some t =>
    rw [saleSlotBytes_found hx ht]
    refine ⟨rfl, byteAt_body x.code_lt, wordAt_body hn, fun u h hprice => ?_⟩
    obtain rfl : t = u := Option.some.inj h
    exact ⟨byteAt_body t.kind.code_lt, wordAt_body hprice⟩

end

/-! ## Member entries and credits (R194) -/

/-- R189: a stamp stands at an offset; an absent one reads 0xFFFF, 0xFFFF. -/
def ShowsStamp (b : List Byte) (i : Nat) (x : Option Stamp) : Prop :=
  match x with
  | none => wordAt b i = 65535 ∧ wordAt b (i + 2) = 65535
  | some m => m.day < 65536 → m.minute < 65536 → wordAt b i = m.day ∧ wordAt b (i + 2) = m.minute

theorem showsStamp_stampBytes (x : Option Stamp) : ShowsStamp (stampBytes x) 0 x := by
  cases x with
  | none => exact ⟨rfl, rfl⟩
  | some m => exact fun hday hminute => ⟨wordAt_body hday, wordAt_body hminute⟩

/-- A stamp is read at an offset as it is read alone, when the words there are its own. -/
theorem showsStamp_at {b : List Byte} {i : Nat} {x : Option Stamp}
    (hday : wordAt b i = wordAt (stampBytes x) 0)
    (hminute : wordAt b (i + 2) = wordAt (stampBytes x) 2) : ShowsStamp b i x := by
  have h := showsStamp_stampBytes x
  unfold ShowsStamp at h ⊢
  rwa [hday, hminute]

/-- R194: a member entry. -/
theorem entryBytes_layout (k : EntryIx) (e : MemberEntry) :
    (entryBytes k e).length = 12 ∧ byteAt (entryBytes k e) 0 = k.val ∧
    byteAt (entryBytes k e) 1 = bitAt e.valid 0 + bitAt (e.status == .suspended) 1 ∧
    (e.order < 256 → byteAt (entryBytes k e) 2 = e.order) ∧ longAt (entryBytes k e) 3 = e.base ∧
    byteAt (entryBytes k e) 7 = e.row.val ∧ ShowsStamp (entryBytes k e) 8 e.stamp := by
  have hbits : ∀ a b : Bool, bitAt a 0 + bitAt b 1 < 256 := by decide
  have hlength : (entryBytes k e).length = 12 := by
    cases h : e.stamp <;> simp [entryBytes, h, stampBytes, u8, u16, u32]
  refine ⟨hlength, ?_⟩
  simp only [entryBytes, List.append_assoc]
  exact ⟨byteAt_index (by decide) k, byteAt_body (hbits ..), byteAt_body, longAt_body e.base,
    byteAt_index (by decide) e.row, showsStamp_at rfl rfl⟩

/-- R194: a credit. -/
theorem creditBytes_layout (s : State) {c : Credit} (hcode : c.code < 65536)
    (hcap : c.cap < 65536) :
    (creditBytes s c).length = 14 ∧ wordAt (creditBytes s c) 0 = c.code ∧
    byteAt (creditBytes s c) 2 = (c.baseRow.getD 0).val ∧
    wordAt (creditBytes s c) 3 = c.features.toNat ∧ wordAt (creditBytes s c) 5 = c.cap ∧
    byteAt (creditBytes s c) 7 = c.reason.code ∧ ShowsStamp (creditBytes s c) 8 (some c.stamp) ∧
    byteAt (creditBytes s c) 12 = c.origin.code ∧
    byteAt (creditBytes s c) 13 = (s.codeNamed c.code).toNat := by
  simp only [creditBytes, List.append_assoc]
  exact ⟨rfl, wordAt_body hcode, byteAt_index (by decide) (c.baseRow.getD 0),
    wordAt_set c.features, wordAt_body hcap, byteAt_body c.reason.code_lt,
    showsStamp_at rfl rfl, byteAt_body c.origin.code_lt, byteAt_flag (s.codeNamed c.code)⟩

/-! ## Cars (R195) -/

theorem packProgress_length : ∀ l : List Progress, (packProgress l).length = (l.length + 1) / 2
  | [] => rfl
  | [_] => by simp [packProgress]
  | _ :: _ :: rest => by
    have ih := packProgress_length rest
    simp only [packProgress, List.length_cons]
    omega

/-- R195: two stations a byte, the even one in the upper four bits. -/
theorem byteAt_packProgress : ∀ (l : List Progress) (k : Nat) (h : 2 * k + 1 < l.length),
    byteAt (packProgress l) k = l[2 * k].code * 16 + l[2 * k + 1].code
  | [], _, h | [_], _, h => by simp at h
  | x :: y :: rest, 0, _ => by
    have hx := x.code_lt
    have hy := y.code_lt
    exact byteAt_body (by omega)
  | _ :: _ :: rest, k + 1, h => by
    have hrest : 2 * k + 1 < rest.length := by
      simp only [List.length_cons] at h
      omega
    exact byteAt_packProgress rest k hrest

/-- R91, R195: a rear of a car whose front and length fit is read back with its sign. -/
theorem rearBytes_toInt {c : Car} (hfront : c.front < 16384)
    (hlength : ∀ l, c.length = some l → l ≤ 600) :
    (BitVec.ofNat 16 (wordAt (rearBytes c.rear) 0)).toInt = c.rear := by
  have hfits : -32768 ≤ c.rear ∧ c.rear < 32768 := by
    unfold Car.rear
    cases h : c.length with
    | none => dsimp only; omega
    | some l => have := hlength l h; dsimp only; omega
  rw [rearBytes, wordAt_body (BitVec.isLt _), BitVec.ofNat_toNat, BitVec.setWidth_eq]
  exact BitVec.toInt_ofInt_eq_self (by decide) hfits.1 hfits.2

/-- R195: a roster entry. -/
theorem carBytes_layout {c : Car} (hticket : c.ticket < 65536) (hfront : c.front < 16384)
    (hlength : ∀ l, c.length = some l → l ≤ 600) :
    (carBytes c).length = 22 ∧ wordAt (carBytes c) 0 = c.ticket ∧
    wordAt (carBytes c) 2 = c.front ∧ wordAt (carBytes c) 4 = c.length.getD 0 ∧
    (BitVec.ofNat 16 (wordAt (carBytes c) 6)).toInt = c.rear ∧
    byteAt (carBytes c) 8 = bitAt c.flags.tall 0 + bitAt c.flags.wide 1 + bitAt c.flags.short 2 ∧
    byteAt (carBytes c) 9 = bitAt c.marks[0] 0 + bitAt c.marks[1] 1 + bitAt c.marks[2] 2 +
      bitAt c.marks[3] 3 + bitAt c.exitMark 4 ∧
    ∀ (k : Fin 12) (i j : StationIx), i.val = 2 * k.val → j.val = 2 * k.val + 1 →
      byteAt (carBytes c) (10 + k.val) = (c.status i).code * 16 + (c.status j).code := by
  have hsize : (carBytes c).length = 22 := by
    simp [carBytes, rearBytes, flagsByte, marksByte, u8, u16, packProgress_length]
  have hlen : c.length.getD 0 < 65536 := by
    cases h : c.length with
    | none => decide
    | some l => exact Nat.lt_of_le_of_lt (hlength l h) (by decide)
  have hflags : ∀ a b c : Bool, bitAt a 0 + bitAt b 1 + bitAt c 2 < 256 := by decide
  have hmarks : ∀ a b c d e : Bool,
      bitAt a 0 + bitAt b 1 + bitAt c 2 + bitAt d 3 + bitAt e 4 < 256 := by decide
  refine ⟨hsize, ?_⟩
  simp only [carBytes, List.append_assoc]
  refine ⟨wordAt_body hticket, wordAt_body (Nat.lt_trans hfront (by decide)),
    wordAt_body hlen, rearBytes_toInt hfront hlength, byteAt_body (hflags ..),
    byteAt_body (hmarks ..), fun k ⟨i, hi⟩ ⟨j, hj⟩ hik hjk => ?_⟩
  obtain rfl : i = 2 * k.val := hik
  obtain rfl : j = 2 * k.val + 1 := hjk
  rw [Nat.add_comm]
  exact byteAt_packProgress c.progress.toList k (by simpa using hj)

/-! ## Stations (R195) -/

section
variable {s : State} {j : StationIx}

theorem jogged_eq_any (s : State) (j : StationIx) :
    s.jogged j = s.stn.jog.any fun g => g.station == j := by
  unfold State.jogged
  cases s.stn.jog <;> rfl

/-- R115, R195: the two points of a station lie at most its post beyond its offset. -/
theorem points_le (st : StationCfg) (avg : Nat) :
    onPointOf st avg ≤ st.offset + st.post ∧ offPointOf st avg ≤ st.offset + st.post := by
  unfold onPointOf offPointOf
  omega

/-- R113, R195: a station's settings fit the fields of its record. -/
structure StationCfg.RecordFits (st : StationCfg) : Prop where
  points : st.offset + st.post < 65536
  pre : st.pre < 256
  post : st.post < 256
  latency : st.latency < 65536
  leadMax : st.leadMax < 256
  advanceTime : st.advanceTime < 65536
  withdrawTimeout : st.withdrawTimeout < 65536
  tripLevel : st.tripLevel < 65536
  tripCount : st.tripCount < 256

/-- R195: a station record, field after field. -/
theorem stationBytes_eq (j : StationIx) (s : State) : stationBytes j s =
    u8 j.val ++ (u8 (stationFlags j s) ++ (u16 (s.station j).offset ++ (u8 (s.station j).pre ++
    (u8 (s.station j).post ++ (u16 (s.station j).latency ++ (u8 (s.station j).leadMax ++
    (u8 (s.station j).feature.val ++ (u8 (s.station j).firstLine.val ++
    (u8 (s.station j).secondLine.val ++ (u8 (s.station j).channel.val ++
    (u16 (s.station j).advanceTime ++ (u16 (s.station j).withdrawTimeout ++
    (u16 (s.station j).tripLevel ++ (u8 (s.station j).tripCount ++
    (u8 (leadOf (s.station j) s.avgPeriod) ++ (u16 (s.onPoint j) ++ (u16 (s.offPoint j) ++
    (stationWork j s ++ u16 (s.jogRemaining j))))))))))))))))))) := by
  unfold stationBytes
  dsimp only
  simp only [List.append_assoc]

/-- R195: the index, the flags, the settings and the points of a station record. -/
theorem stationBytes_settings (h : (s.station j).RecordFits) :
    byteAt (stationBytes j s) 0 = j.val ∧
    byteAt (stationBytes j s) 1 = bitAt (s.station j).enabled 0 +
      bitAt ((s.station j).kind == .arm) 1 + bitAt (s.station j).exclTall 2 +
      bitAt (s.station j).exclWide 3 + bitAt (s.stn.jog.any fun g => g.station == j) 4 +
      bitAt ((s.station j).kind == .arm && s.inputs.stowed[(s.station j).channel]) 5 ∧
    wordAt (stationBytes j s) 2 = (s.station j).offset ∧
    byteAt (stationBytes j s) 4 = (s.station j).pre ∧
    byteAt (stationBytes j s) 5 = (s.station j).post ∧
    wordAt (stationBytes j s) 6 = (s.station j).latency ∧
    byteAt (stationBytes j s) 8 = (s.station j).leadMax ∧
    byteAt (stationBytes j s) 9 = (s.station j).feature.val ∧
    byteAt (stationBytes j s) 10 = (s.station j).firstLine.val ∧
    byteAt (stationBytes j s) 11 = (s.station j).secondLine.val ∧
    byteAt (stationBytes j s) 12 = (s.station j).channel.val ∧
    wordAt (stationBytes j s) 13 = (s.station j).advanceTime ∧
    wordAt (stationBytes j s) 15 = (s.station j).withdrawTimeout ∧
    wordAt (stationBytes j s) 17 = (s.station j).tripLevel ∧
    byteAt (stationBytes j s) 19 = (s.station j).tripCount ∧
    byteAt (stationBytes j s) 20 = leadOf (s.station j) s.avgPeriod ∧
    wordAt (stationBytes j s) 21 = onPointOf (s.station j) s.avgPeriod ∧
    wordAt (stationBytes j s) 23 = offPointOf (s.station j) s.avgPeriod := by
  obtain ⟨hpoints, hpre, hpost, hlatency, hleadMax, hadvance, hwithdraw, hlevel, hcount⟩ := h
  have hflags : ∀ a b c d e f : Bool,
      bitAt a 0 + bitAt b 1 + bitAt c 2 + bitAt d 3 + bitAt e 4 + bitAt f 5 < 256 := by decide
  have hoffset : (s.station j).offset < 65536 := by omega
  have hlead : leadOf (s.station j) s.avgPeriod < 256 :=
    Nat.lt_of_le_of_lt (Nat.min_le_right ..) hleadMax
  obtain ⟨hon, hoff⟩ := points_le (s.station j) s.avgPeriod
  rw [← jogged_eq_any, stationBytes_eq]
  exact ⟨byteAt_index (by decide) j, byteAt_body (hflags ..), wordAt_body hoffset,
    byteAt_body hpre, byteAt_body hpost, wordAt_body hlatency, byteAt_body hleadMax,
    byteAt_index (by decide) (s.station j).feature,
    byteAt_index (by decide) (s.station j).firstLine,
    byteAt_index (by decide) (s.station j).secondLine,
    byteAt_index (by decide) (s.station j).channel, wordAt_body hadvance, wordAt_body hwithdraw,
    wordAt_body hlevel, byteAt_body hcount, byteAt_body hlead,
    wordAt_body (Nat.lt_of_le_of_lt hon hpoints), wordAt_body (Nat.lt_of_le_of_lt hoff hpoints)⟩

/-! ### What the station is doing -/

theorem stationWork_switched (h : (s.station j).kind = .switched) : stationWork j s =
    flagByte ((s.station j).enabled && s.firstLineOn j) ++
      (numberBytes ((s.activeAt j).head?.map fun c => c.ticket) ++
        (u8 (s.activeAt j).length ++ (u16 0 ++ u16 0))) := by
  simp only [stationWork, h, List.append_assoc]

theorem stationWork_arm (h : (s.station j).kind = .arm) : stationWork j s =
    u8 (s.machine j).arm.code ++
      (numberBytes ((s.activeAt j).head?.map fun c => c.ticket) ++
        (u8 (s.machine j).trip ++ (u16 (s.machine j).remaining ++
          u16 s.inputs.motorCurrent[(s.station j).channel]))) := by
  simp only [stationWork, h, List.append_assoc]

theorem stationWork_length (j : StationIx) (s : State) : (stationWork j s).length = 8 := by
  cases h : (s.station j).kind with
  | switched => rw [stationWork_switched h]; rfl
  | arm => rw [stationWork_arm h]; rfl

theorem stationBytes_length (j : StationIx) (s : State) : (stationBytes j s).length = 35 := by
  simp [stationBytes_eq, stationWork_length, u8, u16]

/-- R195: from offset 25 on a station record holds the work, then the jog. -/
theorem byteAt_stationBytes_work (j : StationIx) (s : State) (i : Nat) :
    byteAt (stationBytes j s) (i + 25) = byteAt (stationWork j s ++ u16 (s.jogRemaining j)) i := by
  rw [stationBytes_eq]
  rfl

theorem wordAt_stationBytes_work (j : StationIx) (s : State) (i : Nat) :
    wordAt (stationBytes j s) (i + 25) = wordAt (stationWork j s ++ u16 (s.jogRemaining j)) i := by
  rw [stationBytes_eq]
  rfl

/-- R195: the ticket the station serves, the oldest ACTIVE one, or 0. -/
theorem stationBytes_served
    (h : ((s.activeAt j).map fun c => c.ticket).headD 0 < 65536) :
    wordAt (stationBytes j s) 26 = ((s.activeAt j).map fun c => c.ticket).headD 0 := by
  rw [List.headD_eq_head?_getD, List.head?_map] at h ⊢
  rw [wordAt_stationBytes_work j s 1]
  cases hkind : (s.station j).kind with
  | switched => rw [stationWork_switched hkind]; exact wordAt_body h
  | arm => rw [stationWork_arm hkind]; exact wordAt_body h

/-- R195: the remaining time of a jog of the station. -/
theorem stationBytes_jog (h : s.jogRemaining j < 65536) :
    wordAt (stationBytes j s) 33 = s.jogRemaining j := by
  rw [wordAt_stationBytes_work j s 8]
  cases hkind : (s.station j).kind with
  | switched => rw [stationWork_switched hkind]; exact wordAt_body h
  | arm => rw [stationWork_arm hkind]; exact wordAt_body h

theorem jogRemaining_own {g : Jog} (hg : s.stn.jog = some g) (hj : g.station = j) :
    s.jogRemaining j = g.timer.leftMs := by
  simp only [State.jogRemaining, hg, if_pos hj]

theorem jogRemaining_other (h : ∀ g, s.stn.jog = some g → g.station ≠ j) :
    s.jogRemaining j = 0 := by
  unfold State.jogRemaining
  cases hg : s.stn.jog with
  | none => rfl
  | some g => exact if_neg (h g hg)

/-- R195: an ARM station shows its arm, its trip count, its timer and its motor's current. -/
theorem stationBytes_arm (h : (s.station j).kind = .arm) :
    byteAt (stationBytes j s) 25 = (s.machine j).arm.code ∧
    ((s.machine j).trip < 256 → byteAt (stationBytes j s) 28 = (s.machine j).trip) ∧
    ((s.machine j).remaining < 65536 →
      wordAt (stationBytes j s) 29 = (s.machine j).remaining) ∧
    (s.inputs.motorCurrent[(s.station j).channel] < 65536 →
      wordAt (stationBytes j s) 31 = s.inputs.motorCurrent[(s.station j).channel]) := by
  rw [byteAt_stationBytes_work j s 0, byteAt_stationBytes_work j s 3,
    wordAt_stationBytes_work j s 4, wordAt_stationBytes_work j s 6, stationWork_arm h]
  exact ⟨byteAt_body (s.machine j).arm.code_lt, byteAt_body, wordAt_body, wordAt_body⟩

/-- R195: a SWITCHED station shows its output and its number of ACTIVE cars. -/
theorem stationBytes_switched (h : (s.station j).kind = .switched) :
    byteAt (stationBytes j s) 25 = ((s.station j).enabled && s.firstLineOn j).toNat ∧
    ((s.activeAt j).length < 256 → byteAt (stationBytes j s) 28 = (s.activeAt j).length) ∧
    wordAt (stationBytes j s) 29 = 0 ∧ wordAt (stationBytes j s) 31 = 0 := by
  rw [byteAt_stationBytes_work j s 0, byteAt_stationBytes_work j s 3,
    wordAt_stationBytes_work j s 4, wordAt_stationBytes_work j s 6, stationWork_switched h]
  exact ⟨byteAt_flag _, byteAt_body, wordAt_body (by decide), wordAt_body (by decide)⟩

/-- R120, R134: a SWITCHED station's output is on under a jog of it, or in RUNNING for a car
ACTIVE. -/
theorem switchedOutput_iff (h : (s.station j).kind = .switched) :
    ((s.station j).enabled && s.firstLineOn j) = true ↔
      (s.station j).enabled = true ∧ s.inputs.chainClosed = true ∧ s.mode ≠ .lockout ∧
        ((∃ g, s.stn.jog = some g ∧ g.station = j) ∨
          (s.halt.state = .running ∧ (s.activeAt j).map (fun c => c.ticket) ≠ [])) := by
  have harm : ¬ s.armOut j := fun ⟨hkind, _⟩ => by simp [h] at hkind
  have hspraying : s.spraying j ↔ (s.activeAt j).map (fun c => c.ticket) ≠ [] := by
    simp [State.spraying, State.activeAt, h]
  rw [Bool.and_eq_true, firstLineOn_iff, jogged_iff, State.linesLive, hspraying, or_iff_left harm,
    and_assoc]

end

/-! ## Episodes (R196) -/

theorem Subject.kindCode_lt (x : Subject) : x.kindCode < 4 := by
  cases x <;> simp [Subject.kindCode]

theorem EndedBy.code_lt (x : EndedBy) : x.code < 4 := by cases x <;> decide

theorem Episode.endCode_lt (e : Episode) : e.endCode < 4 := by
  unfold Episode.endCode
  split
  · decide
  · exact EndedBy.code_lt _

theorem Episode.endField_lt (e : Episode) : e.endField < 65536 := by
  unfold Episode.endField
  split
  · decide
  · split <;> omega

theorem Subject.value_lt {x : Subject} (h : ∀ n, x = .ticket n → n < 65536) : x.value < 65536 := by
  cases x with
  | none => decide
  | ticket n => exact h n rfl
  | station j => exact Nat.lt_trans j.isLt (by decide)
  | eye e =>
    cases e with
    | entry => decide
    | checkpoint k => exact Nat.lt_trans (Nat.succ_lt_succ k.isLt) (by decide)
    | exit => decide

/-- R196: an episode record. -/
theorem episodeBytes_layout {e : Episode} (hnumber : e.number < 256)
    (hsubject : ∀ n, e.subject = .ticket n → n < 65536) :
    (episodeBytes e).length = 14 ∧ byteAt (episodeBytes e) 0 = e.number ∧
    byteAt (episodeBytes e) 1 = e.first.code + 16 * e.subject.kindCode + 64 * e.endCode ∧
    wordAt (episodeBytes e) 2 = e.further.toNat ∧ wordAt (episodeBytes e) 4 = e.subject.value ∧
    ShowsStamp (episodeBytes e) 6 (some e.start) ∧
    wordAt (episodeBytes e) 10 = e.pulseTotal.toNat % 65536 ∧
    wordAt (episodeBytes e) 12 = e.endField := by
  have hpacked : e.first.code + e.subject.kindCode * 16 + e.endCode * 64 < 256 := by
    have := e.first.code_lt
    have := e.subject.kindCode_lt
    have := e.endCode_lt
    omega
  rw [Nat.mul_comm 16, Nat.mul_comm 64]
  simp only [episodeBytes, List.append_assoc]
  exact ⟨rfl, byteAt_body hnumber, byteAt_body hpacked, wordAt_set e.further,
    wordAt_body (Subject.value_lt hsubject), showsStamp_at rfl rfl,
    wordAt_body (Nat.mod_lt _ (by decide)), wordAt_body e.endField_lt⟩

/-! ## The statement -/

/-- Settles O15: each record by its layout lemma; the notices, the numbers and the gate decisions by
the model's tables, case by case. -/
theorem recordsHaveTheirLayout : Obligations.RecordsHaveTheirLayout := by
  unfold Obligations.RecordsHaveTheirLayout
  intro bit stamp rowOf ms
  have hms : ∀ x, ms x = x.leftMs := fun x => by
    cases x with
    | stopped => rfl
    | running n => rfl
    | paused n => rfl
  refine ⟨fun t => ticketBytes_layout, fun e => finishedBytes_layout, fun c => carBytes_layout,
    fun j s => ?_, fun s x => ⟨?_, ?_, ?_⟩, entryBytes_layout, fun s c hcode hcap => ?_,
    fun e hnumber hsubject => ?_, ?_, rfl, rfl, rfl, rfl, rfl, rfl, rfl, rfl, rfl, rfl, rfl, rfl,
    rfl, rfl, rfl, rfl, fun p tag rest s => ?_⟩
  · intro st b hpoints hpre hpost hlatency hleadMax hadvance hwithdraw hlevel hcount
    have hfits : st.RecordFits :=
      ⟨hpoints, hpre, hpost, hlatency, hleadMax, hadvance, hwithdraw, hlevel, hcount⟩
    obtain ⟨at0, at1, at2, at4, at5, at6, at8, at9, at10, at11, at12, at13, at15, at17, at19, at20,
      at21, at23⟩ := stationBytes_settings hfits
    refine ⟨stationBytes_length j s, at0, at1, at2, at4, at5, at6, at8, at9, at10, at11, at12, at13,
      at15, at17, at19, at20, at21, at23, stationBytes_served, fun g hg hj hleft => ?_,
      fun hother => ?_, fun harm => ?_, fun hswitched => ?_⟩
    · rw [hms, ← jogRemaining_own hg hj] at hleft ⊢
      exact stationBytes_jog hleft
    · rw [← jogRemaining_other hother]
      exact stationBytes_jog (by rw [jogRemaining_other hother]; decide)
    · simp only [hms]
      exact stationBytes_arm harm
    · obtain ⟨houtput, hcars, htimer, hcurrent⟩ := stationBytes_switched hswitched
      refine ⟨houtput.trans ?_, fun h => ?_, htimer, hcurrent⟩
      · rw [Bool.toNat, Bool.cond_eq_ite]
        exact if_congr (switchedOutput_iff hswitched) rfl rfl
      · rw [List.length_map] at h ⊢
        exact hcars h
  · rintro rfl
    rfl
  · rintro n lines left named rfl hn
    exact saleSlotBytes_layout rfl hn
  · rintro n g left rfl hn
    exact saleSlotBytes_layout rfl hn
  · obtain ⟨hlength, at0, at2, at3, at5, at7, at8, at12, hnamed⟩ := creditBytes_layout s hcode hcap
    refine ⟨hlength, at0, at2, at3, at5, at7, at8, at12, fun h => ?_, fun h => ?_⟩
    · exact hnamed.trans (by rw [codeNamed_iff.mpr h]; rfl)
    · exact hnamed.trans (by rw [Bool.eq_false_iff.mpr fun e => (codeNamed_iff.mp e).elim h]; rfl)
  · obtain ⟨hlength, at0, at1, at2, at4, at6, at10, at12⟩ := episodeBytes_layout hnumber hsubject
    refine ⟨hlength, at0, at1.trans ?_, at2, at4.trans ?_, at6, at10, at12.trans ?_⟩
    · unfold Episode.endCode
      rcases e.closing with _ | ⟨x, _ | _⟩ <;> rfl
    · cases e.subject with
      | none | ticket n | station j => rfl
      | eye x => cases x <;> rfl
    · unfold Episode.endField
      rcases e.closing with _ | ⟨x, ended⟩ <;> rfl
  · exact ⟨⟨rfl, rfl⟩, fun _ _ => ⟨rfl, rfl⟩, fun _ => ⟨rfl, rfl⟩, fun _ _ => ⟨rfl, rfl⟩,
      fun _ _ => ⟨rfl, rfl⟩, fun _ _ => ⟨rfl, rfl⟩, fun _ _ => ⟨rfl, rfl⟩, fun _ => ⟨rfl, rfl⟩,
      fun _ => ⟨rfl, rfl⟩, ⟨rfl, rfl⟩, ⟨rfl, rfl⟩, ⟨rfl, rfl⟩, fun _ => ⟨rfl, rfl⟩⟩
  · exact ⟨⟨rfl, rfl⟩, ⟨rfl, rfl⟩, ⟨rfl, rfl⟩, ⟨rfl, rfl⟩⟩

end Sys2Proof.Machine
end

section
/-! # The step (log entries 1 and 2)

A step by what its queue holds, and what the passing of time makes of each record of the tables. -/

namespace Sys2Proof.Machine

variable {s : State}

/-! ## The two forms of a step -/

/-- Log entry 1: a command waits, and the step is that command over the rest of the queue. -/
theorem step_of_pending_cons {c : Instr} {rest : List Instr} (h : s.pending = c :: rest) :
    step s = exec c { s with pending := rest } := by
  unfold step
  rw [h]

/-- Log entry 2: no command waits, and the step is the passing of one unit of time. -/
theorem step_of_pending_nil (h : s.pending = []) : step s = .next (advance 1 s) := by
  unfold step
  rw [h]

/-! ## Time that passes, table by table -/

theorem saleSlot_elapses (n : Nat) (s : State) (i : Lane) :
    (advance n s).saleSlot i = (s.saleSlot i).elapse n :=
  vmap_getElem ..

theorem machine_elapses (n : Nat) (s : State) (j : StationIx) :
    (advance n s).machine j = { s.machine j with
      advanceTimer := (s.machine j).advanceTimer.elapse n
      withdrawTimer := (s.machine j).withdrawTimer.elapse n } :=
  vmap_getElem ..

/-- R177: of a port, time moves the gap between two bytes alone. -/
theorem port_elapses (n : Nat) (s : State) (p : Port) :
    (advance n s).port p = { s.port p with gapTimer := (s.port p).gapTimer.elapse n } :=
  vmap_getElem ..

/-- Settles O1: a queue with a command at its front. -/
theorem stepTakesTheFrontCommand : Obligations.StepTakesTheFrontCommand := by
  unfold Obligations.StepTakesTheFrontCommand
  intro c rest s
  exact step_of_pending_cons (s := { s with pending := c :: rest }) rfl

/-- Settles O3: the step is the passing of one unit, which the tables show record by record; the
other records are those that the passing of time writes, or leaves. -/
theorem emptyQueueLetsTimePass : Obligations.EmptyQueueLetsTimePass := by
  unfold Obligations.EmptyQueueLetsTimePass
  intro s hempty
  have hqueue : (advance 1 s).pending = [] := hempty
  exact ⟨advance 1 s, step_of_pending_nil hempty, rfl, rfl, saleSlot_elapses 1 s, rfl, rfl,
    machine_elapses 1 s, rfl, rfl, port_elapses 1 s, rfl, rfl, rfl, rfl, rfl, rfl, rfl, rfl, rfl,
    hqueue⟩

end Sys2Proof.Machine
end
